-- ==== Sys2Proof/Word.lean ====
section
/-! DEFINITION. The word types of the device (spec/00_scope.md R5: little-endian bytes; 02 R46 register widths). -/

namespace Sys2Proof

/-- A byte of memory. -/
abbrev Byte := BitVec 8
/-- A v- or s-register (02 Table 2.1). -/
abbrev Word := BitVec 32
/-- A hart x register, a cursor, a device register (18 R362, 02 Table 2.4, 19 Table 19.7). -/
abbrev DWord := BitVec 64
/-- The 128 bits of a granule or of a capability without its tag (02 R51, R61). -/
abbrev QWord := BitVec 128

end Sys2Proof
end

