-- ==== Sys2Proof/Machine/Flags.lean ====
section
/-! DEFINITION. Floating-point formats, the one rounding procedure, the destination modifiers and the exception
flags (spec/03_number_formats.md R68-R81, R84, R85, R88-R90). A finite value is an exact dyadic number. -/

namespace Sys2Proof.Machine

/-- A floating-point format of Table 3.1. `noInf` holds for E4M3 alone (R69). -/
structure FpFormat where
  ebits : Nat
  fbits : Nat
  bias : Nat
  noInf : Bool
  deriving DecidableEq, Repr

def fp32 : FpFormat := ⟨8, 23, 127, false⟩
def fp16 : FpFormat := ⟨5, 10, 15, false⟩
def bf16 : FpFormat := ⟨8, 7, 127, false⟩
def e4m3 : FpFormat := ⟨4, 3, 7, true⟩
def e5m2 : FpFormat := ⟨5, 2, 15, false⟩

def FpFormat.width (f : FpFormat) : Nat := 1 + f.ebits + f.fbits
/-- The all-ones exponent field. -/
def FpFormat.etop (f : FpFormat) : Nat := 2 ^ f.ebits - 1
/-- The exponent of the unit in the last place of subnormals. -/
def FpFormat.qmin (f : FpFormat) : Int := 1 - (f.bias : Int) - f.fbits

/-- A value: a NaN (signalling or quiet), an infinity, or the dyadic (-1)^neg · m · 2^e. `sticky` says that the exact
magnitude lies strictly between m · 2^e and (m + 1) · 2^e: an irrational or unfinished result. -/
inductive FVal where
  | nan (signalling : Bool)
  | inf (neg : Bool)
  | num (neg : Bool) (m : Nat) (e : Int) (sticky : Bool)
  deriving DecidableEq, Repr

/-- NV DZ OF UF NX in bits 4-0 (Table 3.4). -/
abbrev FpFlags := BitVec 5

def flagNV : FpFlags := 16
def flagDZ : FpFlags := 8
def flagOF : FpFlags := 4
def flagUF : FpFlags := 2
def flagNX : FpFlags := 1

/-- The rounding modes of Table 3.3, and nearest for FRND alike. -/
inductive RMode where
  | rne | rz | ru | rd
  deriving DecidableEq, Repr

def RMode.ofCode (c : BitVec 2) : RMode :=
  if c = 0 then .rne else if c = 1 then .rz else if c = 2 then .ru else .rd

def FVal.zero (neg : Bool) : FVal := .num neg 0 0 false
def FVal.isNan : FVal → Bool
  | .nan _ => true
  | _ => false
def FVal.isSignalling : FVal → Bool
  | .nan s => s
  | _ => false
def FVal.isZero : FVal → Bool
  | .num _ m _ st => m == 0 && !st
  | _ => false
/-- The sign of an infinity or number. -/
def FVal.sign : FVal → Bool
  | .nan _ => false
  | .inf n => n
  | .num n _ _ _ => n

/-- The value of a bit pattern (R68-R70). -/
def FpFormat.decode (f : FpFormat) (w : Nat) : FVal :=
  let frac := w % 2 ^ f.fbits
  let ex := (w / 2 ^ f.fbits) % 2 ^ f.ebits
  let neg := w.testBit (f.fbits + f.ebits)
  if f.noInf then
    if ex = f.etop ∧ frac = 2 ^ f.fbits - 1 then .nan false
    else if ex = 0 then .num neg frac f.qmin false
    else .num neg (2 ^ f.fbits + frac) (f.qmin + (ex - 1 : Nat)) false
  else if ex = f.etop then
    if frac = 0 then .inf neg else .nan (!frac.testBit (f.fbits - 1))
  else if ex = 0 then .num neg frac f.qmin false
  else .num neg (2 ^ f.fbits + frac) (f.qmin + (ex - 1 : Nat)) false

/-- Number of bits of a natural number; 0 for 0. -/
def bitLen (n : Nat) : Nat := if n = 0 then 0 else n.log2 + 1

/-- The canonical NaN (R70). -/
def FpFormat.canonNan (f : FpFormat) : Nat :=
  if f.noInf then f.etop * 2 ^ f.fbits + (2 ^ f.fbits - 1) else f.etop * 2 ^ f.fbits + 2 ^ (f.fbits - 1)

/-- The largest finite value: mantissa and exponent (Table 3.1). -/
def FpFormat.maxM (f : FpFormat) : Nat := if f.noInf then 2 ^ (f.fbits + 1) - 2 else 2 ^ (f.fbits + 1) - 1
def FpFormat.maxE (f : FpFormat) : Int :=
  f.qmin + ((if f.noInf then f.etop - 1 else f.etop - 2 : Nat) : Int)

/-- Integer part of m · 2^k and whether a fraction was dropped, with the fraction's place against one half:
`(kept, exact, belowHalf, half)`. -/
def splitAt (m : Nat) (drop : Nat) (sticky : Bool) : Nat × Bool × Ordering :=
  let kept := m >>> drop
  let rem := m - kept <<< drop
  let half := if drop = 0 then 1 else 2 ^ (drop - 1)
  let ord :=
    if drop = 0 then Ordering.lt
    else if rem < half then Ordering.lt
    else if rem = half then (if sticky then Ordering.gt else Ordering.eq) else Ordering.gt
  (kept, rem = 0 && !sticky, ord)

/-- Rounds the magnitude m · 2^e (with `sticky`) to a multiple of 2^q: the multiple and whether it is exact. -/
def roundTo (mode : RMode) (neg : Bool) (m : Nat) (e q : Int) (sticky : Bool) : Nat × Bool :=
  if q ≤ e then
    let k := m <<< (e - q).toNat
    let up := sticky && (match mode with | .ru => !neg | .rd => neg | _ => false)
    (if up then k + 1 else k, !sticky)
  else
    let (k, exact, ord) := splitAt m (q - e).toNat sticky
    let up := !exact && (match mode with
      | .rne => ord == .gt || (ord == .eq && k % 2 == 1)
      | .rz => false
      | .ru => !neg
      | .rd => neg)
    (if up then k + 1 else k, exact)

/-- Compares m · 2^e with m' · 2^e'. -/
def cmpDyadic (m : Nat) (e : Int) (m' : Nat) (e' : Int) : Ordering :=
  if e ≤ e' then compare m (m' <<< (e' - e).toNat) else compare (m <<< (e - e').toNat) m'

/-- The exponent of the last place kept when a magnitude is rounded to `f`'s precision, unbounded. -/
def FpFormat.ulpExp (f : FpFormat) (m : Nat) (e : Int) : Int := (bitLen m : Int) - 1 + e - f.fbits

/-- The value after one rounding to format `f` (R73), with its flags (Table 3.4). An overflow gives an infinity or the
largest finite value as Table 3.3 says; in E4M3 it gives ±448 (R69, R218). -/
def FpFormat.round (f : FpFormat) (mode : RMode) (x : FVal) : FVal × FpFlags :=
  match x with
  | .nan s => (.nan false, if s then flagNV else 0)
  | .inf n => if f.noInf then (.num n f.maxM f.maxE false, flagNV) else (.inf n, 0)
  | .num n m e st =>
    if m = 0 ∧ st = false then (.num n 0 0 false, 0)
    else
      let qu := f.ulpExp m e
      let (ku, _) := roundTo mode n m e qu st
      let q := if qu < f.qmin then f.qmin else qu
      let (k, exact) := roundTo mode n m e q st
      if cmpDyadic ku qu f.maxM f.maxE == .gt then
        let toInf := match mode with | .rne => true | .rz => false | .ru => !n | .rd => n
        ((if toInf && !f.noInf then .inf n else .num n f.maxM f.maxE false), flagOF ||| flagNX)
      else
        let tiny := cmpDyadic ku qu (2 ^ f.fbits) f.qmin == .lt
        (.num n k q false, (if exact then 0 else flagNX) ||| (if tiny && !exact then flagUF else 0))

/-- The bit pattern of a value that `f` represents. -/
def FpFormat.encode (f : FpFormat) (x : FVal) : Nat :=
  match x with
  | .nan _ => f.canonNan
  | .inf n => (if n then 2 ^ (f.ebits + f.fbits) else 0) + f.etop * 2 ^ f.fbits
  | .num n m e _ =>
    let s := if n then 2 ^ (f.ebits + f.fbits) else 0
    if m = 0 then s
    else
      let len := bitLen m
      let lead : Int := (len : Int) - 1 + e
      let q := if lead - f.fbits < f.qmin then f.qmin else lead - f.fbits
      let k := if q ≤ e then m <<< (e - q).toNat else m >>> (q - e).toNat
      if k < 2 ^ f.fbits then s + k
      else s + ((q - f.qmin).toNat + 1) * 2 ^ f.fbits + (k - 2 ^ f.fbits)

/-- x · 2^k. -/
def FVal.scale (x : FVal) (k : Int) : FVal :=
  match x with
  | .num n m e st => .num n m (e + k) st
  | v => v

/-- Order of two values that are not NaN, -0 equal to +0. -/
def FVal.cmp (x y : FVal) : Ordering :=
  match x, y with
  | .nan _, _ => .eq
  | _, .nan _ => .eq
  | .inf n, .inf n' => if n = n' then .eq else if n then .lt else .gt
  | .inf n, .num .. => if n then .lt else .gt
  | .num .., .inf n => if n then .gt else .lt
  | .num n m e _, .num n' m' e' _ =>
    if m = 0 ∧ m' = 0 then .eq
    else if m = 0 then (if n' then .gt else .lt)
    else if m' = 0 then (if n then .lt else .gt)
    else if n ≠ n' then (if n then .lt else .gt)
    else if n then cmpDyadic m' e' m e else cmpDyadic m e m' e'

def FVal.neg (x : FVal) : FVal :=
  match x with
  | .nan s => .nan s
  | .inf n => .inf (!n)
  | .num n m e st => .num (!n) m e st

/-- The exact value 1. -/
def FVal.one : FVal := .num false 1 0 false

/-- The destination modifiers of R77 after the one rounding: `clampBound` is s62's pattern. -/
def FpFormat.clampTo (f : FpFormat) (clamp : BitVec 2) (clampBound : Word) (y : FVal) : FVal :=
  if y.isNan then .nan false
  else if clamp = 0 then y
  else if clamp = 1 then
    if y.sign then .zero false
    else if y.cmp .one == .gt then .one else y
  else if clamp = 2 then
    if y.cmp FVal.one.neg == .lt then FVal.one.neg else if y.cmp .one == .gt then .one else y
  else
    let b0 := fp32.decode (clampBound.toNat % 2 ^ 31)
    if b0.isNan then y
    else
      let b := match b0 with
        | .inf _ => if f.noInf then .num false f.maxM f.maxE false else .inf false
        | v => (f.round .rz v).1
      if y.cmp b == .gt then b else if y.cmp b.neg == .lt then b.neg else y

/-- dest of R77: scale and rounding in one, then the clamp. -/
def FpFormat.dest (f : FpFormat) (mode : RMode) (scale : BitVec 4) (clamp : BitVec 2) (clampBound : Word)
    (x : FVal) : Nat × FpFlags :=
  let (y, fl) := f.round mode (x.scale scale.toInt)
  (f.encode (f.clampTo clamp clampBound y), fl)

/-- neg and abs of a source pattern (R76). -/
def FpFormat.modSource (f : FpFormat) (neg abs : Bool) (w : Nat) : Nat :=
  let top := 2 ^ (f.ebits + f.fbits)
  let w := if abs then w % top else w % (2 * top)
  if neg then (if w < top then w + top else w - top) else w

/-- NV when an operand is a signalling NaN (R209). -/
def nvOf (xs : List FVal) : FpFlags := if xs.any FVal.isSignalling then flagNV else 0

/-- The exact sum, with the sign of an exact zero from R74. -/
def FVal.add (mode : RMode) (x y : FVal) : FVal × FpFlags :=
  match x, y with
  | .nan _, _ => (.nan false, nvOf [x, y])
  | _, .nan _ => (.nan false, nvOf [x, y])
  | .inf n, .inf n' => if n = n' then (.inf n, 0) else (.nan false, flagNV)
  | .inf n, _ => (.inf n, 0)
  | _, .inf n => (.inf n, 0)
  | .num n m e _, .num n' m' e' _ =>
    if m = 0 ∧ m' = 0 then (.zero (if n = n' then n else mode == .rd), 0)
    else
      let q := if e ≤ e' then e else e'
      let a : Int := (if n then -1 else 1) * ((m <<< (e - q).toNat : Nat) : Int)
      let b : Int := (if n' then -1 else 1) * ((m' <<< (e' - q).toNat : Nat) : Int)
      let s := a + b
      if s = 0 then (.zero (mode == .rd), 0) else (.num (decide (s < 0)) s.natAbs q false, 0)

/-- The exact product; 0 · ∞ is invalid (Table 9.1). -/
def FVal.mul (x y : FVal) : FVal × FpFlags :=
  match x, y with
  | .nan _, _ => (.nan false, nvOf [x, y])
  | _, .nan _ => (.nan false, nvOf [x, y])
  | .inf n, .inf n' => (.inf (n != n'), 0)
  | .inf n, .num n' m _ _ => if m = 0 then (.nan false, flagNV) else (.inf (n != n'), 0)
  | .num n m _ _, .inf n' => if m = 0 then (.nan false, flagNV) else (.inf (n != n'), 0)
  | .num n m e _, .num n' m' e' _ => (.num (n != n') (m * m') (e + e') false, 0)

/-- a · b + c with one rounding to come (R90): 0 · ∞ is invalid whatever c is. -/
def FVal.fma (mode : RMode) (a b c : FVal) : FVal × FpFlags :=
  let nv := nvOf [a, b, c]
  match a.mul b with
  | (.nan _, fl) => (.nan false, fl ||| nv)
  | (p, fl) =>
    let (s, fl') := p.add mode c
    (s, fl ||| fl' ||| nv)

/-- FMIN and FMAX by Table 3.5, as the exact operand. -/
def FVal.minMax (isMax num : Bool) (x y : FVal) : FVal × FpFlags :=
  let nv := nvOf [x, y]
  if x.isNan && y.isNan then (.nan false, nv)
  else if x.isNan then (if num then y else .nan false, nv)
  else if y.isNan then (if num then x else .nan false, nv)
  else
    let lt := match x.cmp y with
      | .lt => true
      | .gt => false
      | .eq => if x.isZero && y.isZero then x.sign else true
    (if lt != isMax then x else y, nv)

/-- FSET by Table 9.2: the result and the flags. -/
def FVal.compareBy (code : BitVec 3) (x y : FVal) : Bool × FpFlags :=
  let un := x.isNan || y.isNan
  let nv := if 2 ≤ code.toNat ∧ code.toNat ≤ 5 then (if un then flagNV else 0) else nvOf [x, y]
  let o := x.cmp y
  let r :=
    if code = 0 then !un && o == .eq
    else if code = 1 then un || o != .eq
    else if code = 2 then !un && o == .lt
    else if code = 3 then !un && o != .gt
    else if code = 4 then !un && o == .gt
    else if code = 5 then !un && o != .lt
    else if code = 6 then un
    else !un
  (r, nv)

/-- FCLASS by Table 9.3, from the FP32 pattern. -/
def fclass32 (w : Word) : Word :=
  match fp32.decode w.toNat with
  | .nan true => 0x100
  | .nan false => 0x200
  | .inf n => if n then 0x001 else 0x080
  | .num n m _ _ =>
    if m = 0 then (if n then 0x008 else 0x010)
    else if m < 2 ^ 23 then (if n then 0x004 else 0x020)
    else (if n then 0x002 else 0x040)

/-- Rounds to an integer under a mode: the exact integer and whether the rounding was exact. -/
def FVal.toInteger (mode : RMode) (neg : Bool) (m : Nat) (e : Int) : Int × Bool :=
  let (k, exact) := roundTo mode neg m e 0 false
  (if neg then -(k : Int) else k, exact)

/-- FRND (R217): an integral value that keeps the sign of a. -/
def FVal.roundIntegral (mode : RMode) (x : FVal) : FVal × FpFlags :=
  match x with
  | .nan s => (.nan false, if s then flagNV else 0)
  | .inf n => (.inf n, 0)
  | .num n m e _ =>
    let (k, _) := roundTo mode n m e 0 false
    if 0 ≤ e then (.num n m e false, 0) else (.num n k 0 false, 0)

/-- An element format of Table 5.11: floating point, or an integer with its width and sign. -/
inductive ElemFormat where
  | fp (f : FpFormat)
  | int (signed : Bool) (width : Nat)
  deriving DecidableEq, Repr

/-- Codes 0-8 of Table 5.11; CB2 and the reserved codes give none. -/
def elemFormat (code : Nat) : Option ElemFormat :=
  match code with
  | 0 => some (.fp fp32)
  | 1 => some (.fp fp16)
  | 2 => some (.fp bf16)
  | 3 => some (.fp e4m3)
  | 4 => some (.fp e5m2)
  | 5 => some (.int true 8)
  | 6 => some (.int false 8)
  | 7 => some (.int true 32)
  | 8 => some (.int false 32)
  | _ => none

def ElemFormat.width : ElemFormat → Nat
  | .fp f => f.width
  | .int _ w => w

/-- Least and greatest value of an integer format (Table 3.2). -/
def intMin (signed : Bool) (w : Nat) : Int := if signed then -(2 ^ (w - 1) : Int) else 0
def intMax (signed : Bool) (w : Nat) : Int := if signed then 2 ^ (w - 1) - 1 else 2 ^ w - 1

def saturate (lo hi x : Int) : Int := if x < lo then lo else if hi < x then hi else x

/-- The exact integer of a pattern. -/
def intOfBits (signed : Bool) (w bits : Nat) : Int :=
  let b := bits % 2 ^ w
  if signed && b.testBit (w - 1) then (b : Int) - 2 ^ w else b

/-- The pattern of an integer in w bits, wrapping. -/
def bitsOfInt (w : Nat) (x : Int) : Nat := (x % (2 ^ w : Int)).toNat

/-- An exact integer as a value. -/
def FVal.ofInt (x : Int) : FVal := .num (decide (x < 0)) x.natAbs 0 false

/-- FCVT (R218, Table 9.6): the destination element's bits and the flags. The source pattern has its modifiers applied. -/
def fcvtElem (src dst : ElemFormat) (mode : RMode) (scale : BitVec 4) (clamp : BitVec 2) (bound : Word)
    (bits : Nat) : Nat × FpFlags :=
  match src, dst with
  | .fp f, .fp g =>
    let x := f.decode bits
    let nv := nvOf [x]
    let (y, fl) := g.dest mode scale clamp bound x
    (y, fl ||| nv)
  | .int s w, .fp g => g.dest mode scale clamp bound (.ofInt (intOfBits s w bits))
  | .fp f, .int s w =>
    match f.decode bits with
    | .nan _ => (0, flagNV)
    | .inf n => (bitsOfInt w (if n then intMin s w else intMax s w), flagNV)
    | .num n m e _ =>
      let (k, exact) := FVal.toInteger mode n m e
      let r := saturate (intMin s w) (intMax s w) k
      (bitsOfInt w r, if r ≠ k then flagNV else if exact then 0 else flagNX)
  | .int s w, .int s' w' =>
    (bitsOfInt w' (saturate (intMin s' w') (intMax s' w') (intOfBits s w bits)), 0)

/-- bound of R84: the effective bound of a rounding conversion, as a value of the destination. -/
def effectiveBound (dst : ElemFormat) (rb : Word) : FVal :=
  let r := fp32.decode rb.toNat
  let mx : FVal := match dst with
    | .fp f => .num false f.maxM f.maxE false
    | .int s w => .ofInt (intMax s w)
  if r.isNan || r.isZero || r.sign || r.cmp mx != .lt then mx
  else match dst, r with
    | .fp f, v => (f.round .rz v).1
    | .int _ _, .num n m e _ => .ofInt (FVal.toInteger .rz n m e).1
    | .int _ _, v => v

/-- narrow of R84, from an exact value to the destination's bits. -/
def narrow (dst : ElemFormat) (rb : Word) (x : FVal) : Nat :=
  let b := effectiveBound dst rb
  match dst with
  | .fp f =>
    match x with
    | .nan _ => f.canonNan
    | .inf n => f.encode (if n then b.neg else b)
    | .num n m e st =>
      if m = 0 then f.encode (.zero n)
      else
        let qu := f.ulpExp m e
        let q := if qu < f.qmin then f.qmin else qu
        let y := FVal.num n (roundTo .rne n m e q st).1 q false
        f.encode (if y.cmp b == .gt then b else if y.cmp b.neg == .lt then b.neg else y)
  | .int s w =>
    let bi : Int := match b with | .num _ m e _ => (FVal.toInteger .rz false m e).1 | _ => intMax s w
    match x with
    | .nan _ => 0
    | .inf n => bitsOfInt w (if n then (if s then -bi else 0) else bi)
    | .num n m e _ =>
      let (k, _) := FVal.toInteger .rne n m e
      bitsOfInt w (saturate (if s then -bi else 0) bi k)

/-- The exact pairings of R85, by format code. -/
def isExactConversion (src dst : Nat) : Bool :=
  (dst == 0 && [1, 2, 3, 4, 5, 6].contains src) || ([1, 2].contains dst && [3, 4, 5, 6].contains src)
    || (dst == 7 && [5, 6].contains src) || (dst == 8 && src == 6)

/-- A conversion inside an engine (R84, R85, R286): equal formats move bits, exact ones keep values, others narrow. -/
def engineConvert (src dst : Nat) (rb : Word) (bits : Nat) : Nat :=
  if src = dst then bits
  else match elemFormat src, elemFormat dst with
    | some sf, some df =>
      let x : FVal := match sf with
        | .fp f => f.decode bits
        | .int s w => .ofInt (intOfBits s w bits)
      if isExactConversion src dst then
        match df with
        | .fp f => f.encode (f.round .rne x).1
        | .int _ w => match x with
          | .num n m e _ => bitsOfInt w (FVal.toInteger .rz n m e).1
          | _ => 0
      else narrow df rb x
    | _, _ => 0

end Sys2Proof.Machine
end

