-- ==== Sys2Proof/Machine/IntOps.lean ====
section
/-! DEFINITION. Integer arithmetic on 32-bit registers (spec/08_control_and_integer.md R201-R205, Tables 7.2, 7.3, 8.4),
byte permutation (spec/09 R226), lane reductions (R89, R225) and the codebook decode (spec/03 R82). -/

namespace Sys2Proof.Machine

/-- A word read as INT32, or as UINT32 with `.u` (R202). -/
def readInt (u : Bool) (x : Word) : Int := if u then (x.toNat : Int) else x.toInt

def satS (x : Int) : Word := BitVec.ofInt 32 (saturate (-2147483648) 2147483647 x)
def satU (x : Int) : Word := BitVec.ofInt 32 (saturate 0 4294967295 x)

def opIadd (sat : Bool) (a b : Word) : Word := if sat then satS (a.toInt + b.toInt) else a + b
def opIsub (sat : Bool) (a b : Word) : Word := if sat then satS (a.toInt - b.toInt) else a - b
def opImul (a b : Word) : Word := a * b
/-- Bits 63-32 of the exact 64-bit product (Table 8.4). -/
def opImulhi (u : Bool) (a b : Word) : Word := BitVec.ofInt 32 ((readInt u a * readInt u b) / 4294967296)
def opImad (u sat : Bool) (a b c : Word) : Word :=
  if sat then
    (if u then satU (readInt true a * readInt true b + readInt true c) else satS (a.toInt * b.toInt + c.toInt))
  else a * b + c
def opImin (u : Bool) (a b : Word) : Word := if readInt u a ≤ readInt u b then a else b
def opImax (u : Bool) (a b : Word) : Word := if readInt u a ≤ readInt u b then b else a
def opIabs (sat : Bool) (a : Word) : Word :=
  if sat then satS (a.toInt.natAbs : Int) else (if a.toInt < 0 then -a else a)
def opIneg (sat : Bool) (a : Word) : Word := if sat then satS (-a.toInt) else -a
def opAnd (a b : Word) : Word := a &&& b
def opOr (a b : Word) : Word := a ||| b
def opXor (a b : Word) : Word := a ^^^ b
def opAndn (a b : Word) : Word := a &&& ~~~b
def opShl (a b : Word) : Word := if 32 ≤ b.toNat then 0 else a <<< b.toNat
def opShr (a b : Word) : Word := if 32 ≤ b.toNat then 0 else a >>> b.toNat
def opSar (a b : Word) : Word := a.sshiftRight (if 31 ≤ b.toNat then 31 else b.toNat)
def opRot (a b : Word) : Word := a.rotateLeft (b.toNat % 32)

/-- Position and width of a bit field (R203). -/
def fieldOf (b : Word) : Nat × Nat :=
  let pos := b.toNat % 256
  let len := (b.toNat / 256) % 256
  (pos, if pos < 32 then min len (32 - pos) else 0)

def opBfx (u : Bool) (a b : Word) : Word :=
  let (pos, n) := fieldOf b
  if n = 0 then 0
  else
    let f := (a.toNat >>> pos) % 2 ^ n
    if !u && f.testBit (n - 1) then BitVec.ofInt 32 ((f : Int) - 2 ^ n) else BitVec.ofNat 32 f

def opBfi (d b c : Word) : Word :=
  let (pos, n) := fieldOf b
  if n = 0 then d
  else
    let mask : Word := BitVec.ofNat 32 ((2 ^ n - 1) <<< pos)
    (d &&& ~~~mask) ||| ((c <<< pos) &&& mask)

/-- Number of set bits among the low `n`. -/
def popcountAux (w : Nat) : Nat → Nat
  | 0 => 0
  | n + 1 => (if w.testBit n then 1 else 0) + popcountAux w n

def opPopc (a : Word) : Word := BitVec.ofNat 32 (popcountAux a.toNat 32)
def opClz (a : Word) : Word := BitVec.ofNat 32 (32 - bitLen a.toNat)
def opBrev (a : Word) : Word := a.reverse

/-- ISET's condition codes (Table 7.3). -/
def opIset (u : Bool) (code : BitVec 3) (a b : Word) : Bool :=
  if code = 0 then a == b
  else if code = 1 then a != b
  else if code = 2 then decide (readInt u a < readInt u b)
  else if code = 3 then decide (readInt u a ≤ readInt u b)
  else if code = 4 then decide (readInt u b < readInt u a)
  else decide (readInt u b ≤ readInt u a)

/-- PLOP (R187). -/
def opPlop (fn : BitVec 3) (acc : BitVec 2) (na nb nc x y old : Bool) : Bool :=
  let x := x ^^ na
  let y := y ^^ nb
  let r := if fn = 0 then x && y else if fn = 1 then x || y else if fn = 2 then x ^^ y else x
  let r := r ^^ nc
  if acc = 0 then r else if acc = 1 then old && r else if acc = 2 then old || r else old ^^ r

/-- One byte of PRMT (R226). -/
def prmtByte (pool : DWord) (s : Byte) : Byte :=
  let x : Byte := pool.extractLsb' (8 * (s.toNat % 8)) 8
  let x := if s.getLsbD 3 then x.reverse else x
  let y : Byte :=
    if s.extractLsb' 4 2 = 0 then x
    else if s.extractLsb' 4 2 = 1 then 0x00
    else if s.extractLsb' 4 2 = 2 then 0xFF
    else if x.getLsbD 7 then 0xFF else 0x00
  if s.getLsbD 6 then ~~~y else y

def opPrmt (a b c : Word) : Word :=
  let pool : DWord := b ++ a
  prmtByte pool (c.extractLsb' 24 8) ++ prmtByte pool (c.extractLsb' 16 8)
    ++ prmtByte pool (c.extractLsb' 8 8) ++ prmtByte pool (c.extractLsb' 0 8)

/-- LRED's identity (Table 9.10). -/
def lredIdentity (code : Nat) : Word :=
  match code with
  | 0 => 0x80000000
  | 1 => 0
  | 2 => 0x7FFFFFFF
  | 3 => 0x80000000
  | 4 => 0xFFFFFFFF
  | 5 => 0
  | 6 => 0xFFFFFFFF
  | 7 => 0
  | _ => 0

/-- One combination of LRED: the lower lane is the left operand. -/
def lredCombine (code : Nat) (x y : Word) : Word × FpFlags :=
  match code with
  | 0 =>
    let (v, fl) := (fp32.decode x.toNat).add .rne (fp32.decode y.toNat)
    let (r, fl') := fp32.dest .rne 0 0 0 v
    (BitVec.ofNat 32 r, fl ||| fl')
  | 1 => (x + y, 0)
  | 2 => (opImin false x y, 0)
  | 3 => (opImax false x y, 0)
  | 4 => (opImin true x y, 0)
  | 5 => (opImax true x y, 0)
  | 6 => (x &&& y, 0)
  | 7 => (x ||| y, 0)
  | _ => (x ^^^ y, 0)

/-- One round of the butterfly of R89 at stride `st`; positions are the list's indices. -/
def lredRound (code st : Nat) (y : List (Word × FpFlags)) : List (Word × FpFlags) :=
  (List.range y.length).map fun l =>
    let hi := if (l / st) % 2 = 1 then l else l + st
    let lo := hi - st
    let a := y.getD lo (0, 0)
    let b := y.getD hi (0, 0)
    let (r, fl) := lredCombine code a.1 b.1
    (r, a.2 ||| b.2 ||| fl)

/-- The butterfly over `fuel` rounds from stride `st`. -/
def lredRounds (code : Nat) : Nat → Nat → List (Word × FpFlags) → List (Word × FpFlags)
  | 0, _, y => y
  | fuel + 1, st, y => if st < y.length then lredRounds code fuel (2 * st) (lredRound code st y) else y

/-- The eight weights of a CB2 code (R82), as exact values in halves. -/
def decodeCb2 (entry : Word) (c : BitVec 16) : List FVal :=
  let n := popcountAux ((c.toNat / 2) % 128) 7
  let s7 := c.getLsbD 0 ^^ (n % 2 == 1)
  (List.range 8).map fun i =>
    let s := if i = 7 then s7 else c.getLsbD (i + 1)
    .num s ((entry.toNat >>> (4 * i)) % 16) (-1) false

end Sys2Proof.Machine
end

