-- ==== Sys2Proof/Config.lean ====
section
/-! DEFINITION. What the spec leaves open and an implementation or the outside fixes: opaque constants without a body,
applied to a plain counter of State or to the operands the value depends on (logs 3, 20). -/

namespace Sys2Proof.Config

/-- A value that the spec leaves undefined: a register above the live counts after a swap (spec/05 R136), a register of
a device whose read value is not stated. The counter makes each use a fresh value. -/
opaque freeWord : Nat → BitVec 64

/-- The pseudo-channel, 0-127, of its die on which a line of HBM4E lies (spec/24 R470 gives no interleave). -/
opaque channelOf : Nat → Nat

/-! Cryptography and formats whose bytes the spec does not give (spec/23 R445, R450; spec/24 R462-R469). -/

/-- A key that a key exchange with the outside gives, as the counter goes on (R454, R466). -/
opaque exchangedKey : Nat → BitVec 256
/-- The GCM tag of the flit that a key protects under a nonce, which names one flit (R456, R466). -/
opaque flitTag : Option (BitVec 256) → BitVec 96 → BitVec 128
/-- SHA-384. -/
opaque sha384 : List Byte → BitVec 384
/-- The digest of an item whose encoding the spec does not give: a tag for the item, then its parts. -/
opaque digest : List Nat → BitVec 384
/-- An image's signature checks against the fused root key. -/
opaque imageSigned : List Byte → Bool
/-- An image's security version. -/
opaque imageSvn : List Byte → Nat
/-- An image supports a state block's major version; the version of the block that an image writes, as major and minor (R450). -/
opaque imageAccepts : List Byte → Nat → Bool
opaque stateVersion : List Byte → Nat × Nat
/-- The ROM recovery image (R445). -/
opaque recoveryImage : List Byte
/-- What an image's configuration says: the package number, whether the module belongs to a pod, and the pod's package count
(R458); the bytes that its HDM decoders map, and over how many devices (R455). -/
opaque imagePackage : List Byte → Nat × Bool × Nat
opaque imageHdm : List Byte → Nat × Nat
/-- The IOMMU's directory pointer and fault-queue base that an image's configuration sets (R453; log 16). -/
opaque imageIommu : List Byte → BitVec 64 × BitVec 64
/-- The SPDM response to a request, from the attestation key and the measurements (R459, R466). -/
opaque spdmResponse : List Byte → List (BitVec 384) → List Byte
/-- The fused minimum security version. -/
opaque fusedSvn : Nat
/-- The evidence token of: nonce, measurements, dbgstat, svn, fence map, replace flag, boot number (R463). -/
opaque evidence : List Byte → List (BitVec 384) → Nat → Nat → List Nat → Bool → Nat → List Byte
/-- A debug token's signature checks (R464). -/
opaque debugSigned : List Byte → Bool
/-- A debug token names this device, its lifecycle state and the nonce (R464). -/
opaque debugMatches : List Byte → List Byte → Bool
/-- The root of a signed fleet-root envelope, when its signature checks (R467). -/
opaque fleetRootOf : List Byte → Option (BitVec 256)
/-- A policy's hash, the digests it admits for an index, and its minimum security version (Table 24.4). -/
opaque policyHash : List Byte → BitVec 384
opaque policyAdmits : List Byte → Nat → BitVec 384 → Bool
opaque policySvn : List Byte → Nat
/-- A chunk sealed under fleet root, policy hash, nonce, header and index; and opened again when its tag checks. -/
opaque sealChunk : BitVec 256 → BitVec 384 → BitVec 64 → List Byte → Nat → List Byte → List Byte
opaque openChunk : BitVec 256 → BitVec 384 → BitVec 64 → List Byte → Nat → List Byte → Option (List Byte)

end Sys2Proof.Config
end

