-- ==== Sys2Proof/Syntax.lean ====
section
/-! DEFINITION. The instructions and steps of spec/opcode_table.json, one constructor of `Instr` for each row.
A compute instruction (spec/05 R141) carries its head (Table 5.3) and its body (Tables 5.4-5.10) as raw fields;
an Xkcap instruction (spec/18 R371) the fields of Table 18.5. A step of the device names only itself: which request, bin,
launch or port it concerns, and what comes from outside, stand in `State.ev` (log 2). -/

namespace Sys2Proof

/-- The head of an instruction word without its opcode: spec/05 Table 5.3. -/
structure Head where
  /-- Producer distance, bits [69:66]. -/
  d : BitVec 4
  /-- Wait tag allocated, bits [65:63]. -/
  talloc : BitVec 3
  /-- Tags waited on, bits [62:57]. -/
  wmask : BitVec 6
  /-- Guard predicate, bits [56:54]. -/
  guard : BitVec 3
  /-- Guard inverted, bit 53. -/
  gneg : Bool
  deriving DecidableEq, Repr

/-- R format: spec/05 Table 5.4. -/
structure RBody where
  d : BitVec 8
  a : BitVec 8
  b : BitVec 8
  c : BitVec 8
  na : Bool
  aa : Bool
  nb : Bool
  ab : Bool
  nc : Bool
  ac : Bool
  clamp : BitVec 2
  scale : BitVec 4
  variant : BitVec 9
  deriving DecidableEq, Repr

/-- I format: spec/05 Table 5.5. -/
structure IBody where
  d : BitVec 8
  a : BitVec 8
  imm : BitVec 32
  variant : BitVec 5
  deriving DecidableEq, Repr

/-- M format: spec/05 Table 5.6. -/
structure MBody where
  data : BitVec 8
  k : BitVec 4
  index : BitVec 8
  iscale : BitVec 2
  offset : BitVec 20
  size : BitVec 3
  order : BitVec 2
  scope : BitVec 3
  variant : BitVec 3
  deriving DecidableEq, Repr

/-- K format: spec/05 Table 5.7. -/
structure KBody where
  kd : BitVec 4
  ka : BitVec 4
  kb : BitVec 4
  a : BitVec 8
  imm : BitVec 24
  variant : BitVec 9
  deriving DecidableEq, Repr

/-- X format: spec/05 Table 5.8. -/
structure XBody where
  gang : BitVec 3
  acc : BitVec 9
  ta : BitVec 8
  tb : BitVec 8
  tk : BitVec 4
  fmt : BitVec 4
  op : BitVec 5
  flags : BitVec 12
  deriving DecidableEq, Repr

/-- B format: spec/05 Table 5.9. -/
structure BBody where
  target : BitVec 24
  variant : BitVec 9
  k : BitVec 4
  reserved : BitVec 16
  deriving DecidableEq, Repr

/-- S format: spec/05 Table 5.10. -/
structure SBody where
  ek : BitVec 4
  kx0 : BitVec 4
  kx1 : BitVec 4
  v : BitVec 8
  count : BitVec 4
  flags : BitVec 9
  imm : BitVec 20
  deriving DecidableEq, Repr

/-- A hart AMO (the A extension, spec/18 R362). -/
inductive AmoOp where
  | swap | add | xor | and | or | min | max | minu | maxu
  deriving DecidableEq, Repr

/-- A standard hart memory access (spec/18 R364, R365): width 0-3 is 1, 2, 4 or 8 bytes. -/
inductive HartAccess where
  | load (width : BitVec 2) (unsigned : Bool) (rd rs1 : BitVec 5) (imm : BitVec 12)
  | store (width : BitVec 2) (rs2 rs1 : BitVec 5) (imm : BitVec 12)
  | fload (double : Bool) (rd rs1 : BitVec 5) (imm : BitVec 12)
  | fstore (double : Bool) (rs2 rs1 : BitVec 5) (imm : BitVec 12)
  | lr (double : Bool) (aq rl : Bool) (rd rs1 : BitVec 5)
  | sc (double : Bool) (aq rl : Bool) (rd rs1 rs2 : BitVec 5)
  | amo (op : AmoOp) (double : Bool) (aq rl : Bool) (rd rs1 rs2 : BitVec 5)
  deriving DecidableEq, Repr

/-- The six CSR instructions of Zicsr: the register forms and the immediate forms (spec/18 R362). -/
inductive CsrOp where
  | rw | rs | rc | rwi | rsi | rci
  deriving DecidableEq, Repr

/-- The instructions and steps: one constructor for each row of spec/opcode_table.json,
those that carry fields first. -/
inductive Instr where
  /-- NOP (R174). -/
  | nop (h : Head) (b : RBody)
  /-- BRA (R192). -/
  | bra (h : Head) (b : BBody)
  /-- BR (R193). -/
  | br (h : Head) (b : BBody)
  /-- BRX (R194). -/
  | brx (h : Head) (b : BBody)
  /-- CALL (R195). -/
  | call (h : Head) (b : BBody)
  /-- RET (R196). -/
  | ret (h : Head) (b : BBody)
  /-- REFORM (R197). -/
  | reform (h : Head) (b : BBody)
  /-- EXIT (R198). -/
  | exit (h : Head) (b : RBody)
  /-- TRAP (R199). -/
  | trap (h : Head) (b : IBody)
  /-- BRK (R199). -/
  | brk (h : Head) (b : IBody)
  /-- PLOP (R187). -/
  | plop (h : Head) (b : RBody)
  /-- IADD (R202). -/
  | iadd (h : Head) (b : RBody)
  /-- IADD_IMM (R176). -/
  | iaddImm (h : Head) (b : IBody)
  /-- ISUB (R202). -/
  | isub (h : Head) (b : RBody)
  /-- ISUB_IMM (R176). -/
  | isubImm (h : Head) (b : IBody)
  /-- IMUL (R202). -/
  | imul (h : Head) (b : RBody)
  /-- IMUL_IMM (R176). -/
  | imulImm (h : Head) (b : IBody)
  /-- IMULHI (R202). -/
  | imulhi (h : Head) (b : RBody)
  /-- IMULHI_IMM (R176). -/
  | imulhiImm (h : Head) (b : IBody)
  /-- IMAD (R202). -/
  | imad (h : Head) (b : RBody)
  /-- IMIN (R202). -/
  | imin (h : Head) (b : RBody)
  /-- IMIN_IMM (R176). -/
  | iminImm (h : Head) (b : IBody)
  /-- IMAX (R202). -/
  | imax (h : Head) (b : RBody)
  /-- IMAX_IMM (R176). -/
  | imaxImm (h : Head) (b : IBody)
  /-- IABS (R202). -/
  | iabs (h : Head) (b : RBody)
  /-- INEG (R202). -/
  | ineg (h : Head) (b : RBody)
  /-- AND (R202). -/
  | and (h : Head) (b : RBody)
  /-- AND_IMM (R176). -/
  | andImm (h : Head) (b : IBody)
  /-- OR (R202). -/
  | or (h : Head) (b : RBody)
  /-- OR_IMM (R176). -/
  | orImm (h : Head) (b : IBody)
  /-- XOR (R202). -/
  | xor (h : Head) (b : RBody)
  /-- XOR_IMM (R176). -/
  | xorImm (h : Head) (b : IBody)
  /-- ANDN (R202). -/
  | andn (h : Head) (b : RBody)
  /-- ANDN_IMM (R176). -/
  | andnImm (h : Head) (b : IBody)
  /-- SHL (R202). -/
  | shl (h : Head) (b : RBody)
  /-- SHL_IMM (R176). -/
  | shlImm (h : Head) (b : IBody)
  /-- SHR (R202). -/
  | shr (h : Head) (b : RBody)
  /-- SHR_IMM (R176). -/
  | shrImm (h : Head) (b : IBody)
  /-- SAR (R202). -/
  | sar (h : Head) (b : RBody)
  /-- SAR_IMM (R176). -/
  | sarImm (h : Head) (b : IBody)
  /-- ROT (R202). -/
  | rot (h : Head) (b : RBody)
  /-- ROT_IMM (R176). -/
  | rotImm (h : Head) (b : IBody)
  /-- BFX (R203). -/
  | bfx (h : Head) (b : RBody)
  /-- BFX_IMM (R203). -/
  | bfxImm (h : Head) (b : IBody)
  /-- BFI (R203). -/
  | bfi (h : Head) (b : RBody)
  /-- POPC (R202). -/
  | popc (h : Head) (b : RBody)
  /-- CLZ (R202). -/
  | clz (h : Head) (b : RBody)
  /-- BREV (R202). -/
  | brev (h : Head) (b : RBody)
  /-- ISET (R204). -/
  | iset (h : Head) (b : RBody)
  /-- ISET_IMM (R176). -/
  | isetImm (h : Head) (b : IBody)
  /-- SEL (R205). -/
  | sel (h : Head) (b : RBody)
  /-- FADD (R210). -/
  | fadd (h : Head) (b : RBody)
  /-- FADD_IMM (R208). -/
  | faddImm (h : Head) (b : IBody)
  /-- FSUB (R210). -/
  | fsub (h : Head) (b : RBody)
  /-- FSUB_IMM (R208). -/
  | fsubImm (h : Head) (b : IBody)
  /-- FMUL (R210). -/
  | fmul (h : Head) (b : RBody)
  /-- FMUL_IMM (R208). -/
  | fmulImm (h : Head) (b : IBody)
  /-- FFMA (R210). -/
  | ffma (h : Head) (b : RBody)
  /-- FMIN (R212). -/
  | fmin (h : Head) (b : RBody)
  /-- FMIN_IMM (R208). -/
  | fminImm (h : Head) (b : IBody)
  /-- FMAX (R212). -/
  | fmax (h : Head) (b : RBody)
  /-- FMAX_IMM (R208). -/
  | fmaxImm (h : Head) (b : IBody)
  /-- FSET (R213). -/
  | fset (h : Head) (b : RBody)
  /-- FSET_IMM (R208). -/
  | fsetImm (h : Head) (b : IBody)
  /-- FRCP (R215). -/
  | frcp (h : Head) (b : RBody)
  /-- FRSQ (R215). -/
  | frsq (h : Head) (b : RBody)
  /-- FSQRT (R215). -/
  | fsqrt (h : Head) (b : RBody)
  /-- FEX2 (R215). -/
  | fex2 (h : Head) (b : RBody)
  /-- FLG2 (R215). -/
  | flg2 (h : Head) (b : RBody)
  /-- FSIN (R216). -/
  | fsin (h : Head) (b : RBody)
  /-- FCOS (R216). -/
  | fcos (h : Head) (b : RBody)
  /-- FTANH (R216). -/
  | ftanh (h : Head) (b : RBody)
  /-- FRND (R217). -/
  | frnd (h : Head) (b : RBody)
  /-- FCVT (R218). -/
  | fcvt (h : Head) (b : RBody)
  /-- FCLASS (R214). -/
  | fclass (h : Head) (b : RBody)
  /-- FSCL (R211). -/
  | fscl (h : Head) (b : RBody)
  /-- HADD2 (R219). -/
  | hadd2 (h : Head) (b : RBody)
  /-- HMUL2 (R219). -/
  | hmul2 (h : Head) (b : RBody)
  /-- HFMA2 (R219). -/
  | hfma2 (h : Head) (b : RBody)
  /-- MOV (R221). -/
  | mov (h : Head) (b : RBody)
  /-- MOVI (R221). -/
  | movi (h : Head) (b : IBody)
  /-- MOVS (R222). -/
  | movs (h : Head) (b : RBody)
  /-- SHFL (R223). -/
  | shfl (h : Head) (b : RBody)
  /-- VOTE (R224). -/
  | vote (h : Head) (b : RBody)
  /-- LRED (R225). -/
  | lred (h : Head) (b : RBody)
  /-- PRMT (R226). -/
  | prmt (h : Head) (b : RBody)
  /-- GETSR (R228). -/
  | getsr (h : Head) (b : IBody)
  /-- SETSR (R229). -/
  | setsr (h : Head) (b : IBody)
  /-- LD (R236). -/
  | ld (h : Head) (b : MBody)
  /-- ST (R236). -/
  | st (h : Head) (b : MBody)
  /-- LDK (R237). -/
  | ldk (h : Head) (b : MBody)
  /-- STK (R238). -/
  | stk (h : Head) (b : MBody)
  /-- LDS (R236). -/
  | lds (h : Head) (b : MBody)
  /-- STS (R236). -/
  | sts (h : Head) (b : MBody)
  /-- LDFE (R240). -/
  | ldfe (h : Head) (b : MBody)
  /-- LDFE_KEEP (R240). -/
  | ldfeKeep (h : Head) (b : MBody)
  /-- STFE (R240). -/
  | stfe (h : Head) (b : MBody)
  /-- STFE_FORCE (R240). -/
  | stfeForce (h : Head) (b : MBody)
  /-- FENCE (R245). -/
  | fence (h : Head) (b : MBody)
  /-- FLUSH (R246). -/
  | flush (h : Head) (b : MBody)
  /-- INVAL (R246). -/
  | inval (h : Head) (b : MBody)
  /-- PREF (R247). -/
  | pref (h : Head) (b : MBody)
  /-- ATOM_ADD (R244). -/
  | atomAdd (h : Head) (b : MBody)
  /-- ATOM_ADD_F32 (R244). -/
  | atomAddF32 (h : Head) (b : MBody)
  /-- ATOM_MIN (R244). -/
  | atomMin (h : Head) (b : MBody)
  /-- ATOM_MAX (R244). -/
  | atomMax (h : Head) (b : MBody)
  /-- ATOM_AND (R244). -/
  | atomAnd (h : Head) (b : MBody)
  /-- ATOM_OR (R244). -/
  | atomOr (h : Head) (b : MBody)
  /-- ATOM_XOR (R244). -/
  | atomXor (h : Head) (b : MBody)
  /-- ATOM_XCHG (R244). -/
  | atomXchg (h : Head) (b : MBody)
  /-- ATOM_CAS (R244). -/
  | atomCas (h : Head) (b : MBody)
  /-- ATOM_INCW (R244). -/
  | atomIncw (h : Head) (b : MBody)
  /-- ATOM_BFADD (R244). -/
  | atomBfadd (h : Head) (b : MBody)
  /-- RED_ADD (R244). -/
  | redAdd (h : Head) (b : MBody)
  /-- RED_ADD_F32 (R244). -/
  | redAddF32 (h : Head) (b : MBody)
  /-- RED_MIN (R244). -/
  | redMin (h : Head) (b : MBody)
  /-- RED_MAX (R244). -/
  | redMax (h : Head) (b : MBody)
  /-- RED_AND (R244). -/
  | redAnd (h : Head) (b : MBody)
  /-- RED_OR (R244). -/
  | redOr (h : Head) (b : MBody)
  /-- RED_XOR (R244). -/
  | redXor (h : Head) (b : MBody)
  /-- RED_INCW (R244). -/
  | redIncw (h : Head) (b : MBody)
  /-- KADDR (R251). -/
  | kaddr (h : Head) (b : KBody)
  /-- KBASE (R251). -/
  | kbase (h : Head) (b : KBody)
  /-- KLEN (R251). -/
  | klen (h : Head) (b : KBody)
  /-- KPERM (R251). -/
  | kperm (h : Head) (b : KBody)
  /-- KTYPE (R251). -/
  | ktype (h : Head) (b : KBody)
  /-- KTAG (R251). -/
  | ktag (h : Head) (b : KBody)
  /-- KSETA (R252). -/
  | kseta (h : Head) (b : KBody)
  /-- KINC (R252). -/
  | kinc (h : Head) (b : KBody)
  /-- KBND (R253). -/
  | kbnd (h : Head) (b : KBody)
  /-- KBNDX (R253). -/
  | kbndx (h : Head) (b : KBody)
  /-- KANDP (R254). -/
  | kandp (h : Head) (b : KBody)
  /-- KSEAL (R255). -/
  | kseal (h : Head) (b : KBody)
  /-- KUNSEAL (R255). -/
  | kunseal (h : Head) (b : KBody)
  /-- KSUB (R251). -/
  | ksub (h : Head) (b : KBody)
  /-- KCLR (R254). -/
  | kclr (h : Head) (b : KBody)
  /-- KMOV (R254). -/
  | kmov (h : Head) (b : KBody)
  /-- KENTRY (R256). -/
  | kentry (h : Head) (b : KBody)
  /-- BAR (R267). -/
  | bar (h : Head) (b : IBody)
  /-- MWAIT (R269). -/
  | mwait (h : Head) (b : MBody)
  /-- MWAIT_EQ (R269). -/
  | mwaitEq (h : Head) (b : MBody)
  /-- LOCK (R268). -/
  | lock (h : Head) (b : MBody)
  /-- UNLOCK (R268). -/
  | unlock (h : Head) (b : MBody)
  /-- WREG (R270). -/
  | wreg (h : Head) (b : KBody)
  /-- WDEREG (R270). -/
  | wdereg (h : Head) (b : KBody)
  /-- WHOLD (R271). -/
  | whold (h : Head) (b : KBody)
  /-- SEND (R274). -/
  | send (h : Head) (b : SBody)
  /-- RECV (R274). -/
  | recv (h : Head) (b : SBody)
  /-- CALLE (R274). -/
  | calle (h : Head) (b : SBody)
  /-- REPLY (R274). -/
  | reply (h : Head) (b : SBody)
  /-- NSIG (R276). -/
  | nsig (h : Head) (b : SBody)
  /-- NWAIT (R276). -/
  | nwait (h : Head) (b : SBody)
  /-- YIELD (R277). -/
  | yield (h : Head) (b : RBody)
  /-- TDEF (R294). -/
  | tdef (h : Head) (b : RBody)
  /-- TSTAT (R295). -/
  | tstat (h : Head) (b : RBody)
  /-- TWAIT (R296). -/
  | twait (h : Head) (b : RBody)
  /-- TREL (R297). -/
  | trel (h : Head) (b : RBody)
  /-- GANG (R298). -/
  | gang (h : Head) (b : IBody)
  /-- COPY (R299). -/
  | copy (h : Head) (b : XBody)
  /-- COPYM (R300). -/
  | copym (h : Head) (b : XBody)
  /-- MMA (R301). -/
  | mma (h : Head) (b : XBody)
  /-- MMAK (R302). -/
  | mmak (h : Head) (b : XBody)
  /-- SCACC (R303). -/
  | scacc (h : Head) (b : XBody)
  /-- ACLR (R304). -/
  | aclr (h : Head) (b : XBody)
  /-- AINIT (R304). -/
  | ainit (h : Head) (b : XBody)
  /-- ADRAIN (R305). -/
  | adrain (h : Head) (b : XBody)
  /-- LAUNCH (R335). -/
  | launch (h : Head) (b : KBody)
  /-- PCLAIM (R322). -/
  | pclaim (h : Head) (b : MBody)
  /-- PDONE (R324). -/
  | pdone (h : Head) (b : MBody)
  /-- SCHRD (R325). -/
  | schrd (h : Head) (b : KBody)
  /-- SCHWR (R325). -/
  | schwr (h : Head) (b : KBody)
  /-- COVRD (R326). -/
  | covrd (h : Head) (b : KBody)
  /-- SPAWN (R328). -/
  | spawn (h : Head) (b : KBody)
  /-- REGGIVE (R334). -/
  | reggive (h : Head) (b : IBody)
  /-- REGCLAIM (R334). -/
  | regclaim (h : Head) (b : IBody)
  /-- PDIM (R403). -/
  | pdim (h : Head) (b : IBody)
  /-- PCANCEL (R403). -/
  | pcancel (h : Head) (b : RBody)
  /-- PREPEAT (R403). -/
  | prepeat (h : Head) (b : RBody)
  /-- KLD (R372). -/
  | kld (d : BitVec 5) (b : BitVec 5) (imm : BitVec 12)
  /-- KST (R372). -/
  | kst (a : BitVec 5) (b : BitVec 5) (imm : BitVec 12)
  /-- KINC_HART (R373). -/
  | kincHart (d a : BitVec 5) (imm : BitVec 12)
  /-- KANDP_HART (R373). -/
  | kandpHart (d a : BitVec 5) (mask : BitVec 12)
  /-- KBND_HART (R373). -/
  | kbndHart (d a l : BitVec 5)
  /-- KBNDX_HART (R373). -/
  | kbndxHart (d a l : BitVec 5)
  /-- KADDR_HART (R373). -/
  | kaddrHart (d a : BitVec 5)
  /-- KADDR_SET (R373). -/
  | kaddrSet (d a x : BitVec 5)
  /-- KSEAL_HART (R373). -/
  | ksealHart (d a b : BitVec 5)
  /-- KUNSEAL_HART (R373). -/
  | kunsealHart (d a b : BitVec 5)
  /-- KENTRY_HART (R373). -/
  | kentryHart (d a : BitVec 5)
  /-- KMODE_RD (R374). -/
  | kmodeRd (d r : BitVec 5)
  /-- KMODE_WR (R374). -/
  | kmodeWr (r a : BitVec 5)
  /-- KMODE_JMP (R374). -/
  | kmodeJmp (d a : BitVec 5)
  /-- KSEND (R376). -/
  | ksend (count : BitVec 4) (x e y : BitVec 5)
  /-- KRECV (R376). -/
  | krecv (nb : Bool) (count : BitVec 4) (x e y : BitVec 5)
  /-- KCALL (R379). -/
  | kcall (count : BitVec 4) (x e y : BitVec 5)
  /-- KREPLY (R376). -/
  | kreply (count : BitVec 4) (x y : BitVec 5)
  /-- OMAKE (R375). -/
  | omake (d u t : BitVec 5)
  /-- ASPACE_TEARDOWN (R425). -/
  | aspaceTeardown (count : BitVec 4) (x e y : BitVec 5)
  /-- ASID_RELEASE (R426). -/
  | asidRelease (count : BitVec 4) (x e y : BitVec 5)
  /-- SWEEP_START (R431). -/
  | sweepStart (count : BitVec 4) (x e y : BitVec 5)
  /-- OBJECT_REVOKE (R432). -/
  | objectRevoke (count : BitVec 4) (x e y : BitVec 5)
  /-- HART_MEMORY_ACCESS (R364). -/
  | hartMemoryAccess (a : HartAccess)
  /-- UNASSIGNED_OPCODE (R173). -/
  | unassignedOpcode (op : BitVec 10) (h : Head) (body : BitVec 53)
  /-- HART_FENCE (R123). -/
  | hartFence (fm pred succ : BitVec 4)
  /-- XKCAP_CSR_ACCESS (R369). -/
  | xkcapCsrAccess (op : CsrOp) (csr : BitVec 12) (rd rs1 : BitVec 5)
  /-- KMODE_CAP (R374). -/
  | kmodeCap
  /-- KMODE_INT (R374). -/
  | kmodeInt
  /-- MRET (R368). -/
  | mret
  /-- SRET (R368). -/
  | sret
  /-- TRAP_ENTRY (R368). -/
  | trapEntry
  /-- MTIMECMP_MATCH (R383). -/
  | mtimecmpMatch
  /-- STIMECMP_MATCH (R383). -/
  | stimecmpMatch
  /-- INTERRUPT_FILE_WRITE (R380). -/
  | interruptFileWrite
  /-- DOORBELL (R395). -/
  | doorbell
  /-- CTXUPD (R400). -/
  | ctxupd
  /-- WFOVF (R397). -/
  | wfovf
  /-- XINV (R415). -/
  | xinv
  /-- XINV_COMPLETE (R415). -/
  | xinvComplete
  /-- REGISTER_WRITE (R397). -/
  | registerWrite
  /-- UPDATE (R446). -/
  | update
  /-- HANDOVER (R450). -/
  | handover
  /-- LOGREAD (R449). -/
  | logread
  /-- EVIDENCE (R463). -/
  | evidence
  /-- DEBUG_UNLOCK (R465). -/
  | debugUnlock
  /-- EXPORT (R468). -/
  | exportCmd
  /-- IMPORT (R469). -/
  | importCmd
  /-- PROVISION (R467). -/
  | provision
  /-- HEALTH (R473). -/
  | health
  /-- MAILBOX_FENCE (R471). -/
  | mailboxFence
  /-- REKEY (R466). -/
  | rekey
  /-- POWER_ON (R66). -/
  | powerOn
  /-- BOOT_STEP (R447). -/
  | bootStep
  /-- BOOT_WATCHDOG_EXPIRY (R447). -/
  | bootWatchdogExpiry
  /-- RESULT_WRITEBACK (R154). -/
  | resultWriteback
  /-- BLOCK_ENTRY (R139). -/
  | blockEntry
  /-- BIN_AGE_EXPIRY (R24). -/
  | binAgeExpiry
  /-- BIN_IDLE_FORM (R25). -/
  | binIdleForm
  /-- GROUP_STARVED (R22). -/
  | groupStarved
  /-- YIELD_EXPIRY (R277). -/
  | yieldExpiry
  /-- FAULT_REPLY (R419). -/
  | faultReply
  /-- ACCESS_AT_EXECUTION_POINT (R121). -/
  | accessAtExecutionPoint
  /-- ACCESS_REPLY (R162). -/
  | accessReply
  /-- FLUSH_PROBE_REPLY (R118). -/
  | flushProbeReply
  /-- LINE_EVICTION (R99). -/
  | lineEviction
  /-- WRITE_BACK (R99). -/
  | writeBack
  /-- REMOTE_ACCESS_REQUEST (R248). -/
  | remoteAccessRequest
  /-- FLIT_RECEIVE (R456). -/
  | flitReceive
  /-- KEY_ROTATION_START (R466). -/
  | keyRotationStart
  /-- OLD_KEY_EXPIRY (R466). -/
  | oldKeyExpiry
  /-- BARRIER_PHASE_COMPLETE (R266). -/
  | barrierPhaseComplete
  /-- RENDEZVOUS_COMPLETE (R38). -/
  | rendezvousComplete
  /-- REGISTRATION_WALK_END (R260). -/
  | registrationWalkEnd
  /-- ENGINE_ACCEPT (R287). -/
  | engineAccept
  /-- ENGINE_OPERATION_START (R288). -/
  | engineOperationStart
  /-- MMA_COMPLETE (R301). -/
  | mmaComplete
  /-- MMAK_COMPLETE (R302). -/
  | mmakComplete
  /-- SCACC_COMPLETE (R303). -/
  | scaccComplete
  /-- ACLR_COMPLETE (R304). -/
  | aclrComplete
  /-- AINIT_COMPLETE (R304). -/
  | ainitComplete
  /-- COPY_COMPLETE (R299). -/
  | copyComplete
  /-- COPYM_DELIVERY (R300). -/
  | copymDelivery
  /-- DRAIN_WRITE_ACK (R305). -/
  | drainWriteAck
  /-- ADRAIN_COMPLETE (R305). -/
  | adrainComplete
  /-- ENGINE_FAULT (R290). -/
  | engineFault
  /-- ENGINE_FAULT_REPLY (R290). -/
  | engineFaultReply
  /-- MAILBOX_DELIVERY (R323). -/
  | mailboxDelivery
  /-- QCB_LOAD (R396). -/
  | qcbLoad
  /-- QUEUE_ENTRY_TAKE (R395). -/
  | queueEntryTake
  /-- PROLOGUE_START (R401). -/
  | prologueStart
  /-- LAUNCH_VALIDATE (R399). -/
  | launchValidate
  /-- WORKGROUP_DISTRIBUTE (R404). -/
  | workgroupDistribute
  /-- WORKGROUP_START (R42). -/
  | workgroupStart
  /-- LAUNCH_FINISH (R406). -/
  | launchFinish
  /-- COMPLETION_STAMP_WRITE (R406). -/
  | completionStampWrite
  /-- TASK_SPILL (R327). -/
  | taskSpill
  /-- TASK_REFILL (R327). -/
  | taskRefill
  /-- TASK_READY (R329). -/
  | taskReady
  /-- TASK_TAKE (R330). -/
  | taskTake
  /-- TRANSIT_ACK (R332). -/
  | transitAck
  /-- PREEMPT_DECISION (R421). -/
  | preemptDecision
  /-- FILL_COMPLETE (R424). -/
  | fillComplete
  /-- BANK_SWAP (R423). -/
  | bankSwap
  /-- SPILL_COMPLETE (R423). -/
  | spillComplete
  /-- SWEEP_REGISTER_PHASE (R434). -/
  | sweepRegisterPhase
  /-- SWEEP_MEMORY_PHASE (R434). -/
  | sweepMemoryPhase
  /-- SWEEP_STATE_PHASE (R434). -/
  | sweepStatePhase
  /-- SWEEP_COMPLETE (R434). -/
  | sweepComplete
  /-- REMOTE_PASS_REQUEST (R436). -/
  | remotePassRequest
  /-- REMOTE_PASS_ACK (R436). -/
  | remotePassAck
  /-- REMOTE_PASS_TIMEOUT (R436). -/
  | remotePassTimeout
  /-- IRQ_LINE_ASSERT (R390). -/
  | irqLineAssert
  /-- INBOUND_DMA (R453). -/
  | inboundDma
  /-- INBOUND_MSI (R453). -/
  | inboundMsi
  /-- ROOT_PORT_ERROR (R452). -/
  | rootPortError
  /-- MANAGEMENT_MESSAGE (R459). -/
  | managementMessage
  /-- POWER_LOSS (R446). -/
  | powerLoss
  /-- CORE_RESET (R332). -/
  | coreReset
  /-- MAILBOX_COMMAND_COMPLETE (R449). -/
  | mailboxCommandComplete
  /-- UNCORRECTABLE_ERROR (R127). -/
  | uncorrectableError
  deriving DecidableEq, Repr

end Sys2Proof
end

