-- ==== Sys2Proof/Machine/State.lean ====
section
/-! DEFINITION. The whole state of the device as plain data, its faults and refusals, and the state after power-on.
Every field cites the rule of spec/ that gives it; INVENTORY.md lists them with their reset values. -/

namespace Sys2Proof.Machine

/-- How a boot step ends (spec/23 R444, R447): what the step's own work found. -/
inductive BootOutcome where
  | ok | failed
  deriving DecidableEq, Repr


/-- What a reply of a fault server says (spec/20 R419): resume, skip or terminate. -/
inductive FaultVerdict where
  | resume | skip | terminate
  deriving DecidableEq, Repr

/-- A privilege level that owns an interrupt file (spec/18 Table 18.7). -/
inductive IntLevel where
  | m | s
  deriving DecidableEq, Repr

/-- A capability with its tag: spec/02 Table 2.4. -/
structure Cap where
  tag : Bool
  perms : BitVec 12
  otype : BitVec 18
  e : BitVec 6
  b : BitVec 14
  t : BitVec 14
  cursor : DWord
  deriving DecidableEq, Repr

/-- The null capability (R51). -/
def Cap.null : Cap := ⟨false, 0, 0, 0, 0, 0, 0⟩

/-- A v- or s-register with its poison bit (R46, R127). -/
structure VReg where
  val : Word
  poison : Bool
  deriving DecidableEq, Repr

/-- A k-register with its poison bit (R46, R127). -/
structure KReg where
  cap : Cap
  poison : Bool
  deriving DecidableEq, Repr

/-- A register write that has a time to land: of a thread's v, k or predicate register, of an s-register, or flags to be
ORed into fpflags (R154, R80). -/
inductive Wr where
  | v (tid n : Nat) (x : Word) (poison : Bool)
  | s (n : Nat) (x : Word) (poison : Bool)
  | k (tid n : Nat) (c : Cap) (poison : Bool)
  | p (tid n : Nat) (b : Bool)
  | flags (f : BitVec 5)
  deriving DecidableEq, Repr

/-- A fixed-latency result on its way: written when the bank's clock reaches `due` (R154, R156). -/
structure PendWrite where
  due : Nat
  wr : Wr
  /-- Threads that made the write, lowest first, for an s-register (R165), or raised the flags. -/
  tids : List Nat
  /-- The group whose instruction made it (R80, R159). -/
  grp : Nat
  deriving DecidableEq, Repr

/-- Who waits, holds or sends: a compute thread by workgroup and tid, a control hart, an engine operation, or the Hall of
a die (R108, R259, R290, R416). -/
inductive Party where
  | thread (wg tid : Nat)
  | hart (n : Nat)
  /-- A hart's call made through one of its message slots (R379). -/
  | hartSlot (n slot : Nat)
  | engine (op : Nat)
  | hall (die : Nat)
  /-- A request of another package of the pod (R126). -/
  | remote (pkg req : Nat)
  deriving DecidableEq, Repr

/-- Where a held thread's fault arose (Table 20.7). -/
inductive FaultAt where
  | instr
  | entry
  /-- A continuation span inside a block (R134). -/
  | span
  | gang (op : Nat)
  deriving DecidableEq, Repr

/-- What a held thread resumes or skips to (R32, R419). -/
structure HeldRec where
  place : FaultAt
  pc : DWord
  skipPc : DWord
  /-- The skip leads to another block. -/
  skipNew : Bool
  code : BitVec 8
  /-- The reply that came while the workgroup was suspended (Table 1.7). -/
  reply : Option FaultVerdict
  /-- Slot of the fault record area that this fault's cycle record occupies (R263). -/
  record : Option Nat
  deriving DecidableEq, Repr

/-- Where a live thread stands (R23-R33). -/
inductive ThreadStatus where
  | grouped
  | filed
  | parked
  | held (h : HeldRec)
  | ended
  deriving DecidableEq, Repr

/-- An ordered channel's destination port (R117). -/
inductive Chan where
  | scratch (core : Nat)
  | vault (core : Nat)
  | slice (die slice : Nat)
  | control
  | fabric (pkg : Nat)
  deriving DecidableEq, Repr

/-- A barrier's instance: level 0-4, instance number, barrier number, launch (R266, Table 11.1). -/
structure BarKey where
  launch : Nat
  level : Nat
  inst : Nat
  num : Nat
  deriving DecidableEq, Repr

/-- The block a group executes, from its header (Table 5.1). -/
structure Block where
  span : DWord
  len : Nat
  slots : Nat
  livev : Nat
  livek : Nat
  priv : Bool
  safe : Bool
  prol : Bool
  deriving DecidableEq, Repr

/-- A thread of a workgroup (R15, R46). -/
structure Thread where
  tid : Nat
  v : List VReg
  k : List KReg
  p : BitVec 8
  pPoison : BitVec 8
  pcc : Cap
  /-- Bit i is set while wait tag w(i+1) is pending. -/
  tags : BitVec 6
  status : ThreadStatus
  /-- The used set of ordered channels, each with the number of the last request that used it (R117). -/
  used : List (Chan × Nat)
  /-- The reply slot (R275): who is owed a reply. -/
  slot : Option Party
  /-- The phase in which the thread was last counted at each barrier (R267). -/
  counted : List (BarKey × Nat)
  /-- Address of the instruction that led the thread to its next block (R139). -/
  via : DWord
  /-- The thread resumes inside its block, not by entering one. -/
  midBlock : Bool
  /-- The block it was in when it left its group. -/
  blk : Block
  /-- It was formed from a REFORM bin and has not entered its block (R136). -/
  reformed : Bool
  deriving DecidableEq, Repr

/-- A group (R19-R22, R157). `members` are (pos, tid) pairs in ascending pos. -/
structure Group where
  id : Nat
  members : List (Nat × Nat)
  pc : DWord
  blk : Block
  /-- The group has still to enter the block at `pc` (R139). -/
  entering : Bool
  /-- It issues nothing before this time: outstanding results of its threads (R29), the next ac (R190). -/
  notBefore : Nat
  /-- Completion times of the window's executed instructions, latest first, at most 15; 0 for variable latency. -/
  recent : List Nat
  /-- Latest completion among older instructions of the window. -/
  older : Nat
  /-- Instructions executed in the window (R157, R158). -/
  executed : Nat
  lastIssue : Nat
  /-- Since when the group has been ready (R22). -/
  readySince : Option Nat
  /-- When the group became starved (R22). -/
  starved : Option Nat
  /-- YIELD: not ready until this time or until these groups have issued (R277). -/
  yieldUntil : Option Nat
  yieldOthers : List Nat
  /-- Parked intact: the tids whose wait has not ended (R31). -/
  parkedOn : List Nat
  /-- Stopped at a pre-emption point until the swap (R423). -/
  stopped : Bool
  deriving DecidableEq, Repr

/-- A bin of a bank (R24): free bins are not listed. -/
structure Bin where
  core : Nat
  bank : Nat
  index : Nat
  wg : Nat
  resume : DWord
  home : Option Nat
  since : Nat
  members : List Nat
  deriving DecidableEq, Repr

/-- A thread's arrival at a rendezvous latch (R38): its group, word, slice values, tensor capability and request. -/
structure Arrival where
  tid : Nat
  grp : Nat
  word : BitVec 80
  pc : DWord
  slice : List Word
  kreg : Cap
  req : Nat
  deriving DecidableEq, Repr

structure Latch where
  gang : Nat
  arrivals : List Arrival
  /-- The operation whose rendezvous is complete and that has not been accepted (R287). -/
  op : Option Nat
  deriving DecidableEq, Repr

/-- A workgroup's life (Table 1.7). -/
inductive Life where
  | loading | running | suspended | draining | retired
  deriving DecidableEq, Repr

/-- An accumulator tile (R291, R292): contents only while it holds a result. -/
structure AccTile where
  state : Nat
  data : List Word
  poison : Bool
  deriving DecidableEq, Repr

/-- A workgroup (R14-R18, R42-R48). A prologue is a workgroup on pseudo-core 1024 + die (R401). -/
structure Workgroup where
  id : Nat
  launch : Nat
  core : Nat
  bank : Nat
  slot : Nat
  wgid : Nat
  w : Nat
  g : Nat
  nv : Nat
  nk : Nat
  life : Life
  prologue : Bool
  asid : Nat
  agelim : Nat
  chk : Bool
  roles : DWord
  threads : List Thread
  s : List VReg
  fpflags : BitVec 5
  pend : List PendWrite
  groups : List Group
  gangs : List (BitVec 16)
  latches : List Latch
  /-- Tile-table entries (spec/12 Table 12.1). -/
  tiles : List DWord
  accs : List AccTile
  /-- First accumulator tile of the core that is a0, and the first scratchpad and vault byte, with their lengths. -/
  accBase : Nat
  scrBase : Nat
  scrLen : Nat
  vaultBase : Nat
  vaultLen : Nat
  /-- v-registers per thread given away and not yet claimed, by (from role, to role) (R334). -/
  pools : List (Nat × Nat × Nat)
  /-- Its bank's clock when it was suspended (R34, R423). -/
  savedClock : Nat
  /-- The save slot of its core that holds its context, when it lies in no bank (R420, R423). -/
  saved : Option Nat
  /-- Spilled scratchpad bytes with their full/empty and poison bits, by offset (R422). -/
  spillScr : Option (List Byte × List Nat × List Nat)
  /-- Its accumulator units are spilled (R422). -/
  spillAcc : Bool
  deriving DecidableEq, Repr

/-- The groups that have issued together in the latest issue cycle (R21), as (workgroup, lowest tid). -/
structure Packed where
  time : Nat
  bank : Nat
  taken : List (Nat × Nat)
  asid : Nat
  pc : DWord
  lanes : Nat
  groups : Nat
  deriving DecidableEq, Repr

/-- A core's issue state (R18, R19): the active bank, each bank's clock in ac, and a requested swap (R423). -/
structure Core where
  id : Nat
  active : Nat
  clock0 : Nat
  clock1 : Nat
  /-- Clock of the active bank when it became active (R421). -/
  since : Nat
  /-- Clock of the active bank when readiness was last noted (R22). -/
  seen : Nat
  /-- What may still issue in the ac of the latest issue (R21). -/
  pack : Option Packed
  swapRequested : Bool
  /-- A fill of the shadow bank in progress: the workgroups it brings (R421, R424). -/
  filling : List Nat
  /-- The outgoing bank's workgroups whose spill has not ended, with their slot (R423). -/
  spilling : Option (Nat × List Nat)
  /-- Fenced by the Threshold (R470). -/
  fenced : Bool
  deriving DecidableEq, Repr

/-- Atomic operations (spec/07 Table 7.8). -/
inductive AtomOp where
  | add | addF32 | min | max | and | or | xor | xchg | cas | incw | bfadd
  deriving DecidableEq, Repr

/-- A message (R247-R274): label, values, capabilities, who sent it, and whether a reply is owed. -/
structure Msg where
  label : BitVec 20
  vals : List Word
  cap0 : Option Cap
  cap1 : Option Cap
  call : Bool
  sender : Party
  deriving DecidableEq, Repr

/-- What a request does at a schedule point (R311-R326). -/
inductive SchedAct where
  | claim
  /-- The mailbox's bytes are the request's. -/
  | asyncClaim
  | mark (ws : List Word)
  | rd (reg : Nat)
  | wr (reg : Nat) (x : Word)
  | cov (word : Nat)
  deriving DecidableEq, Repr

/-- What one lane's outstanding variable-latency instruction does at its object: memory accesses (spec/10), locks and
monitors (spec/11 R268, R269), fences (R245), messages (R274), notifications (R276), barriers (R267), tiles (R296),
gang rendezvous (R38), and results that only wait for their completion (R162). -/
inductive ReqOp where
  | load (sx : Bool)
  | store (data : List (Byte × Bool))
  | loadCap (loadk : Bool)
  | storeCap (c : Cap) (poison : Bool)
  | ldfe (keep : Bool)
  | stfe (data : List (Byte × Bool)) (force : Bool)
  | atom (op : AtomOp) (unsig : Bool) (a b : Nat) (red : Bool)
  | lock
  | unlock
  | monitor (eq : Bool) (value : Nat)
  | fence (acq rel : Bool)
  | flush (all inval : Bool)
  | send (m : Msg)
  | recv (count : Nat) (kx0 kx1 : Nat)
  | awaitReply (count : Nat) (kx0 kx1 : Nat)
  | reply (caller : Party) (m : Msg)
  | nsig (bits : Word)
  | nwait (mask : Word)
  | barrier (key : BarKey) (phase : Nat) (count : Bool) (wait : Bool)
  | twait (tile : Nat) (empty : Bool)
  | gangWait (gang : Nat) (op : Option Nat)
  | sched (act : SchedAct)
  /-- Another lane of an instruction that acts once (R320): it ends with the acting lane. -/
  | follow
  /-- The delivery of an asynchronous claim at its mailbox (R323). -/
  | mailbox (words : List Word)
  /-- A range task; the bytes of its operand words are the request's (R328). -/
  | spawn (entry operands : Cap) (lo hi : Nat)
  /-- A launch record, whose bytes are the request's, for the queue that is its object (R335). -/
  | launch
  | budget (give : Bool) (role m : Nat)
  | result
  deriving DecidableEq, Repr

/-- How far a request has come. `releasing` has still to see its flush probes answered (R118); `sent` may be performed;
`registering` has found it must wait and its walk is in flight (R260); `waiting` is parked at its object; `travelling`
is in another package (R248); `done` has been performed and its reply carries the register writes (R162), and for a hart
the message or word itself; `failed` will fault its thread when its reply arrives. -/
inductive Phase where
  | releasing (probes : List Chan)
  | sent
  /-- The lower half of a strong access of 16 bytes has been performed, and has read these bytes (R105). -/
  | half (bs : List (Byte × Bool))
  | registering
  | waiting
  | travelling
  | done (writes : List Wr) (m : Option Msg)
  | failed (code : BitVec 8) (addr : DWord) (aux0 aux1 aux2 : Word)
  deriving DecidableEq, Repr

/-- A translation cache (Table 20.3): of a core, of quad core / 4, of a die. -/
inductive TlbUnit where
  | core (c : Nat)
  | quad (q : Nat)
  | die (d : Nat)
  deriving DecidableEq, Repr

/-- An entry of a translation cache: one page of any size, as `pages` pages of 4 KiB from `vpn` on, with its leaf PTE (R409,
R412). -/
structure TlbEntry where
  unit : TlbUnit
  asid : Nat
  vpn : Nat
  pages : Nat
  ppn : Nat
  pte : DWord
  deriving DecidableEq, Repr

/-- An outstanding request of one lane, or of a hart (spec/04 R104-R119; spec/06 R160-R163). -/
structure Request where
  id : Nat
  /-- Requests of one instruction share the batch. -/
  batch : Nat
  who : Party
  /-- The launch and identity of the thread, which may end before its request does (R198). -/
  launch : Nat
  name : Word
  core : Nat
  grp : Nat
  pos : Nat
  op : ReqOp
  phase : Phase
  /-- Access address, for the fault message. -/
  x : Nat
  /-- Physical address of each byte. -/
  pas : List Nat
  /-- The object: physical address of a word, endpoint or notification. -/
  obj : Nat
  size : Nat
  order : BitVec 2
  scope : Nat
  /-- Performed at the home whatever its order: a page of PBMT NC or IO, an uncached space (R93). -/
  strong : Bool
  /-- Page of PBMT IO: program order on its channel (R93). -/
  io : Bool
  /-- The leaf PTE sets CW (R411). -/
  cw : Bool
  /-- The translations that its access went through (R415). -/
  via : List TlbEntry
  /-- The ordered channels that it uses (R117). -/
  chans : List Chan
  /-- First data register byte, capability register, report or success predicate. -/
  data : Nat
  kreg : Nat
  pred : Nat
  /-- Number of the authority k-register, for the fault message. -/
  auth : Nat
  /-- This lane writes an s-register destination (R233). -/
  lowest : Bool
  /-- Wait tag 1-6, or 0 when untracked (R160). -/
  tag : Nat
  /-- Destinations, for the checking scoreboard (R165). -/
  dests : List Nat
  pc : DWord
  nextPc : DWord
  /-- `nextPc` begins another block. -/
  nextNew : Bool
  /-- The check that can still fault the instruction has not been made: its thread issues nothing (R163). -/
  unresolved : Bool
  /-- The authority of a remote access (R248). -/
  remote : Option Cap
  /-- The call that carries a held thread's fault message, or an engine's (R300, R416). -/
  faultCall : Bool
  deriving DecidableEq, Repr

/-- Holders of a wait (Table 11.1). -/
inductive Holders where
  | unknown
  | engine
  | parties (ps : List Party)
  /-- Home groups of workgroups, as (workgroup, home group). -/
  | homeGroups (gs : List (Nat × Nat))
  /-- The declared server of the ENDPOINT that the object is (R271). -/
  | server
  deriving DecidableEq, Repr

inductive EntryState where
  | waiting | armed | declared
  deriving DecidableEq, Repr

/-- What a walk found (R262): the path to a cycle, how many entries it visited, and whether a limit ended a path. -/
structure WalkState where
  found : Option (List (Nat × Party))
  visited : Nat
  limited : Bool
  deriving DecidableEq, Repr

/-- An entry of a die's wait-for table (R258, R265); free entries are not listed. -/
structure WaitEntry where
  id : Nat
  die : Nat
  kind : Nat
  obj : Nat
  qual : Nat
  state : EntryState
  waiters : List Party
  holders : Holders
  /-- Priority of an explicit entry (R270); others take their waiters'. -/
  prio : Nat
  /-- The walk has not ended: what it finds, from the edges that stood at its registration (R260, R262). -/
  walk : Option WalkState
  /-- The wait of a held thread's fault message (R416). -/
  faultWait : Bool
  /-- The instruction whose lanes share the entry (R31, R260). -/
  batch : Nat
  deriving DecidableEq, Repr

/-- An endpoint's working state, bytes 40-127 of the object (R391): buffer slots in use in arrival order, and the fixed
scope (R387). Parked senders and receivers are the requests that wait on it. -/
structure EpState where
  pa : Nat
  order : List (Nat × Party)
  scope : Option Nat
  deriving DecidableEq, Repr

/-- A notification's scope once fixed (R387, R390). -/
structure NotifyState where
  pa : Nat
  scope : Option Nat
  deriving DecidableEq, Repr

/-- A barrier instance (R266): its phase and who has been counted in it. -/
structure Barrier where
  key : BarKey
  phase : Nat
  /-- Threads counted in the current phase, as (workgroup, tid). -/
  counted : List (Nat × Nat)
  /-- Acknowledgements counted by COPYM (R300). -/
  acks : Nat
  /-- At pod level: the message that this package's members have all arrived has gone out (R266). -/
  told : Bool
  deriving DecidableEq, Repr

/-- A die's copy of a remote-home line (R97, R99). Bit i of the masks is byte i of the line. -/
structure LineCopy where
  die : Nat
  line : Nat
  valid : BitVec 128
  dirty : BitVec 128
  data : BitVec 1024
  tags : BitVec 8
  poison : BitVec 8
  deriving DecidableEq, Repr

/-- A span as a core's span cache holds it (R140). -/
structure SpanEntry where
  core : Nat
  asid : Nat
  span : Nat
  data : BitVec 1024
  deriving DecidableEq, Repr

/-- The assignment of an ASID to an ASPACE object (R414). -/
structure AsidEntry where
  asid : Nat
  pa : Nat
  torn : Bool
  /-- Root page number, once a launch or hart has used the ASID (R390). -/
  root : Option Nat
  deriving DecidableEq, Repr

/-- The privilege modes of a hart (R362). -/
inductive Mode where
  | u | s | m
  deriving DecidableEq, Repr

/-- Whether a hart runs (R363, R368, R378). -/
inductive HartRun where
  | reset
  | running
  /-- Stalled in a message form; the request's id. -/
  | stalled (req : Nat)
  | wfi
  | halted
  deriving DecidableEq, Repr

/-- An interrupt file (R380): pending and enable bits, delivery and threshold. -/
structure IntFile where
  pending : BitVec 256
  enable : BitVec 256
  delivery : DWord
  threshold : DWord
  deriving DecidableEq, Repr

/-- A message slot (R379): the reply owed, and the pending kcall with a reply held for it. -/
structure MsgSlot where
  owed : Option Party
  /-- The pending call's endpoint. -/
  pending : Option Nat
  held : Option Msg
  deriving DecidableEq, Repr

/-- A control hart (spec/18). -/
structure Hart where
  id : Nat
  run : HartRun
  pc : DWord
  mode : Mode
  cm : Bool
  x : List DWord
  f : List DWord
  fcsr : BitVec 8
  k : List Cap
  kd : Cap
  kc : Cap
  kmtc : Cap
  kmtd : Cap
  kmepc : Cap
  kstc : Cap
  kstd : Cap
  ksepc : Cap
  mkfault : DWord
  skfault : DWord
  mpcm : Bool
  spcm : Bool
  kprio : BitVec 4
  kslot : BitVec 2
  slots : List MsgSlot
  mstatus : DWord
  mtvec : DWord
  mepc : DWord
  mcause : DWord
  mtval : DWord
  mscratch : DWord
  medeleg : DWord
  mideleg : DWord
  mie : DWord
  mip : DWord
  satp : DWord
  stvec : DWord
  sepc : DWord
  scause : DWord
  stval : DWord
  sscratch : DWord
  mcounteren : DWord
  scounteren : DWord
  mcountinhibit : DWord
  menvcfg : DWord
  senvcfg : DWord
  miselect : DWord
  siselect : DWord
  stimecmp : DWord
  mtimecmp : DWord
  mfile : IntFile
  sfile : IntFile
  /-- Clock periods (hc) since reset: `cycle`; `time` is a 32nd of it (R383). -/
  hc : Nat
  instret : DWord
  /-- `mcycle`, which counts hc while mcountinhibit lets it. -/
  mcycle : DWord
  deriving DecidableEq, Repr

/-- The operands of a step of the device: the subject (a core, hart, die, launch, operation, request or port), further
numbers, and what comes from outside the device (log 2). Each step's meaning says which it reads. -/
structure Operands where
  who : Nat
  arg : Nat
  arg2 : Nat
  level : IntLevel
  value : DWord
  value2 : DWord
  bytes : List Byte
  cap : Cap
  cap2 : Cap
  ok : Bool
  outcome : BootOutcome
  code : BitVec 16
  deriving DecidableEq, Repr

/-- Operands of zeros. -/
def Operands.zero : Operands := ⟨0, 0, 0, .m, 0, 0, [], .null, .null, false, .ok, 0⟩

/-- What the agenda names next: a core, a hart, or a step of the device with its operands (log 2). -/
inductive Turn where
  | core (c : Nat)
  /-- Group `grp` of workgroup `wg` issues on core `c` in the ac in which another has (R21). -/
  | pack (c wg grp : Nat)
  | hart (n : Nat)
  | event (i : Instr) (o : Operands)
  deriving DecidableEq, Repr

/-- The agent whose instruction `exec` runs: a group of a workgroup, or a hart whose instruction has `len` bytes. -/
inductive Agent where
  | none
  | group (wg grp : Nat)
  | hart (n len : Nat)
  deriving DecidableEq, Repr

/-- The Hall registers of a die (Tables 19.7, 20.4, 11.3). -/
structure Hall where
  wfovf : Word
  tblep : DWord
  dlseq : DWord
  xdone : DWord
  /-- XINV writes not completed, oldest first (R415). -/
  xinv : List DWord
  savebase : DWord
  saveslots : BitVec 4
  /-- Completion stamps whose write failed (R406). -/
  stampFails : Nat
  deriving DecidableEq, Repr

/-- A tensor record as an engine operation read it (R284, Table 12.5). -/
structure TensorRec where
  data : Cap
  peer : Cap
  stamp : Cap
  cbook : Cap
  fmt : Nat
  rank : Nat
  sscope : Nat
  fill : Word
  clamp : Word
  dims : List Nat
  strides : List Int
  /-- Its reserved fields are zero (Table 19.5). -/
  zeros : Bool
  deriving DecidableEq, Repr

/-- How far an engine operation has come (R287, R290): `waiting` for readiness and acceptance; `queued` in its unit;
`running`; `faulted` until the reply; `stampFault` when only the stamp failed, its message sent or not. -/
inductive OpPhase where
  | waiting
  | queued
  | running
  | faulted
  | stampFault (code : BitVec 8) (addr : DWord) (sent : Bool)
  deriving DecidableEq, Repr

/-- An engine operation from its rendezvous to its end (R287-R290). -/
structure EngineOp where
  id : Nat
  wg : Nat
  launch : Nat
  asid : Nat
  core : Nat
  /-- 0 array, 1 scale unit, 2 drain engine, 3 copy engine. -/
  unit : Nat
  word : BitVec 80
  gang : Nat
  groups : List Nat
  pc : DWord
  lead : Nat
  /-- Slice descriptors by listed home group, or the origin of a drain. -/
  slices : List (List Word)
  record : Option TensorRec
  phase : OpPhase
  /-- Requests of the parked fragments. -/
  arrivals : List Nat
  /-- Rows of a drain, or receivers of a multicast by workgroup, still to do. -/
  todo : List Nat
  /-- The first failed access: code and address (R290). -/
  fault : Option (BitVec 8 × DWord)
  /-- The codebook table that an MMAK reads (R293). -/
  table : List Word
  /-- Receivers of a multicast whose tile is FAULTED, and those already counted in the acknowledgements (R300). -/
  bad : List Nat
  acked : List Nat
  /-- Receivers of a multicast whose tile is being filled, and the elements that its source gave: row, column, bits, poison
  (R300). -/
  begun : List Nat
  source : Option (List (Nat × Nat × Nat × Bool))
  deriving DecidableEq, Repr

/-- A table of the codebook RAM (R293), most recently used first in `State.codebooks`. -/
structure Codebook where
  core : Nat
  asid : Nat
  pa : Nat
  words : List Word
  deriving DecidableEq, Repr

/-- A parcel (R316): origin, extent, generation. -/
structure Parcel where
  org : List Nat
  ext : List Nat
  gen : Nat
  deriving DecidableEq, Repr

/-- A prefetched parcel of a core (R317). -/
structure Prefetch where
  sched : Nat
  core : Nat
  parcel : Parcel
  deriving DecidableEq, Repr

/-- A PCLAIM .async claim that its schedule has served (R323): `id` is the request that waits at the mailbox. -/
structure MailClaim where
  id : Nat
  wg : Nat
  core : Nat
  asid : Nat
  sched : Nat
  parcel : Option Parcel
  deriving DecidableEq, Repr

/-- Where a range task stands (R327, R332): in its core's deque, in the spill area, or HELD for a thief core. -/
inductive TaskPlace where
  | deque
  | spilled
  | transit (thief : Nat)
  deriving DecidableEq, Repr

/-- A range task (R327-R332). `seq` orders spawns; `pending` are operand words not yet observed FULL. -/
structure Task where
  id : Nat
  seq : Nat
  launch : Nat
  core : Nat
  entry : Cap
  operands : Cap
  lo : Nat
  hi : Nat
  words : List Nat
  pending : List Nat
  place : TaskPlace
  deriving DecidableEq, Repr

/-- How far a launch has come (R399-R406). -/
inductive LaunchState where
  | taken
  | prologue
  | prologueEnded
  | accepted
  | distributed
  | probing (probes : List Chan)
  | probed
  | finished
  deriving DecidableEq, Repr

/-- A launch, from the record the Hall copied (Table 19.8) with the descriptor's values put in (R398). -/
structure Launch where
  id : Nat
  queue : Nat
  die : Nat
  seq : Nat
  state : LaunchState
  entry : Cap
  args : Cap
  schedule : Cap
  fault : Cap
  stamp : Cap
  cnotify : Cap
  prologue : Cap
  work : Cap
  /-- Core 0-15, quad 0-7, die 0-7, package 0-3 and pod 0-3 barrier masks, in this order. -/
  masks : List (BitVec 16)
  roles : DWord
  dims : List Nat
  w : Nat
  g : Nat
  nv : Nat
  nk : Nat
  ntiles : Nat
  nacc : Nat
  flags : BitVec 8
  nscr : Nat
  age : Nat
  nvault : Nat
  rscope : Nat
  cbit : Nat
  count : Nat
  nfslot : Nat
  /-- The record's bytes and granule tags, for PREPEAT (R406). -/
  record : List Byte
  rtags : BitVec 16
  image : List Word
  asid : Nat
  ctx : Nat
  prio : Nat
  scope : Nat
  /-- Physical address of the SCHEDULE object. -/
  sched : Option Nat
  repeats : Bool
  cancelled : Bool
  prologueFault : Bool
  error : Nat
  /-- Workgroups still to deal, as (core when scheduled, else the die whose turn it is; how many; the next one's wgid). -/
  undealt : List (Nat × Nat × Nat)
  nextWgid : Nat
  /-- The used set of ordered channels, each with the core that used it (R117). -/
  used : List (Chan × Nat)
  /-- Occupied fault record slots (R263). -/
  records : List Nat
  deriving DecidableEq, Repr

/-- A queue as its Hall knows it (R394-R396): the capabilities and scope read at its first operation, whether a doorbell
awaits service, whether its QCB is cached, and its last use. -/
structure QueueState where
  pa : Nat
  num : Nat
  die : Nat
  opened : Bool
  ctx : Cap
  aspace : Cap
  scope : Nat
  rung : Bool
  cached : Bool
  /-- When it was last used; of a queue that is not cached, when its doorbell was rung (R396). -/
  use : Nat
  deriving DecidableEq, Repr

/-- An event that a Hall reports to the table endpoint (R264, Table 11.5, R406, R416). -/
structure HallEvent where
  die : Nat
  label : Nat
  vals : List Word
  deriving DecidableEq, Repr

/-- A revocation sweep in progress (R429-R436): `phase` is the status field of Table 21.1; `marked` are the granules whose
snapshot bit is set. -/
structure Sweep where
  phase : Nat
  /-- The registers have been tested (R434). -/
  scanned : Bool
  rlo : Nat
  rlen : Nat
  marked : List Nat
  pod : Bool
  notify : Nat
  bit : Nat
  /-- Packages whose pass has not been acknowledged. -/
  waiting : List Nat
  deriving DecidableEq, Repr

/-- A pass that this package runs, or will run, for another package's sweep (R436). -/
structure RemotePass where
  source : Nat
  rlo : Nat
  rlen : Nat
  marked : List Nat
  deriving DecidableEq, Repr

/-- The header and tag of a flit (R456): class 0 request, 1 reply, 2 control; the sequence field holds the key phase in
bit 63 (R466). -/
structure Flit where
  cls : Nat
  dst : Nat
  src : Nat
  vc : Nat
  seq : DWord
  tag : BitVec 128
  deriving DecidableEq, Repr

/-- One direction of a pair (R466): its key once established, its key epoch and phase, and the sequence of its next flit. -/
structure PairDir where
  key : Option (BitVec 256)
  epoch : BitVec 32
  phase : Bool
  seq : Nat
  deriving DecidableEq, Repr

/-- A pair of packages on the Prabex fabric (R456, R457, R466). -/
structure Pair where
  pkg : Nat
  down : Bool
  out : PairDir
  inn : PairDir
  /-- Flits of the old key's window still to come; 0 when no old key is kept. -/
  oldLeft : Nat
  oldKey : Option (BitVec 256)
  /-- Sequence fields of received flits whose tag has failed once, and of own flits sent a second time (R457). -/
  failed : List DWord
  resent : List DWord
  /-- Flits sent, oldest first. -/
  sent : List Flit
  deriving DecidableEq, Repr

/-- What leaves the package: fabric requests and acknowledgements, PCI Express writes, management reports, checkpoint
chunks (R126, R436, R448, R459, R468). -/
inductive Outgoing where
  /-- `port` is the package port that it leaves by (R170); `kind`, `size` and `order` say what access it is, `atomic` its
  operation's number, with 256 if unsigned, `data` what it stores, with poison, and `carried` the capability that an STK stores, as it
  crosses the boundary, with its poison (R248). -/
  | remoteAccess (port pkg req : Nat) (cap : Cap) (addr : DWord) (kind size order atomic : Nat) (data : List (Byte × Bool))
      (carried : Option (Cap × Bool))
  | remoteMessage (port pkg req : Nat) (cap : Cap) (m : Msg)
  /-- A hart's message that has not been accepted is asked back (R386; log 72). -/
  | remoteWithdraw (pkg req : Nat)
  | remoteReply (pkg req : Nat) (bytes : List Byte) (cap0 cap1 : Option Cap) (code detail : Nat)
  /-- All members of a pod barrier's phase on this package have arrived (R266). -/
  | podArrive (barrier phase : Nat)
  /-- A pass for the sweep of package `origin` (R436). -/
  | passRequest (pkg origin rlo rlen : Nat) (marked : List Nat)
  | passAck (pkg : Nat)
  | pcieWrite (pa : Nat) (bytes : List Byte)
  | readCompletion (pa : Nat) (bytes : List Byte)
  | completerAbort (pa : Nat)
  | report (code value : Nat)
  | header (bytes : List Byte)
  | chunk (dest index : Nat) (bytes : List Byte)
  | rotation (pkg : Nat)
  /-- A flit whose tag failed is asked for again, and an own flit sent again (R457). -/
  | flitRetry (pkg : Nat) (seq : DWord)
  | flitAgain (pkg : Nat) (f : Flit)
  /-- The package number, as every switch and peer gets it (R458). -/
  | number (n : Nat)
  | spdm (bytes : List Byte)
  deriving DecidableEq, Repr

/-- A selective IDE stream of a root port, with the AES-GCM-256 key that the Threshold has programmed (R454). -/
structure IdeStream where
  port : Nat
  key : BitVec 256
  deriving DecidableEq, Repr

/-- The IOMMU's directory pointer and fault queue: base register, head, tail, and whether it has overflowed (R453; log 16). -/
structure Iommu where
  ddtp : DWord
  fqb : DWord
  fqh : Nat
  fqt : Nat
  fqof : Bool
  deriving DecidableEq, Repr

/-- The Threshold, the boot flash and the ports (spec/23, spec/24). -/
structure Threshold where
  powered : Bool
  /-- Boot flash: the two marker copies, the log, the two slots (R443). -/
  markers : List (BitVec 128)
  /-- Log records by ring position (R448). -/
  log : List (Nat × BitVec 128)
  slots : List (List Byte)
  /-- Boot number, the step to run or running (10 when all have run), whether its begun record stands. -/
  boot : Nat
  step : Nat
  begun : Bool
  /-- Held in reset after a second failure of step 0 (Table 23.4). -/
  held : Bool
  /-- What the newest earlier boot and the one before it left, as (step, outcome). -/
  prior : List (Nat × Nat)
  prior2 : List (Nat × Nat)
  /-- The recovery image is forced (R448). -/
  recovery : Bool
  /-- The image that runs: slot 0 or 1, 2 for the recovery image. -/
  booted : Option Nat
  /-- Mailbox (R449) and PKGID (R458). -/
  cmd : DWord
  arg0 : DWord
  arg1 : DWord
  status : DWord
  pkgid : DWord
  /-- Live firmware bank, quiescent point, doorbells latched there (R450). -/
  bank : Nat
  /-- The images that the two firmware RAM banks hold, and the state block that the old image wrote last (R450). -/
  banks : List (List Byte)
  stateBlock : List Byte
  quiescent : Bool
  latched : List Nat
  meas : List (BitVec 384)
  dbgstat : Nat
  /-- The debug port is open (R464, R465). -/
  debugPort : Bool
  nonce : List Byte
  fleetRoot : Option (BitVec 256)
  /-- Health counters in the order of Table 24.6 (the counters of Objects.lean). -/
  health : List Word
  fencedPcs : List Nat
  fencedDies : List Nat
  /-- Cores whose FENCE waits for their workgroups (R471). -/
  fencePending : List Nat
  replace : Bool
  portsUp : List Bool
  pairs : List Pair
  /-- Root ports after bifurcation, their links, and their IDE streams (R451-R454). -/
  rootPorts : Nat
  links : List Bool
  ideStreams : List IdeStream
  iommu : Iommu
  /-- The HDM decoders: bytes of the CXL range mapped, and devices interleaved (R455). -/
  hdm : Nat × Nat
  outbox : List Outgoing
  /-- A PLDM update runs (R459). -/
  pldm : Bool
  /-- How far the running mailbox command has come, 100 when it has ended, and the status it will write. -/
  stage : Nat
  result : Nat
  /-- The image that a PLDM update brought, and the MCTP endpoint ID (R459). -/
  pldmImage : List Byte
  eid : Nat
  /-- The header and nonce of a checkpoint being written or read (R468, R469). -/
  header : List Byte
  ckNonce : DWord
  /-- The root capabilities that the Threshold has issued (R434). -/
  roots : List Cap
  deriving DecidableEq, Repr

/-- The whole device. -/
structure State where
  /-- Model's own: what happens next, who issues now, counters for free values and names (logs 2, 3). -/
  agenda : List Turn
  cur : Agent
  /-- Operands of the device step that is running. -/
  ev : Operands
  freeCtr : Nat
  nextId : Nat
  mem : List Host.Cell
  tags : List Nat
  summary : List Nat
  fe : List Nat
  poison : List Nat
  copies : List LineCopy
  /-- Lines that the L1 caches hold, as (core, line) (R98). -/
  l1 : List (Nat × Nat)
  /-- Directory bits: lines of which the control-die cache holds a copy (R102). -/
  directory : List Nat
  spans : List SpanEntry
  tlb : List TlbEntry
  asids : List AsidEntry
  reqs : List Request
  cores : List Core
  bins : List Bin
  wgs : List Workgroup
  waits : List WaitEntry
  barriers : List Barrier
  eps : List EpState
  notes : List NotifyState
  halls : List Hall
  harts : List Hart
  ops : List EngineOp
  codebooks : List Codebook
  prefetches : List Prefetch
  mailClaims : List MailClaim
  tasks : List Task
  launches : List Launch
  queues : List QueueState
  hallEvents : List HallEvent
  /-- Reservations of LR, as (hart, physical address). -/
  reservations : List (Nat × Nat)
  /-- Grains g of each SCHEDULE, by physical address (R393). -/
  grains : List (Nat × Nat)
  /-- Bytes that omake gave each object, by physical address: the device's own record, which software cannot write (R11, R388). -/
  sizes : List (Nat × Nat)
  /-- IRQLINE objects by line number (R390). -/
  lines : List (Nat × Nat)
  /-- The REVOKER object (Table 19.1). -/
  revoker : Option Nat
  sweep : Option Sweep
  passes : List RemotePass
  th : Threshold
  deriving DecidableEq, Repr

/-- No fault stops the machine: every fault of the spec is a next state. -/
inductive Fault where
  /-- Raised by no meaning; the machine of the spec never stops on its own. Safe. -/
  | machineStopped
  deriving DecidableEq, Repr

/-- Why an instruction has no meaning. -/
inductive Refusal where
  /-- Raised by the dispatch for an instruction that is not modelled. Safe. -/
  | notModelled (mnemonic : String)
  deriving DecidableEq, Repr

/-- Root data capability of a hart at reset (R363): every permission but EXEC, the whole address space. -/
def Cap.rootData : Cap := ⟨true, 0xBFF, 0, 50, 0, 0, 0⟩
/-- Root code capability at reset (R363): GLOBAL EXEC LOAD SYSTEM, cursor at the reset vector. -/
def Cap.rootCode (pc : DWord) : Cap := ⟨true, 0xE02, 0, 50, 0, 0, pc⟩

/-- The reset vector that the Threshold sets: DESIGN CHOICE (log 5). -/
def resetVector : DWord := 0x1000

def IntFile.reset : IntFile := ⟨0, 0, 0, 0⟩
def MsgSlot.reset : MsgSlot := ⟨none, none, none⟩

/-- A hart held in reset (R363; log 5 for the RISC-V registers). -/
def Hart.reset (n : Nat) : Hart where
  id := n
  run := .reset
  pc := resetVector
  mode := .m
  cm := false
  x := List.replicate 32 0
  f := List.replicate 32 0
  fcsr := 0
  k := List.replicate 16 .null
  kd := .rootData
  kc := .rootCode resetVector
  kmtc := .rootCode resetVector
  kmtd := .rootData
  kmepc := .null
  kstc := .null
  kstd := .null
  ksepc := .null
  mkfault := 0
  skfault := 0
  mpcm := false
  spcm := false
  kprio := 0
  kslot := 0
  slots := List.replicate 4 .reset
  mstatus := 0
  mtvec := 0
  mepc := 0
  mcause := 0
  mtval := 0
  mscratch := 0
  medeleg := 0
  mideleg := 0
  mie := 0
  mip := 0
  satp := 0
  stvec := 0
  sepc := 0
  scause := 0
  stval := 0
  sscratch := 0
  mcounteren := 0
  scounteren := 0
  mcountinhibit := 0
  menvcfg := 0
  senvcfg := 0
  miselect := 0
  siselect := 0
  stimecmp := 0
  mtimecmp := BitVec.allOnes 64
  mfile := .reset
  sfile := .reset
  hc := 0
  instret := 0
  mcycle := 0

def Hall.reset : Hall := ⟨0, 0, 0, 0, [], 0, 0, 0⟩

/-- Erased flash reads all ones (R444): both markers invalid, no log record, empty slots (log 6). -/
def Threshold.reset : Threshold where
  powered := true
  markers := List.replicate 2 (BitVec.allOnes 128)
  log := []
  slots := List.replicate 2 []
  boot := 0
  step := 0
  begun := false
  held := false
  prior := []
  prior2 := []
  recovery := false
  booted := none
  cmd := 0
  arg0 := 0
  arg1 := 0
  status := 0
  pkgid := 0
  bank := 0
  banks := [[], []]
  stateBlock := []
  quiescent := false
  latched := []
  meas := List.replicate 5 0
  dbgstat := 0
  debugPort := false
  nonce := []
  fleetRoot := none
  health := List.replicate 94 0
  fencedPcs := []
  fencedDies := []
  fencePending := []
  replace := false
  portsUp := List.replicate 36 false
  pairs := []
  rootPorts := 1
  links := List.replicate 4 false
  ideStreams := []
  iommu := ⟨0, 0, 0, 0, false⟩
  hdm := (0, 1)
  outbox := []
  pldm := false
  stage := 0
  result := 0
  pldmImage := []
  eid := 0
  header := []
  ckNonce := 0
  roots := []

/-- The device at power-on, before boot step 0 (R66, R447; logs 1 to 6). -/
def State.reset : State where
  agenda := []
  cur := .none
  ev := .zero
  freeCtr := 0
  nextId := 0
  mem := []
  tags := []
  summary := []
  fe := []
  poison := []
  copies := []
  l1 := []
  directory := []
  spans := []
  tlb := []
  asids := []
  reqs := []
  cores := []
  bins := []
  wgs := []
  waits := []
  barriers := []
  eps := []
  notes := []
  halls := List.replicate 4 .reset
  harts := (List.range 24).map Hart.reset
  ops := []
  codebooks := []
  prefetches := []
  mailClaims := []
  tasks := []
  launches := []
  queues := []
  hallEvents := []
  reservations := []
  grains := []
  sizes := []
  lines := []
  revoker := none
  sweep := none
  passes := []
  th := .reset

end Sys2Proof.Machine
end

