-- ==== Sys2Proof/Machine/Matrix.lean ====
section
/-! DEFINITION. Arithmetic of the engines (spec/03 R82-R88, spec/12 R280, R303-R306) and the geometry of tiles. -/

namespace Sys2Proof.Machine

/-! Tile-table entries (Table 12.1). -/

def tField (e : DWord) (lo w : Nat) : Nat := e.toNat / 2 ^ lo % 2 ^ w
def tSet (e : DWord) (lo w x : Nat) : DWord := BitVec.ofNat 64 (e.toNat - tField e lo w * 2 ^ lo + x % 2 ^ w * 2 ^ lo)
def tState (e : DWord) : Nat := tField e 61 3
def tReaders (e : DWord) : Nat := tField e 56 5
def tVcols (e : DWord) : Nat := tField e 47 9
def tVrows (e : DWord) : Nat := tField e 38 9
def tSwz (e : DWord) : Nat := tField e 34 4
def tFmt (e : DWord) : Nat := tField e 30 4
def tCols (e : DWord) : Nat := tField e 21 9
def tRows (e : DWord) : Nat := tField e 12 9
def tLine (e : DWord) : Nat := tField e 0 12
def tEMPTY : Nat := 0
def tFILLING : Nat := 1
def tREADY : Nat := 2
def tDRAINING : Nat := 3
def tFAULTED : Nat := 4
def setState (e : DWord) (x : Nat) : DWord := tSet e 61 3 x
def setReaders (e : DWord) (x : Nat) : DWord := tSet e 56 5 x
def setValid (e : DWord) (rows cols : Nat) : DWord := tSet (tSet e 38 9 rows) 47 9 cols

def Workgroup.tile (w : Workgroup) (n : Nat) : DWord := w.tiles.getD n 0
def Workgroup.setTile (w : Workgroup) (n : Nat) (e : DWord) : Workgroup := { w with tiles := w.tiles.set n e }

/-! Accumulator tiles (Table 12.10). -/

def aEMPTY : Nat := 0
def aREADY : Nat := 1
def aDRAINING : Nat := 2
def aFAULTED : Nat := 3
def AccTile.empty : AccTile := ⟨0, [], false⟩
def Workgroup.accTile (w : Workgroup) (n : Nat) : AccTile := w.accs.getD n .empty
def Workgroup.setAcc (w : Workgroup) (n : Nat) (a : AccTile) : Workgroup := { w with accs := w.accs.set n a }

/-- Element size of a format code (R280). -/
def elemSize (fmt : Nat) : Nat := if fmt = 0 ∨ fmt = 7 ∨ fmt = 8 then 4 else if fmt = 1 ∨ fmt = 2 ∨ fmt = 9 then 2 else 1
def footprint (rows cols fmt : Nat) : Nat := (rows * cols * elemSize fmt + 127) / 128 * 128

/-- o(r, c) of Table 12.2. -/
def swizzle (swz rows cols es r c : Nat) : Nat :=
  let b := (r * cols + c) * es
  let l := b / 128
  match swz with
  | 0 => b
  | 1 => 128 * l + 16 * ((b / 16 % 8) ^^^ (l % 8)) + b % 16
  | 2 => 128 * l + 32 * ((b / 32 % 4) ^^^ (l % 4)) + b % 32
  | _ => (c * rows + r) * es

/-- Byte offset of a tile's element in its workgroup's scratchpad. -/
def tileOffset (e : DWord) (r c : Nat) : Nat :=
  tLine e * 128 + swizzle (tSwz e) (tRows e) (tCols e) (elemSize (tFmt e)) r c

/-! Element arithmetic. -/

/-- The value of a pattern of a format code 0-8. -/
def elemValue (fmt bits : Nat) : FVal :=
  match elemFormat fmt with
  | some (.fp f) => f.decode bits
  | some (.int s w) => .ofInt (intOfBits s w bits)
  | none => .zero false

/-- A term truncated to a multiple of 2^q, with its sign (R86). -/
def truncTerm (q : Int) : FVal → Int
  | .num n m e _ =>
    let k : Int := if q ≤ e then ((m <<< (e - q).toNat : Nat) : Int) else ((m >>> (q - e).toNat : Nat) : Int)
    if n then -k else k
  | _ => 0

def isNonzero : FVal → Bool
  | .num _ m _ _ => m != 0
  | _ => false
def leadExp : FVal → Int
  | .num _ m e _ => (bitLen m : Int) - 1 + e
  | _ => 0

/-- mma_element of R86, as an FP32 pattern. -/
def mmaElement (products : List FVal) (c : FVal) : Word :=
  let terms := products ++ [c]
  let posInf := terms.any fun t => t == .inf false
  let negInf := terms.any fun t => t == .inf true
  let r : FVal :=
    if terms.any FVal.isNan || (posInf && negInf) then .nan false
    else if posInf then .inf false
    else if negInf then .inf true
    else
      match terms.filter isNonzero with
      | [] => .zero (terms.all FVal.sign)
      | t :: rest =>
        let emax := rest.foldl (fun a x => if a < leadExp x then leadExp x else a) (leadExp t)
        let q := emax - 60
        let s := (t :: rest).foldl (fun a x => a + truncTerm q x) 0
        if s = 0 then .zero false else .num (decide (s < 0)) s.natAbs q false
  BitVec.ofNat 32 (fp32.encode (fp32.round .rne r).1)

/-- One dot product of A's row and B's column (R86). -/
def dot (as bs : List FVal) (c : Word) : Word :=
  mmaElement ((as.zip bs).map fun (x, y) => (x.mul y).1) (fp32.decode c.toNat)

/-- A 64 × 64 accumulator from a function of row and column, row by row. -/
def accOf (f : Nat → Nat → Word) : List Word :=
  ((List.range 64).map fun i => (List.range 64).map fun j => f i j).flatten
def accAt (d : List Word) (i j : Nat) : Word := d.getD (64 * i + j) 0

/-- D := A · B + D for A of 64 × k and B of k × 64 (R301). -/
def mmaTile (k : Nat) (a b : Nat → Nat → FVal) (d : List Word) : List Word :=
  accOf fun i j => dot ((List.range k).map fun x => a i x) ((List.range k).map fun x => b x j) (accAt d i j)

/-- The successive operations of MMA `.a`, ascending in k (R301). -/
def mmaSteps (k : Nat) (a b : Nat → Nat → FVal) (d : List Word) : Nat → List Word
  | 0 => d
  | n + 1 =>
    let d := mmaSteps k a b d n
    mmaTile k (fun i x => a i (n * k + x)) (fun x j => b (n * k + x) j) d

/-- The down-converter (R88), as a value of its destination format. -/
def downConvert (fmt : Nat) (rb : Word) (x : Word) : FVal :=
  match elemFormat fmt with
  | some df =>
    let v := fp32.decode x.toNat
    let keep := fmt == 2 && (fp32.decode rb.toNat).isZero && (match v with | .inf _ => true | _ => false)
    if keep then v else elemValue fmt (narrow df rb v)
  | none => .zero false

/-- SCACC's element (R87). -/
def scaccElement (t p : Word) (r c : FVal) : Word :=
  let prod := ((fp32.decode p.toNat).mul r).1.mul c
  let sum := (prod.1.add .rne (fp32.decode t.toNat)).1
  BitVec.ofNat 32 (fp32.encode (fp32.round .rne sum).1)

/-- AINIT's element (R304). -/
def ainitElement (fmt bits : Nat) : Word := BitVec.ofNat 32 (engineConvert fmt 0 0 bits)

/-- y of a drain (R305). -/
def drainValue (s : Word) (bias : FVal) : FVal := ((fp32.decode s.toNat).add .rne bias).1
/-- What a drain without `.add` writes. -/
def drainOut (fmt : Nat) (rb : Word) (y : FVal) : Nat :=
  if fmt = 0 then fp32.encode (fp32.round .rne y).1
  else match elemFormat fmt with
    | some df => narrow df rb y
    | none => 0
/-- What an add-on-store writes over the element d (R306). -/
def addOn (fmt : Nat) (rb : Word) (d : Nat) (y : FVal) : Nat :=
  if fmt = 0 then fp32.encode (fp32.round .rne ((fp32.decode d).add .rne y).1).1
  else if fmt = 2 then narrow (.fp bf16) rb ((bf16.decode d).add .rne y).1
  else
    let n := intOfBits true 32 (narrow (.int true 32) rb y)
    bitsOfInt 32 (saturate (-2147483648) 2147483647 (intOfBits true 32 d + n))

end Sys2Proof.Machine
end

