-- ==== Sys2Proof/Decode.lean ====
section
/-! DEFINITION. Decoding: 80-bit instruction words of compute cores (spec/05 R141, Tables 5.3-5.10; opcodes of spec/07),
32-bit words of control harts (spec/18 Table 18.5, and the standard RISC-V encodings of the accesses, fences, CSR and
return instructions that have a row), and the encoders of both. A compute word always decodes: a word whose opcode is not
assigned is `unassignedOpcode` (R173). A hart word that is none of these gives none. -/

namespace Sys2Proof

/-- Little-endian value of bytes (spec/00 R5). -/
def natOfBytes : List Byte → Nat
  | [] => 0
  | b :: r => b.toNat + 256 * natOfBytes r

/-- The low n bytes of a number, lowest first. -/
def bytesOfNat : Nat → Nat → List Byte
  | 0, _ => []
  | n + 1, x => BitVec.ofNat 8 x :: bytesOfNat n (x / 256)

/-- Head fields, bits [69:53] (Table 5.3). -/
def Head.ofWord (w : BitVec 80) : Head :=
  ⟨w.extractLsb' 66 4, w.extractLsb' 63 3, w.extractLsb' 57 6, w.extractLsb' 54 3, w.getLsbD 53⟩
def Head.bits (h : Head) : BitVec 17 := h.d ++ h.talloc ++ h.wmask ++ h.guard ++ BitVec.ofBool h.gneg

/-- R format, bits [52:0] (Table 5.4). -/
def RBody.ofWord (w : BitVec 80) : RBody :=
  ⟨w.extractLsb' 45 8, w.extractLsb' 37 8, w.extractLsb' 29 8, w.extractLsb' 21 8, w.getLsbD 20, w.getLsbD 19, w.getLsbD 18, w.getLsbD 17, w.getLsbD 16, w.getLsbD 15, w.extractLsb' 13 2, w.extractLsb' 9 4, w.extractLsb' 0 9⟩
def RBody.bits (b : RBody) : BitVec 53 :=
  b.d ++ b.a ++ b.b ++ b.c ++ BitVec.ofBool b.na ++ BitVec.ofBool b.aa ++ BitVec.ofBool b.nb ++ BitVec.ofBool b.ab ++ BitVec.ofBool b.nc ++ BitVec.ofBool b.ac ++ b.clamp ++ b.scale ++ b.variant

/-- I format, bits [52:0] (Table 5.5). -/
def IBody.ofWord (w : BitVec 80) : IBody :=
  ⟨w.extractLsb' 45 8, w.extractLsb' 37 8, w.extractLsb' 5 32, w.extractLsb' 0 5⟩
def IBody.bits (b : IBody) : BitVec 53 :=
  b.d ++ b.a ++ b.imm ++ b.variant

/-- M format, bits [52:0] (Table 5.6). -/
def MBody.ofWord (w : BitVec 80) : MBody :=
  ⟨w.extractLsb' 45 8, w.extractLsb' 41 4, w.extractLsb' 33 8, w.extractLsb' 31 2, w.extractLsb' 11 20, w.extractLsb' 8 3, w.extractLsb' 6 2, w.extractLsb' 3 3, w.extractLsb' 0 3⟩
def MBody.bits (b : MBody) : BitVec 53 :=
  b.data ++ b.k ++ b.index ++ b.iscale ++ b.offset ++ b.size ++ b.order ++ b.scope ++ b.variant

/-- K format, bits [52:0] (Table 5.7). -/
def KBody.ofWord (w : BitVec 80) : KBody :=
  ⟨w.extractLsb' 49 4, w.extractLsb' 45 4, w.extractLsb' 41 4, w.extractLsb' 33 8, w.extractLsb' 9 24, w.extractLsb' 0 9⟩
def KBody.bits (b : KBody) : BitVec 53 :=
  b.kd ++ b.ka ++ b.kb ++ b.a ++ b.imm ++ b.variant

/-- X format, bits [52:0] (Table 5.8). -/
def XBody.ofWord (w : BitVec 80) : XBody :=
  ⟨w.extractLsb' 50 3, w.extractLsb' 41 9, w.extractLsb' 33 8, w.extractLsb' 25 8, w.extractLsb' 21 4, w.extractLsb' 17 4, w.extractLsb' 12 5, w.extractLsb' 0 12⟩
def XBody.bits (b : XBody) : BitVec 53 :=
  b.gang ++ b.acc ++ b.ta ++ b.tb ++ b.tk ++ b.fmt ++ b.op ++ b.flags

/-- B format, bits [52:0] (Table 5.9). -/
def BBody.ofWord (w : BitVec 80) : BBody :=
  ⟨w.extractLsb' 29 24, w.extractLsb' 20 9, w.extractLsb' 16 4, w.extractLsb' 0 16⟩
def BBody.bits (b : BBody) : BitVec 53 :=
  b.target ++ b.variant ++ b.k ++ b.reserved

/-- S format, bits [52:0] (Table 5.10). -/
def SBody.ofWord (w : BitVec 80) : SBody :=
  ⟨w.extractLsb' 49 4, w.extractLsb' 45 4, w.extractLsb' 41 4, w.extractLsb' 33 8, w.extractLsb' 29 4, w.extractLsb' 20 9, w.extractLsb' 0 20⟩
def SBody.bits (b : SBody) : BitVec 53 :=
  b.ek ++ b.kx0 ++ b.kx1 ++ b.v ++ b.count ++ b.flags ++ b.imm

/-- A whole word from its opcode, head and body. -/
def assemble (op : BitVec 10) (h : Head) (body : BitVec 53) : BitVec 80 := op ++ h.bits ++ body

/-- One row of the opcode map: the opcode and how the rest of the word reads. -/
abbrev OpRow := Nat × (BitVec 80 → Instr)

def opcodesControl : List OpRow := [
  (0x000, fun w => .nop (.ofWord w) (.ofWord w)),
  (0x001, fun w => .bra (.ofWord w) (.ofWord w)),
  (0x002, fun w => .br (.ofWord w) (.ofWord w)),
  (0x003, fun w => .brx (.ofWord w) (.ofWord w)),
  (0x004, fun w => .call (.ofWord w) (.ofWord w)),
  (0x005, fun w => .ret (.ofWord w) (.ofWord w)),
  (0x006, fun w => .reform (.ofWord w) (.ofWord w)),
  (0x007, fun w => .exit (.ofWord w) (.ofWord w)),
  (0x008, fun w => .trap (.ofWord w) (.ofWord w)),
  (0x009, fun w => .brk (.ofWord w) (.ofWord w)),
  (0x00A, fun w => .plop (.ofWord w) (.ofWord w))]

def opcodesInteger : List OpRow := [
  (0x040, fun w => .iadd (.ofWord w) (.ofWord w)),
  (0x041, fun w => .isub (.ofWord w) (.ofWord w)),
  (0x042, fun w => .imul (.ofWord w) (.ofWord w)),
  (0x043, fun w => .imulhi (.ofWord w) (.ofWord w)),
  (0x044, fun w => .imad (.ofWord w) (.ofWord w)),
  (0x045, fun w => .imin (.ofWord w) (.ofWord w)),
  (0x046, fun w => .imax (.ofWord w) (.ofWord w)),
  (0x047, fun w => .iabs (.ofWord w) (.ofWord w)),
  (0x048, fun w => .ineg (.ofWord w) (.ofWord w)),
  (0x049, fun w => .and (.ofWord w) (.ofWord w)),
  (0x04A, fun w => .or (.ofWord w) (.ofWord w)),
  (0x04B, fun w => .xor (.ofWord w) (.ofWord w)),
  (0x04C, fun w => .andn (.ofWord w) (.ofWord w)),
  (0x04D, fun w => .shl (.ofWord w) (.ofWord w)),
  (0x04E, fun w => .shr (.ofWord w) (.ofWord w)),
  (0x04F, fun w => .sar (.ofWord w) (.ofWord w)),
  (0x050, fun w => .rot (.ofWord w) (.ofWord w)),
  (0x051, fun w => .bfx (.ofWord w) (.ofWord w)),
  (0x052, fun w => .bfi (.ofWord w) (.ofWord w)),
  (0x053, fun w => .popc (.ofWord w) (.ofWord w)),
  (0x054, fun w => .clz (.ofWord w) (.ofWord w)),
  (0x055, fun w => .brev (.ofWord w) (.ofWord w)),
  (0x056, fun w => .iset (.ofWord w) (.ofWord w)),
  (0x057, fun w => .sel (.ofWord w) (.ofWord w)),
  (0x060, fun w => .iaddImm (.ofWord w) (.ofWord w)),
  (0x061, fun w => .isubImm (.ofWord w) (.ofWord w)),
  (0x062, fun w => .imulImm (.ofWord w) (.ofWord w)),
  (0x063, fun w => .imulhiImm (.ofWord w) (.ofWord w)),
  (0x065, fun w => .iminImm (.ofWord w) (.ofWord w)),
  (0x066, fun w => .imaxImm (.ofWord w) (.ofWord w)),
  (0x069, fun w => .andImm (.ofWord w) (.ofWord w)),
  (0x06A, fun w => .orImm (.ofWord w) (.ofWord w)),
  (0x06B, fun w => .xorImm (.ofWord w) (.ofWord w)),
  (0x06C, fun w => .andnImm (.ofWord w) (.ofWord w)),
  (0x06D, fun w => .shlImm (.ofWord w) (.ofWord w)),
  (0x06E, fun w => .shrImm (.ofWord w) (.ofWord w)),
  (0x06F, fun w => .sarImm (.ofWord w) (.ofWord w)),
  (0x070, fun w => .rotImm (.ofWord w) (.ofWord w)),
  (0x071, fun w => .bfxImm (.ofWord w) (.ofWord w)),
  (0x076, fun w => .isetImm (.ofWord w) (.ofWord w))]

def opcodesFloat : List OpRow := [
  (0x080, fun w => .fadd (.ofWord w) (.ofWord w)),
  (0x081, fun w => .fsub (.ofWord w) (.ofWord w)),
  (0x082, fun w => .fmul (.ofWord w) (.ofWord w)),
  (0x083, fun w => .ffma (.ofWord w) (.ofWord w)),
  (0x084, fun w => .fmin (.ofWord w) (.ofWord w)),
  (0x085, fun w => .fmax (.ofWord w) (.ofWord w)),
  (0x086, fun w => .fset (.ofWord w) (.ofWord w)),
  (0x087, fun w => .frcp (.ofWord w) (.ofWord w)),
  (0x088, fun w => .frsq (.ofWord w) (.ofWord w)),
  (0x089, fun w => .fsqrt (.ofWord w) (.ofWord w)),
  (0x08A, fun w => .fex2 (.ofWord w) (.ofWord w)),
  (0x08B, fun w => .flg2 (.ofWord w) (.ofWord w)),
  (0x08C, fun w => .fsin (.ofWord w) (.ofWord w)),
  (0x08D, fun w => .fcos (.ofWord w) (.ofWord w)),
  (0x08E, fun w => .ftanh (.ofWord w) (.ofWord w)),
  (0x08F, fun w => .frnd (.ofWord w) (.ofWord w)),
  (0x090, fun w => .fcvt (.ofWord w) (.ofWord w)),
  (0x091, fun w => .fclass (.ofWord w) (.ofWord w)),
  (0x092, fun w => .fscl (.ofWord w) (.ofWord w)),
  (0x0A0, fun w => .faddImm (.ofWord w) (.ofWord w)),
  (0x0A1, fun w => .fsubImm (.ofWord w) (.ofWord w)),
  (0x0A2, fun w => .fmulImm (.ofWord w) (.ofWord w)),
  (0x0A4, fun w => .fminImm (.ofWord w) (.ofWord w)),
  (0x0A5, fun w => .fmaxImm (.ofWord w) (.ofWord w)),
  (0x0A6, fun w => .fsetImm (.ofWord w) (.ofWord w)),
  (0x0C0, fun w => .hadd2 (.ofWord w) (.ofWord w)),
  (0x0C1, fun w => .hmul2 (.ofWord w) (.ofWord w)),
  (0x0C2, fun w => .hfma2 (.ofWord w) (.ofWord w))]

def opcodesLane : List OpRow := [
  (0x0E0, fun w => .mov (.ofWord w) (.ofWord w)),
  (0x0E1, fun w => .movi (.ofWord w) (.ofWord w)),
  (0x0E2, fun w => .movs (.ofWord w) (.ofWord w)),
  (0x0E3, fun w => .shfl (.ofWord w) (.ofWord w)),
  (0x0E4, fun w => .vote (.ofWord w) (.ofWord w)),
  (0x0E5, fun w => .lred (.ofWord w) (.ofWord w)),
  (0x0E6, fun w => .prmt (.ofWord w) (.ofWord w)),
  (0x0E7, fun w => .getsr (.ofWord w) (.ofWord w)),
  (0x0E8, fun w => .setsr (.ofWord w) (.ofWord w))]

def opcodesMemory : List OpRow := [
  (0x100, fun w => .ld (.ofWord w) (.ofWord w)),
  (0x101, fun w => .st (.ofWord w) (.ofWord w)),
  (0x102, fun w => .ldk (.ofWord w) (.ofWord w)),
  (0x103, fun w => .stk (.ofWord w) (.ofWord w)),
  (0x104, fun w => .lds (.ofWord w) (.ofWord w)),
  (0x105, fun w => .sts (.ofWord w) (.ofWord w)),
  (0x106, fun w => .ldfe (.ofWord w) (.ofWord w)),
  (0x107, fun w => .ldfeKeep (.ofWord w) (.ofWord w)),
  (0x108, fun w => .stfe (.ofWord w) (.ofWord w)),
  (0x109, fun w => .stfeForce (.ofWord w) (.ofWord w)),
  (0x10A, fun w => .fence (.ofWord w) (.ofWord w)),
  (0x10B, fun w => .flush (.ofWord w) (.ofWord w)),
  (0x10C, fun w => .inval (.ofWord w) (.ofWord w)),
  (0x10D, fun w => .pref (.ofWord w) (.ofWord w)),
  (0x110, fun w => .atomAdd (.ofWord w) (.ofWord w)),
  (0x111, fun w => .atomAddF32 (.ofWord w) (.ofWord w)),
  (0x112, fun w => .atomMin (.ofWord w) (.ofWord w)),
  (0x113, fun w => .atomMax (.ofWord w) (.ofWord w)),
  (0x114, fun w => .atomAnd (.ofWord w) (.ofWord w)),
  (0x115, fun w => .atomOr (.ofWord w) (.ofWord w)),
  (0x116, fun w => .atomXor (.ofWord w) (.ofWord w)),
  (0x117, fun w => .atomXchg (.ofWord w) (.ofWord w)),
  (0x118, fun w => .atomCas (.ofWord w) (.ofWord w)),
  (0x119, fun w => .atomIncw (.ofWord w) (.ofWord w)),
  (0x11A, fun w => .atomBfadd (.ofWord w) (.ofWord w)),
  (0x120, fun w => .redAdd (.ofWord w) (.ofWord w)),
  (0x121, fun w => .redAddF32 (.ofWord w) (.ofWord w)),
  (0x122, fun w => .redMin (.ofWord w) (.ofWord w)),
  (0x123, fun w => .redMax (.ofWord w) (.ofWord w)),
  (0x124, fun w => .redAnd (.ofWord w) (.ofWord w)),
  (0x125, fun w => .redOr (.ofWord w) (.ofWord w)),
  (0x126, fun w => .redXor (.ofWord w) (.ofWord w)),
  (0x129, fun w => .redIncw (.ofWord w) (.ofWord w))]

def opcodesCapability : List OpRow := [
  (0x140, fun w => .kaddr (.ofWord w) (.ofWord w)),
  (0x141, fun w => .kbase (.ofWord w) (.ofWord w)),
  (0x142, fun w => .klen (.ofWord w) (.ofWord w)),
  (0x143, fun w => .kperm (.ofWord w) (.ofWord w)),
  (0x144, fun w => .ktype (.ofWord w) (.ofWord w)),
  (0x145, fun w => .ktag (.ofWord w) (.ofWord w)),
  (0x146, fun w => .kseta (.ofWord w) (.ofWord w)),
  (0x147, fun w => .kinc (.ofWord w) (.ofWord w)),
  (0x148, fun w => .kbnd (.ofWord w) (.ofWord w)),
  (0x149, fun w => .kbndx (.ofWord w) (.ofWord w)),
  (0x14A, fun w => .kandp (.ofWord w) (.ofWord w)),
  (0x14B, fun w => .kseal (.ofWord w) (.ofWord w)),
  (0x14C, fun w => .kunseal (.ofWord w) (.ofWord w)),
  (0x14D, fun w => .ksub (.ofWord w) (.ofWord w)),
  (0x14E, fun w => .kclr (.ofWord w) (.ofWord w)),
  (0x14F, fun w => .kmov (.ofWord w) (.ofWord w)),
  (0x150, fun w => .kentry (.ofWord w) (.ofWord w))]

def opcodesWaiting : List OpRow := [
  (0x180, fun w => .bar (.ofWord w) (.ofWord w)),
  (0x181, fun w => .mwait (.ofWord w) (.ofWord w)),
  (0x182, fun w => .mwaitEq (.ofWord w) (.ofWord w)),
  (0x183, fun w => .lock (.ofWord w) (.ofWord w)),
  (0x184, fun w => .unlock (.ofWord w) (.ofWord w)),
  (0x185, fun w => .wreg (.ofWord w) (.ofWord w)),
  (0x186, fun w => .wdereg (.ofWord w) (.ofWord w)),
  (0x187, fun w => .whold (.ofWord w) (.ofWord w)),
  (0x188, fun w => .send (.ofWord w) (.ofWord w)),
  (0x189, fun w => .recv (.ofWord w) (.ofWord w)),
  (0x18A, fun w => .calle (.ofWord w) (.ofWord w)),
  (0x18B, fun w => .reply (.ofWord w) (.ofWord w)),
  (0x18C, fun w => .nsig (.ofWord w) (.ofWord w)),
  (0x18D, fun w => .nwait (.ofWord w) (.ofWord w)),
  (0x18E, fun w => .yield (.ofWord w) (.ofWord w))]

def opcodesMatrix : List OpRow := [
  (0x1C0, fun w => .tdef (.ofWord w) (.ofWord w)),
  (0x1C1, fun w => .tstat (.ofWord w) (.ofWord w)),
  (0x1C2, fun w => .twait (.ofWord w) (.ofWord w)),
  (0x1C3, fun w => .trel (.ofWord w) (.ofWord w)),
  (0x1C4, fun w => .gang (.ofWord w) (.ofWord w)),
  (0x1C5, fun w => .copy (.ofWord w) (.ofWord w)),
  (0x1C6, fun w => .copym (.ofWord w) (.ofWord w)),
  (0x1C7, fun w => .mma (.ofWord w) (.ofWord w)),
  (0x1C8, fun w => .mmak (.ofWord w) (.ofWord w)),
  (0x1C9, fun w => .scacc (.ofWord w) (.ofWord w)),
  (0x1CA, fun w => .aclr (.ofWord w) (.ofWord w)),
  (0x1CB, fun w => .ainit (.ofWord w) (.ofWord w)),
  (0x1CC, fun w => .adrain (.ofWord w) (.ofWord w))]

def opcodesWork : List OpRow := [
  (0x200, fun w => .launch (.ofWord w) (.ofWord w)),
  (0x201, fun w => .pclaim (.ofWord w) (.ofWord w)),
  (0x202, fun w => .pdone (.ofWord w) (.ofWord w)),
  (0x203, fun w => .schrd (.ofWord w) (.ofWord w)),
  (0x204, fun w => .schwr (.ofWord w) (.ofWord w)),
  (0x205, fun w => .covrd (.ofWord w) (.ofWord w)),
  (0x206, fun w => .spawn (.ofWord w) (.ofWord w)),
  (0x207, fun w => .reggive (.ofWord w) (.ofWord w)),
  (0x208, fun w => .regclaim (.ofWord w) (.ofWord w)),
  (0x220, fun w => .pdim (.ofWord w) (.ofWord w)),
  (0x221, fun w => .pcancel (.ofWord w) (.ofWord w)),
  (0x222, fun w => .prepeat (.ofWord w) (.ofWord w))]

/-- The opcode map of spec/07. -/
def opcodeMap : List OpRow :=
  opcodesControl ++ opcodesInteger ++ opcodesFloat ++ opcodesLane ++ opcodesMemory ++ opcodesCapability ++ opcodesWaiting ++ opcodesMatrix ++ opcodesWork

/-- Decodes an 80-bit word (R171 step 1 finds the opcode; R173 for the others). -/
def decodeWord (w : BitVec 80) : Instr :=
  match opcodeMap.lookup (w.extractLsb' 70 10).toNat with
  | some f => f w
  | none => .unassignedOpcode (w.extractLsb' 70 10) (.ofWord w) (w.extractLsb' 0 53)

/-- The ten bytes of an instruction slot (R131). -/
def decodeSlot (bs : List Byte) : Instr := decodeWord (BitVec.ofNat 80 (natOfBytes bs))

/-- A k field names k0-k15 (R371). -/
def isK (x : BitVec 5) : Bool := !x.getLsbD 4

/-- Xkcap custom-0 (Table 18.5). -/
def decodeCustom0 (w : BitVec 32) : Option Instr :=
  let rd := w.extractLsb' 7 5
  let rs1 := w.extractLsb' 15 5
  let rs2 := w.extractLsb' 20 5
  let f7 := (w.extractLsb' 25 7).toNat
  let immI := w.extractLsb' 20 12
  match (w.extractLsb' 12 3).toNat with
  | 0 => if isK rd then some (.kld rd rs1 immI) else none
  | 1 => if isK rs2 then some (.kst rs2 rs1 (w.extractLsb' 25 7 ++ rd)) else none
  | 2 => if isK rd && isK rs1 then some (.kincHart rd rs1 immI) else none
  | 3 => if isK rd && isK rs1 then some (.kandpHart rd rs1 immI) else none
  | 4 =>
    match f7 with
    | 0x00 => if isK rd && isK rs1 then some (.kbndHart rd rs1 rs2) else none
    | 0x01 => if isK rd && isK rs1 then some (.kbndxHart rd rs1 rs2) else none
    | 0x02 => if isK rs1 && rs2 == 0 then some (.kaddrHart rd rs1) else none
    | 0x03 => if isK rd && isK rs1 then some (.kaddrSet rd rs1 rs2) else none
    | 0x04 => if isK rd && isK rs1 && isK rs2 then some (.ksealHart rd rs1 rs2) else none
    | 0x05 => if isK rd && isK rs1 && isK rs2 then some (.kunsealHart rd rs1 rs2) else none
    | 0x06 => if isK rd && isK rs1 && rs2 == 0 then some (.kentryHart rd rs1) else none
    | 0x10 => if rd == 0 && rs1 == 0 && rs2 == 0 then some .kmodeCap else none
    | 0x11 => if rd == 0 && rs1 == 0 && rs2 == 0 then some .kmodeInt else none
    | 0x12 => if isK rd && rs1.toNat < 8 && rs2 == 0 then some (.kmodeRd rd rs1) else none
    | 0x13 => if isK rs1 && rd.toNat < 8 && rs2 == 0 then some (.kmodeWr rd rs1) else none
    | 0x14 => if isK rd && isK rs1 && rs2 == 0 then some (.kmodeJmp rd rs1) else none
    | _ => none
  | _ => none

/-- Xkcap custom-1 (Table 18.5): funct7<3:0> is the count, 0-8, and funct7<4> is .nb, on krecv only. -/
def decodeCustom1 (w : BitVec 32) : Option Instr :=
  let rd := w.extractLsb' 7 5
  let rs1 := w.extractLsb' 15 5
  let rs2 := w.extractLsb' 20 5
  let f7 := w.extractLsb' 25 7
  let count := w.extractLsb' 25 4
  let okCount := count.toNat ≤ 8 && !f7.getLsbD 5 && !f7.getLsbD 6
  let ks := isK rd && isK rs1 && isK rs2
  match (w.extractLsb' 12 3).toNat with
  | 0 => if okCount && ks && !f7.getLsbD 4 then some (.ksend count rs2 rs1 rd) else none
  | 1 => if okCount && ks then some (.krecv (f7.getLsbD 4) count rs2 rs1 rd) else none
  | 2 => if okCount && ks && !f7.getLsbD 4 then some (.kcall count rs2 rs1 rd) else none
  | 3 => if okCount && isK rd && isK rs2 && rs1 == 0 && !f7.getLsbD 4 then some (.kreply count rs2 rd) else none
  | 4 => if f7 == 0 && isK rd && isK rs1 then some (.omake rd rs1 rs2) else none
  | _ => none

/-- The AMO of funct5, or none (A extension). -/
def amoOfFunct5 (f5 : Nat) : Option AmoOp :=
  match f5 with
  | 0x00 => some .add
  | 0x01 => some .swap
  | 0x04 => some .xor
  | 0x08 => some .or
  | 0x0C => some .and
  | 0x10 => some .min
  | 0x14 => some .max
  | 0x18 => some .minu
  | 0x1C => some .maxu
  | _ => none

def AmoOp.funct5 : AmoOp → BitVec 5
  | .add => 0x00
  | .swap => 0x01
  | .xor => 0x04
  | .or => 0x08
  | .and => 0x0C
  | .min => 0x10
  | .max => 0x14
  | .minu => 0x18
  | .maxu => 0x1C

/-- Standard loads, stores, LR, SC and AMOs (R364, R365). -/
def decodeAccess (w : BitVec 32) : Option HartAccess :=
  let rd := w.extractLsb' 7 5
  let rs1 := w.extractLsb' 15 5
  let rs2 := w.extractLsb' 20 5
  let immI := w.extractLsb' 20 12
  let immS := w.extractLsb' 25 7 ++ rd
  let f3 := (w.extractLsb' 12 3).toNat
  let dbl := f3 == 3
  match (w.extractLsb' 0 7).toNat with
  | 0x03 =>
    if f3 < 4 then some (.load (w.extractLsb' 12 2) false rd rs1 immI)
    else if f3 < 7 then some (.load (w.extractLsb' 12 2) true rd rs1 immI) else none
  | 0x23 => if f3 < 4 then some (.store (w.extractLsb' 12 2) rs2 rs1 immS) else none
  | 0x07 => if f3 = 2 ∨ f3 = 3 then some (.fload dbl rd rs1 immI) else none
  | 0x27 => if f3 = 2 ∨ f3 = 3 then some (.fstore dbl rs2 rs1 immS) else none
  | 0x2F =>
    if f3 = 2 ∨ f3 = 3 then
      let aq := w.getLsbD 26
      let rl := w.getLsbD 25
      match (w.extractLsb' 27 5).toNat with
      | 0x02 => if rs2 == 0 then some (.lr dbl aq rl rd rs1) else none
      | 0x03 => some (.sc dbl aq rl rd rs1 rs2)
      | f5 => (amoOfFunct5 f5).map fun op => .amo op dbl aq rl rd rs1 rs2
    else none
  | _ => none

/-- The Xkcap CSRs (Table 18.3). -/
def isXkcapCsr (c : BitVec 12) : Bool :=
  c == 0x7C0 || c == 0x7C1 || c == 0x5C0 || c == 0x5C1 || c == 0x5C2 || c == 0x5C3

/-- The CSR instruction of funct3. -/
def csrOpOf (f3 : Nat) : Option CsrOp :=
  match f3 with
  | 1 => some .rw
  | 2 => some .rs
  | 3 => some .rc
  | 5 => some .rwi
  | 6 => some .rsi
  | 7 => some .rci
  | _ => none

def CsrOp.funct3 : CsrOp → BitVec 3
  | .rw => 1
  | .rs => 2
  | .rc => 3
  | .rwi => 5
  | .rsi => 6
  | .rci => 7

/-- Decodes a 32-bit hart word that has a row of its own; none for any other. -/
def decodeHart (w : BitVec 32) : Option Instr :=
  match (w.extractLsb' 0 7).toNat with
  | 0x0B => decodeCustom0 w
  | 0x2B => decodeCustom1 w
  | 0x0F =>
    if w.extractLsb' 12 3 = 0 then
      some (.hartFence (w.extractLsb' 28 4) (w.extractLsb' 24 4) (w.extractLsb' 20 4))
    else none
  | 0x73 =>
    if w = 0x30200073 then some .mret
    else if w = 0x10200073 then some .sret
    else if isXkcapCsr (w.extractLsb' 20 12) then
      (csrOpOf (w.extractLsb' 12 3).toNat).map fun op =>
        .xkcapCsrAccess op (w.extractLsb' 20 12) (w.extractLsb' 7 5) (w.extractLsb' 15 5)
    else none
  | _ => (decodeAccess w).map .hartMemoryAccess

/-- The four bytes of a hart word. -/
def decodeHartBytes (bs : List Byte) : Option Instr := decodeHart (BitVec.ofNat 32 (natOfBytes bs))

/-- The instruction of the bytes that a table row's bits give: a hart word of 32 bits, or a compute word of 80. -/
def decodeTableWord (nbits w : Nat) : Option Instr :=
  if nbits ≤ 32 then decodeHartBytes (bytesOfNat 4 (w % 2 ^ nbits))
  else some (decodeSlot (bytesOfNat 10 (w % 2 ^ nbits)))

/-- The standard 32-bit layout: funct7, rs2, rs1, funct3, rd, opcode. -/
def packR (f7 : BitVec 7) (rs2 rs1 : BitVec 5) (f3 : BitVec 3) (rd : BitVec 5) (op : BitVec 7) : BitVec 32 :=
  f7 ++ rs2 ++ rs1 ++ f3 ++ rd ++ op
def packI (imm : BitVec 12) (rs1 : BitVec 5) (f3 : BitVec 3) (rd : BitVec 5) (op : BitVec 7) : BitVec 32 :=
  imm ++ rs1 ++ f3 ++ rd ++ op
def packS (imm : BitVec 12) (rs2 rs1 : BitVec 5) (f3 : BitVec 3) (op : BitVec 7) : BitVec 32 :=
  imm.extractLsb' 5 7 ++ rs2 ++ rs1 ++ f3 ++ imm.extractLsb' 0 5 ++ op

def f3of (double : Bool) : BitVec 3 := if double then 3 else 2

/-- The word of a standard access. -/
def HartAccess.word : HartAccess → BitVec 32
  | .load width unsigned rd rs1 imm => packI imm rs1 (BitVec.ofBool unsigned ++ width) rd 0x03
  | .store width rs2 rs1 imm => packS imm rs2 rs1 ((0 : BitVec 1) ++ width) 0x23
  | .fload double rd rs1 imm => packI imm rs1 (f3of double) rd 0x07
  | .fstore double rs2 rs1 imm => packS imm rs2 rs1 (f3of double) 0x27
  | .lr double aq rl rd rs1 =>
    packR ((2 : BitVec 5) ++ BitVec.ofBool aq ++ BitVec.ofBool rl) 0 rs1 (f3of double) rd 0x2F
  | .sc double aq rl rd rs1 rs2 =>
    packR ((3 : BitVec 5) ++ BitVec.ofBool aq ++ BitVec.ofBool rl) rs2 rs1 (f3of double) rd 0x2F
  | .amo op double aq rl rd rs1 rs2 =>
    packR (op.funct5 ++ BitVec.ofBool aq ++ BitVec.ofBool rl) rs2 rs1 (f3of double) rd 0x2F

/-- The word of a compute instruction, or none for an instruction of another kind. -/
def encodeWord : Instr → Option (BitVec 80)
  | .nop h b => some (assemble 0x000 h b.bits)
  | .bra h b => some (assemble 0x001 h b.bits)
  | .br h b => some (assemble 0x002 h b.bits)
  | .brx h b => some (assemble 0x003 h b.bits)
  | .call h b => some (assemble 0x004 h b.bits)
  | .ret h b => some (assemble 0x005 h b.bits)
  | .reform h b => some (assemble 0x006 h b.bits)
  | .exit h b => some (assemble 0x007 h b.bits)
  | .trap h b => some (assemble 0x008 h b.bits)
  | .brk h b => some (assemble 0x009 h b.bits)
  | .plop h b => some (assemble 0x00A h b.bits)
  | .iadd h b => some (assemble 0x040 h b.bits)
  | .iaddImm h b => some (assemble 0x060 h b.bits)
  | .isub h b => some (assemble 0x041 h b.bits)
  | .isubImm h b => some (assemble 0x061 h b.bits)
  | .imul h b => some (assemble 0x042 h b.bits)
  | .imulImm h b => some (assemble 0x062 h b.bits)
  | .imulhi h b => some (assemble 0x043 h b.bits)
  | .imulhiImm h b => some (assemble 0x063 h b.bits)
  | .imad h b => some (assemble 0x044 h b.bits)
  | .imin h b => some (assemble 0x045 h b.bits)
  | .iminImm h b => some (assemble 0x065 h b.bits)
  | .imax h b => some (assemble 0x046 h b.bits)
  | .imaxImm h b => some (assemble 0x066 h b.bits)
  | .iabs h b => some (assemble 0x047 h b.bits)
  | .ineg h b => some (assemble 0x048 h b.bits)
  | .and h b => some (assemble 0x049 h b.bits)
  | .andImm h b => some (assemble 0x069 h b.bits)
  | .or h b => some (assemble 0x04A h b.bits)
  | .orImm h b => some (assemble 0x06A h b.bits)
  | .xor h b => some (assemble 0x04B h b.bits)
  | .xorImm h b => some (assemble 0x06B h b.bits)
  | .andn h b => some (assemble 0x04C h b.bits)
  | .andnImm h b => some (assemble 0x06C h b.bits)
  | .shl h b => some (assemble 0x04D h b.bits)
  | .shlImm h b => some (assemble 0x06D h b.bits)
  | .shr h b => some (assemble 0x04E h b.bits)
  | .shrImm h b => some (assemble 0x06E h b.bits)
  | .sar h b => some (assemble 0x04F h b.bits)
  | .sarImm h b => some (assemble 0x06F h b.bits)
  | .rot h b => some (assemble 0x050 h b.bits)
  | .rotImm h b => some (assemble 0x070 h b.bits)
  | .bfx h b => some (assemble 0x051 h b.bits)
  | .bfxImm h b => some (assemble 0x071 h b.bits)
  | .bfi h b => some (assemble 0x052 h b.bits)
  | .popc h b => some (assemble 0x053 h b.bits)
  | .clz h b => some (assemble 0x054 h b.bits)
  | .brev h b => some (assemble 0x055 h b.bits)
  | .iset h b => some (assemble 0x056 h b.bits)
  | .isetImm h b => some (assemble 0x076 h b.bits)
  | .sel h b => some (assemble 0x057 h b.bits)
  | .fadd h b => some (assemble 0x080 h b.bits)
  | .faddImm h b => some (assemble 0x0A0 h b.bits)
  | .fsub h b => some (assemble 0x081 h b.bits)
  | .fsubImm h b => some (assemble 0x0A1 h b.bits)
  | .fmul h b => some (assemble 0x082 h b.bits)
  | .fmulImm h b => some (assemble 0x0A2 h b.bits)
  | .ffma h b => some (assemble 0x083 h b.bits)
  | .fmin h b => some (assemble 0x084 h b.bits)
  | .fminImm h b => some (assemble 0x0A4 h b.bits)
  | .fmax h b => some (assemble 0x085 h b.bits)
  | .fmaxImm h b => some (assemble 0x0A5 h b.bits)
  | .fset h b => some (assemble 0x086 h b.bits)
  | .fsetImm h b => some (assemble 0x0A6 h b.bits)
  | .frcp h b => some (assemble 0x087 h b.bits)
  | .frsq h b => some (assemble 0x088 h b.bits)
  | .fsqrt h b => some (assemble 0x089 h b.bits)
  | .fex2 h b => some (assemble 0x08A h b.bits)
  | .flg2 h b => some (assemble 0x08B h b.bits)
  | .fsin h b => some (assemble 0x08C h b.bits)
  | .fcos h b => some (assemble 0x08D h b.bits)
  | .ftanh h b => some (assemble 0x08E h b.bits)
  | .frnd h b => some (assemble 0x08F h b.bits)
  | .fcvt h b => some (assemble 0x090 h b.bits)
  | .fclass h b => some (assemble 0x091 h b.bits)
  | .fscl h b => some (assemble 0x092 h b.bits)
  | .hadd2 h b => some (assemble 0x0C0 h b.bits)
  | .hmul2 h b => some (assemble 0x0C1 h b.bits)
  | .hfma2 h b => some (assemble 0x0C2 h b.bits)
  | .mov h b => some (assemble 0x0E0 h b.bits)
  | .movi h b => some (assemble 0x0E1 h b.bits)
  | .movs h b => some (assemble 0x0E2 h b.bits)
  | .shfl h b => some (assemble 0x0E3 h b.bits)
  | .vote h b => some (assemble 0x0E4 h b.bits)
  | .lred h b => some (assemble 0x0E5 h b.bits)
  | .prmt h b => some (assemble 0x0E6 h b.bits)
  | .getsr h b => some (assemble 0x0E7 h b.bits)
  | .setsr h b => some (assemble 0x0E8 h b.bits)
  | .ld h b => some (assemble 0x100 h b.bits)
  | .st h b => some (assemble 0x101 h b.bits)
  | .ldk h b => some (assemble 0x102 h b.bits)
  | .stk h b => some (assemble 0x103 h b.bits)
  | .lds h b => some (assemble 0x104 h b.bits)
  | .sts h b => some (assemble 0x105 h b.bits)
  | .ldfe h b => some (assemble 0x106 h b.bits)
  | .ldfeKeep h b => some (assemble 0x107 h b.bits)
  | .stfe h b => some (assemble 0x108 h b.bits)
  | .stfeForce h b => some (assemble 0x109 h b.bits)
  | .fence h b => some (assemble 0x10A h b.bits)
  | .flush h b => some (assemble 0x10B h b.bits)
  | .inval h b => some (assemble 0x10C h b.bits)
  | .pref h b => some (assemble 0x10D h b.bits)
  | .atomAdd h b => some (assemble 0x110 h b.bits)
  | .atomAddF32 h b => some (assemble 0x111 h b.bits)
  | .atomMin h b => some (assemble 0x112 h b.bits)
  | .atomMax h b => some (assemble 0x113 h b.bits)
  | .atomAnd h b => some (assemble 0x114 h b.bits)
  | .atomOr h b => some (assemble 0x115 h b.bits)
  | .atomXor h b => some (assemble 0x116 h b.bits)
  | .atomXchg h b => some (assemble 0x117 h b.bits)
  | .atomCas h b => some (assemble 0x118 h b.bits)
  | .atomIncw h b => some (assemble 0x119 h b.bits)
  | .atomBfadd h b => some (assemble 0x11A h b.bits)
  | .redAdd h b => some (assemble 0x120 h b.bits)
  | .redAddF32 h b => some (assemble 0x121 h b.bits)
  | .redMin h b => some (assemble 0x122 h b.bits)
  | .redMax h b => some (assemble 0x123 h b.bits)
  | .redAnd h b => some (assemble 0x124 h b.bits)
  | .redOr h b => some (assemble 0x125 h b.bits)
  | .redXor h b => some (assemble 0x126 h b.bits)
  | .redIncw h b => some (assemble 0x129 h b.bits)
  | .kaddr h b => some (assemble 0x140 h b.bits)
  | .kbase h b => some (assemble 0x141 h b.bits)
  | .klen h b => some (assemble 0x142 h b.bits)
  | .kperm h b => some (assemble 0x143 h b.bits)
  | .ktype h b => some (assemble 0x144 h b.bits)
  | .ktag h b => some (assemble 0x145 h b.bits)
  | .kseta h b => some (assemble 0x146 h b.bits)
  | .kinc h b => some (assemble 0x147 h b.bits)
  | .kbnd h b => some (assemble 0x148 h b.bits)
  | .kbndx h b => some (assemble 0x149 h b.bits)
  | .kandp h b => some (assemble 0x14A h b.bits)
  | .kseal h b => some (assemble 0x14B h b.bits)
  | .kunseal h b => some (assemble 0x14C h b.bits)
  | .ksub h b => some (assemble 0x14D h b.bits)
  | .kclr h b => some (assemble 0x14E h b.bits)
  | .kmov h b => some (assemble 0x14F h b.bits)
  | .kentry h b => some (assemble 0x150 h b.bits)
  | .bar h b => some (assemble 0x180 h b.bits)
  | .mwait h b => some (assemble 0x181 h b.bits)
  | .mwaitEq h b => some (assemble 0x182 h b.bits)
  | .lock h b => some (assemble 0x183 h b.bits)
  | .unlock h b => some (assemble 0x184 h b.bits)
  | .wreg h b => some (assemble 0x185 h b.bits)
  | .wdereg h b => some (assemble 0x186 h b.bits)
  | .whold h b => some (assemble 0x187 h b.bits)
  | .send h b => some (assemble 0x188 h b.bits)
  | .recv h b => some (assemble 0x189 h b.bits)
  | .calle h b => some (assemble 0x18A h b.bits)
  | .reply h b => some (assemble 0x18B h b.bits)
  | .nsig h b => some (assemble 0x18C h b.bits)
  | .nwait h b => some (assemble 0x18D h b.bits)
  | .yield h b => some (assemble 0x18E h b.bits)
  | .tdef h b => some (assemble 0x1C0 h b.bits)
  | .tstat h b => some (assemble 0x1C1 h b.bits)
  | .twait h b => some (assemble 0x1C2 h b.bits)
  | .trel h b => some (assemble 0x1C3 h b.bits)
  | .gang h b => some (assemble 0x1C4 h b.bits)
  | .copy h b => some (assemble 0x1C5 h b.bits)
  | .copym h b => some (assemble 0x1C6 h b.bits)
  | .mma h b => some (assemble 0x1C7 h b.bits)
  | .mmak h b => some (assemble 0x1C8 h b.bits)
  | .scacc h b => some (assemble 0x1C9 h b.bits)
  | .aclr h b => some (assemble 0x1CA h b.bits)
  | .ainit h b => some (assemble 0x1CB h b.bits)
  | .adrain h b => some (assemble 0x1CC h b.bits)
  | .launch h b => some (assemble 0x200 h b.bits)
  | .pclaim h b => some (assemble 0x201 h b.bits)
  | .pdone h b => some (assemble 0x202 h b.bits)
  | .schrd h b => some (assemble 0x203 h b.bits)
  | .schwr h b => some (assemble 0x204 h b.bits)
  | .covrd h b => some (assemble 0x205 h b.bits)
  | .spawn h b => some (assemble 0x206 h b.bits)
  | .reggive h b => some (assemble 0x207 h b.bits)
  | .regclaim h b => some (assemble 0x208 h b.bits)
  | .pdim h b => some (assemble 0x220 h b.bits)
  | .pcancel h b => some (assemble 0x221 h b.bits)
  | .prepeat h b => some (assemble 0x222 h b.bits)
  | .unassignedOpcode op h body => some (assemble op h body)
  | _ => none

/-- The word of a hart instruction, or none for an instruction of another kind. -/
def encodeHart : Instr → Option (BitVec 32)
  | .kld d b imm => some (packI imm b 0 d 0x0B)
  | .kst s b imm => some (packS imm s b 1 0x0B)
  | .kincHart d a imm => some (packI imm a 2 d 0x0B)
  | .kandpHart d a mask => some (packI mask a 3 d 0x0B)
  | .kbndHart d a l => some (packR 0x00 l a 4 d 0x0B)
  | .kbndxHart d a l => some (packR 0x01 l a 4 d 0x0B)
  | .kaddrHart d a => some (packR 0x02 0 a 4 d 0x0B)
  | .kaddrSet d a s => some (packR 0x03 s a 4 d 0x0B)
  | .ksealHart d a b => some (packR 0x04 b a 4 d 0x0B)
  | .kunsealHart d a b => some (packR 0x05 b a 4 d 0x0B)
  | .kentryHart d a => some (packR 0x06 0 a 4 d 0x0B)
  | .kmodeCap => some (packR 0x10 0 0 4 0 0x0B)
  | .kmodeInt => some (packR 0x11 0 0 4 0 0x0B)
  | .kmodeRd d s => some (packR 0x12 0 s 4 d 0x0B)
  | .kmodeWr s a => some (packR 0x13 0 a 4 s 0x0B)
  | .kmodeJmp d a => some (packR 0x14 0 a 4 d 0x0B)
  | .ksend count x e y => some (packR ((0 : BitVec 3) ++ count) x e 0 y 0x2B)
  | .krecv nb count x e y => some (packR ((0 : BitVec 2) ++ BitVec.ofBool nb ++ count) x e 1 y 0x2B)
  | .kcall count x e y => some (packR ((0 : BitVec 3) ++ count) x e 2 y 0x2B)
  | .kreply count x y => some (packR ((0 : BitVec 3) ++ count) x 0 3 y 0x2B)
  | .omake d u t => some (packR 0 t u 4 d 0x2B)
  | .aspaceTeardown count x e y => some (packR ((0 : BitVec 3) ++ count) x e 0 y 0x2B)
  | .asidRelease count x e y => some (packR ((0 : BitVec 3) ++ count) x e 0 y 0x2B)
  | .sweepStart count x e y => some (packR ((0 : BitVec 3) ++ count) x e 0 y 0x2B)
  | .objectRevoke count x e y => some (packR ((0 : BitVec 3) ++ count) x e 0 y 0x2B)
  | .mret => some 0x30200073
  | .sret => some 0x10200073
  | .hartMemoryAccess a => some a.word
  | .hartFence fm pred succ => some (packI (fm ++ pred ++ succ) 0 0 0 0x0F)
  | .xkcapCsrAccess op csr rd rs1 => some (packI csr rs1 op.funct3 rd 0x73)
  | _ => none

/-- The bytes of an instruction as memory holds them: ten for a compute word, four for a hart word. -/
def encode (i : Instr) : Option (List Byte) :=
  match encodeWord i, encodeHart i with
  | some w, _ => some (bytesOfNat 10 w.toNat)
  | none, some w => some (bytesOfNat 4 w.toNat)
  | none, none => none

end Sys2Proof
end

