-- ==== Sys2Proof/Machine/Forms.lean ====
section
/-! DEFINITION. The form of every compute instruction: which bits it leaves unused, which values it refuses, which registers
it reads, writes and consumes, its latency class (spec/05 R138, R141-R145; spec/06 R154, R159; spec/07 R171-R186; the
entries of spec/08 to spec/13). The decode faults of R171 come from here. -/

namespace Sys2Proof

open Machine

/-- A register named by an instruction, with the identifiers of R418. -/
inductive Reg where
  | byte (n : Nat)
  | k (n : Nat)
  | p (n : Nat)
  | t (n : Nat)
  | acc (n : Nat)
  /-- s62 as the bound of a clamp, which the instruction's first chunk reads (R77). -/
  | bound
  deriving DecidableEq, Repr

/-- The register identifier of R418. -/
def Reg.ident : Reg → Nat
  | .byte n => n
  | .k n => 0x100 + n
  | .p n => 0x110 + n
  | .t n => 0x120 + n / 16
  | .acc n => 0x200 + n
  | .bound => 0xFE

/-- A fault: its code (Table 20.6), the address word and the auxiliary words (Table 20.5). -/
structure FaultInfo where
  code : BitVec 8
  addr : DWord
  aux0 : Word
  aux1 : Word
  aux2 : Word
  deriving DecidableEq, Repr

def FaultInfo.of (code : BitVec 8) (aux0 : Nat) (aux1 : Nat := 0) (addr : DWord := 0) (aux2 : Nat := 0) : FaultInfo :=
  ⟨code, addr, BitVec.ofNat 32 aux0, BitVec.ofNat 32 aux1, BitVec.ofNat 32 aux2⟩

def illegalOp (cause : Nat) : FaultInfo := .of 0x01 cause
def reservedBits (bit : Nat) : FaultInfo := .of 0x02 bit

/-- What a form's checks depend on beside its word: the launch's W and allocations (R47), and whether the word stands in
the last executed slot of its block (R138). -/
structure FormCtx where
  w : Nat
  nv : Nat
  nk : Nat
  nt : Nat
  nacc : Nat
  lastSlot : Bool
  ng : Nat
  deriving DecidableEq, Repr

/-- The widest launch: used for well-formedness. -/
def FormCtx.widest : FormCtx := ⟨64, 192, 16, 256, 512, true, 16⟩

/-- The form of an instruction word. `unused` lists (lowest bit, broken) for step 4 of R171, `refused` is step 5, `bad`
lists misnamed registers of step 6 beside those out of the allocation. `lat` is the fixed latency, none when the
instruction is variable-latency or a control instruction; `varLat` tells these two apart. -/
structure Form where
  /-- Opcode not assigned (step 1). -/
  unassigned : Bool := false
  transfer : Bool := false
  varLat : Bool := false
  lat : Nat := 0
  unused : List (Nat × Bool) := []
  refused : Bool := false
  bad : List (Bool × Reg) := []
  dst : List Reg := []
  src : List Reg := []
  use : List Reg := []
  /-- Descriptor registers, whose range is checked after the gang (R287). -/
  late : List Reg := []
  /-- The access whose address the instruction's faults carry (R232). -/
  access : Option MBody := none
  /-- A capability instruction, whose faults carry the cursor of the register at fault (R232). -/
  cursor : Bool := false
  deriving Repr

/-- A field that must be zero. -/
def mz {n : Nat} (bit : Nat) (x : BitVec n) : Nat × Bool := (bit, x != 0)

def rb (x : BitVec 8) : Reg := .byte x.toNat
def rk (x : BitVec 4) : Reg := .k x.toNat
/-- Predicate named by the low three bits of a field. -/
def rp {n : Nat} (x : BitVec n) : Reg := .p (x.toNat % 8)
def rt (x : BitVec 8) : Reg := .t x.toNat
/-- `c` registers from byte `n`. -/
def rrun (n c : Nat) : List Reg := (List.range c).map fun i => .byte (n + i)

/-- Bits hi:lo of a field, as a number. -/
def fld {n : Nat} (x : BitVec n) (hi lo : Nat) : Nat := (x.toNat >>> lo) % 2 ^ (hi + 1 - lo)
/-- Bits hi:lo of a field at word bit `base` must be zero. -/
def fz {n : Nat} (base : Nat) (x : BitVec n) (hi lo : Nat) : Nat × Bool := (base + lo, fld x hi lo != 0)

/-- All source and destination modifiers zero (R78). -/
def RBody.noMods (b : RBody) : List (Nat × Bool) :=
  [(20, b.na), (19, b.aa), (18, b.nb), (17, b.ab), (16, b.nc), (15, b.ac), mz 13 b.clamp, mz 9 b.scale]

def RBody.noB (b : RBody) : List (Nat × Bool) := [mz 29 b.b]
def RBody.noC (b : RBody) : List (Nat × Bool) := [mz 21 b.c]
/-- Sign modifiers of unused sources. -/
def RBody.noModB (b : RBody) : List (Nat × Bool) := [(18, b.nb), (17, b.ab)]
def RBody.noModC (b : RBody) : List (Nat × Bool) := [(16, b.nc), (15, b.ac)]
/-- The clamp bound counts as a source (R77, R159). -/
def RBody.clampSrc (b : RBody) : List Reg := if b.clamp = 3 then [.bound] else []
/-- A body of zeros (R174). -/
def RBody.allZero (b : RBody) : List (Nat × Bool) :=
  [mz 45 b.d, mz 37 b.a] ++ b.noB ++ b.noC ++ b.noMods ++ [mz 0 b.variant]

/-- Integer register form: which of variant<1:0> it uses, and its sources (R176, Table 7.2). -/
def intR (b : RBody) (sat u : Bool) (srcs : List Reg) (extra : List (Nat × Bool)) : Form :=
  { lat := 2, dst := [rb b.d], src := srcs, use := srcs,
    unused := b.noMods ++ [fz 0 b.variant 8 5, fz 0 b.variant 4 2]
      ++ (if u then [] else [fz 0 b.variant 0 0]) ++ (if sat then [] else [fz 0 b.variant 1 1]) ++ extra }

def intR2 (b : RBody) (sat u : Bool) : Form := intR b sat u [rb b.a, rb b.b] b.noC
def intR1 (b : RBody) (sat : Bool) : Form := intR b sat false [rb b.a] (b.noB ++ b.noC)

/-- Immediate twin of an integer form. -/
def intI (b : IBody) (sat u : Bool) : Form :=
  { lat := 2, dst := [rb b.d], src := [rb b.a], use := [rb b.a],
    unused := [fz 0 b.variant 4 2] ++ (if u then [] else [fz 0 b.variant 0 0]) ++ (if sat then [] else [fz 0 b.variant 1 1]) }

/-- FP32 register form: sources, latency, and which variant bits are free beside the rounding field (R177). -/
def fpR (b : RBody) (lat : Nat) (rm : Bool) (nsrc : Nat) (vz : List (Nat × Bool)) : Form :=
  let srcs := [rb b.a] ++ (if 2 ≤ nsrc then [rb b.b] else []) ++ (if 3 ≤ nsrc then [rb b.c] else []) ++ b.clampSrc
  { lat := lat, dst := [rb b.d], src := srcs, use := srcs,
    unused := vz ++ (if 2 ≤ nsrc then [] else b.noB ++ b.noModB) ++ (if 3 ≤ nsrc then [] else b.noC ++ b.noModC),
    refused := !rm && fld b.variant 1 0 != 0 }

def fpI (b : IBody) (rm : Bool) (vz : List (Nat × Bool)) : Form :=
  { lat := 4, dst := [rb b.d], src := [rb b.a], use := [rb b.a], unused := vz, refused := !rm && fld b.variant 1 0 != 0 }

/-- Packed half (R177, R219). -/
def halfR (b : RBody) (nsrc : Nat) : Form :=
  { fpR b 4 true nsrc [fz 0 b.variant 8 1] with refused := false }

/-- Order and scope of the M format (R106): weak with a scope and scopes 5-7 are reserved. -/
def MBody.orderForm (b : MBody) : List (Nat × Bool) := [(3, (b.order == 0 && b.scope != 0) || 5 ≤ b.scope.toNat)]
/-- Sizes 5-7 are reserved (Table 5.6). -/
def MBody.sizeForm (b : MBody) : List (Nat × Bool) := [(8, 5 ≤ b.size.toNat)]
/-- Registers of one access of the M format's size (R233) from byte `n`. -/
def sizeRegs (size n : Nat) : List Reg := rrun n (if size = 3 then 2 else if size = 4 then 4 else 1)
/-- Misnamed pairs and quadruples (R144). A 16-byte access whose data byte names s-registers and is no multiple of four is
taken as misnamed like one of v-registers (DESIGN CHOICE, log 63: R144 states the fault for v-registers). -/
def sizeBad (size n : Nat) : List (Bool × Reg) :=
  [(size = 3 && n % 2 != 0, .byte n), (size = 4 && n % 4 != 0, .byte n)]
/-- A run that leaves the v-registers or the register bytes (R182). -/
def runBad (n c : Nat) : List (Bool × Reg) := [((n < 0xC0 && 0xC0 < n + c) || 256 < n + c, .byte n)]

/-- A load or store of data registers. -/
def memForm (b : MBody) (isLoad : Bool) (extra : List (Nat × Bool)) (refused : Bool) : Form :=
  let regs := sizeRegs b.size.toNat b.data.toNat
  let adr := [rk b.k, rb b.index]
  { varLat := true, dst := if isLoad then regs else [], src := (if isLoad then [] else regs) ++ adr, use := adr,
    access := some b, unused := b.sizeForm ++ b.orderForm ++ extra, refused := refused, bad := sizeBad b.size.toNat b.data.toNat }

/-- A capability load or store: bits [48:45] name the k-register (R237, R238). -/
def capMemForm (b : MBody) (isLoad : Bool) : Form :=
  let r : Reg := .k (b.data.toNat % 16)
  let adr := [rk b.k, rb b.index]
  { varLat := true, dst := if isLoad then [r] else [], src := (if isLoad then [] else [r]) ++ adr, use := adr,
    access := some b, unused := [fz 45 b.data 7 4, mz 0 b.variant] ++ b.sizeForm ++ b.orderForm,
    refused := b.size != 4 || (if isLoad then b.order == 3 else b.order == 2) }

/-- Sizes w and d only. -/
def MBody.wd (b : MBody) : Bool := b.size == 2 || b.size == 3

/-- ATOM and RED with `run` operands (R182, R243). -/
def atomForm (b : MBody) (red : Bool) (run : Nat) (predicate unsig : Bool) (wOnly : Bool) : Form :=
  let per := if b.size = 3 then 2 else 1
  let n := b.data.toNat
  let ops := rrun n (run * per)
  let adr := [rk b.k, rb b.index]
  { varLat := true, access := some b,
    dst := if red then [] else rrun n per ++ (if predicate then [rp b.variant] else []),
    src := ops ++ adr, use := ops ++ adr,
    unused := b.sizeForm ++ b.orderForm
      ++ (if predicate then [] else if unsig then [fz 0 b.variant 2 1] else [mz 0 b.variant]),
    refused := !b.wd || (red && b.order == 2) || (wOnly && b.size == 3),
    bad := (if per = 2 then [(n % 2 != 0, Reg.byte n)] else []) ++ runBad n (run * per) }

/-- RED.xchg, RED.cas and RED.bfadd: opcodes that are assigned, with a form, and that step 5 refuses (R182, R243). They
have no row of their own. The number is that of the operands in the run. Table 7.8 gives them no variant: it is taken as unused, so
that a nonzero one faults at step 4 (DESIGN CHOICE, log 71). -/
def refusedRed (op : BitVec 10) : Option Nat :=
  if op = 0x127 then some 1 else if op = 0x128 ∨ op = 0x12A then some 2 else none

/-- Full/empty forms (R240). -/
def feForm (b : MBody) (isLoad report : Bool) : Form :=
  { memForm b isLoad (if report then [] else [mz 0 b.variant])
      (!b.wd || b.order == 0 || (if isLoad then b.order == 3 else b.order == 2)) with
    dst := (if isLoad then sizeRegs b.size.toNat b.data.toNat else []) ++ (if report then [rp b.variant] else []) }

/-- MWAIT (R269). -/
def mwaitForm (b : MBody) : Form :=
  let regs := sizeRegs b.size.toNat b.data.toNat
  { memForm b true [] (!b.wd || b.order == 0 || b.order == 3) with
    dst := regs ++ [rp b.variant], src := regs ++ [rk b.k, rb b.index], use := regs ++ [rk b.k, rb b.index] }

/-- LOCK and UNLOCK (R268). -/
def lockForm (b : MBody) (isLock : Bool) : Form :=
  { varLat := true, access := some b, dst := if isLock then [rp b.variant] else [], src := [rk b.k, rb b.index], use := [rk b.k, rb b.index],
    unused := b.sizeForm ++ b.orderForm ++ (if isLock then [] else [mz 0 b.variant]),
    refused := !b.wd || b.order != (if isLock then 2 else 3) || b.data != 0xFF }

/-- FLUSH and INVAL (Table 7.7). -/
def flushForm (b : MBody) : Form :=
  let all := b.variant.getLsbD 0
  let adr := if all then [] else [rk b.k, rb b.index]
  { varLat := true, src := adr, use := adr, access := if all then none else some b,
    unused := [mz 45 b.data, mz 8 b.size, mz 6 b.order, mz 3 b.scope, fz 0 b.variant 2 1]
      ++ (if all then [mz 41 b.k, mz 33 b.index, mz 31 b.iscale, mz 11 b.offset] else []) }

/-- PCLAIM and PDONE (R186). -/
def parcelForm (b : MBody) (async : Bool) : List (Nat × Bool) :=
  [(33, b.index != 0xFF), mz 31 b.iscale, mz 8 b.size, mz 6 b.order, mz 3 b.scope] ++ (if async then [] else [mz 11 b.offset])

/-- Registers that carry a 64-bit value of the given width (R249). -/
def widthRegs (b : KBody) : List Reg := if fld b.variant 1 0 = 2 then rrun b.a.toNat 2 else [rb b.a]
def widthBad (b : KBody) : List (Bool × Reg) := [(fld b.variant 1 0 = 2 && b.a.toNat % 2 != 0, rb b.a)]
def widthForm (b : KBody) : List (Nat × Bool) := [(0, fld b.variant 1 0 == 3), fz 0 b.variant 8 2]

/-- A field read (R251). -/
def kread (b : KBody) : Form :=
  { lat := 2, cursor := true, dst := widthRegs b, src := [rk b.ka], use := [rk b.ka], bad := widthBad b,
    unused := [mz 49 b.kd, mz 41 b.kb, mz 9 b.imm] ++ widthForm b }
def kread0 (b : KBody) : Form :=
  { lat := 2, cursor := true, dst := [rb b.a], src := [rk b.ka], use := [rk b.ka],
    unused := [mz 49 b.kd, mz 41 b.kb, mz 9 b.imm, mz 0 b.variant] }
/-- KSETA, KBND, KBNDX. -/
def kset (b : KBody) : Form :=
  let s := [rk b.ka] ++ widthRegs b
  { lat := 2, cursor := true, dst := [rk b.kd], src := s, use := s, bad := widthBad b,
    unused := [mz 41 b.kb, mz 9 b.imm] ++ widthForm b }
/-- Instructions on two or three k-registers alone. -/
def kplain (b : KBody) (ka kb : Bool) : Form :=
  let s := (if ka then [rk b.ka] else []) ++ (if kb then [rk b.kb] else [])
  { lat := 2, cursor := true, dst := [rk b.kd], src := s, use := s,
    unused := (if ka then [] else [mz 45 b.ka]) ++ (if kb then [] else [mz 41 b.kb])
      ++ [mz 33 b.a, mz 9 b.imm, mz 0 b.variant] }

/-- Counts 9-15 of the S format are reserved (Table 5.10). -/
def SBody.countForm (b : SBody) : List (Nat × Bool) := [(29, 9 ≤ b.count.toNat)]
/-- The report predicate of the S format (R184). -/
def SBody.report (b : SBody) : Reg := .p (b.flags.toNat % 8)
/-- A message range that leaves the v-registers (R144, R272). -/
def SBody.rangeBad (b : SBody) (c : Nat) : List (Bool × Reg) := [(c != 0 && 0xC0 < b.v.toNat + c, .byte b.v.toNat)]

/-- Number of bits set among the low `n`. -/
def countBits (w : Nat) : Nat → Nat
  | 0 => 0
  | n + 1 => (if w.testBit n then 1 else 0) + countBits w n

/-- A gang field of 4-7 is reserved (Table 5.8). -/
def XBody.gangForm (b : XBody) : List (Nat × Bool) := [(50, 4 ≤ b.gang.toNat)]
def racc (x : BitVec 9) : Reg := .acc x.toNat
/-- Format codes 10-15 are reserved (Table 5.11). -/
def XBody.fmtForm (b : XBody) : List (Nat × Bool) := [(17, 10 ≤ b.fmt.toNat)]

/-- Fields that PCLAIM and PDONE leave unused (R186, R321). -/
def MBody.schedForm (b : MBody) : List (Nat × Bool) :=
  [(33, b.index != 0xFF), mz 31 b.iscale, mz 8 b.size, mz 6 b.order, mz 3 b.scope]
/-- The five s-registers of a parcel (R321). -/
def MBody.parcelBad (b : MBody) : List (Bool × Reg) := [(b.data.toNat < 0xC0 || 0xF9 < b.data.toNat, .byte b.data.toNat)]
/-- Schedule instructions of format K: `n` bits of imm name a register or map word. -/
def KBody.schedForm (b : KBody) (n : Nat) : List (Nat × Bool) := [mz 49 b.kd, mz 41 b.kb, fz 9 b.imm 23 n, mz 0 b.variant]
/-- REGGIVE and REGCLAIM (R334). -/
def budgetForm (b : IBody) : Form :=
  let m := fld b.imm 7 0
  { varLat := true, unused := [mz 45 b.d, mz 37 b.a, fz 5 b.imm 31 12, mz 0 b.variant],
    refused := m % 8 != 0 || m < 8 || 184 < m }

/-- Step 4 to 6 data of every compute instruction; anything else has the default form. -/
def formOf (c : FormCtx) : Instr → Form
  | .nop _ b => { unused := b.allZero }
  | .bra h b =>
    { transfer := true, unused := [mz 20 b.variant, mz 16 b.k, mz 0 b.reserved], refused := h.guard != 7 || h.gneg }
  | .br _ b => { transfer := true, unused := [mz 20 b.variant, mz 16 b.k, mz 0 b.reserved] }
  | .brx _ b =>
    { transfer := true, unused := [mz 29 b.target, mz 20 b.variant, mz 0 b.reserved], src := [rk b.k], use := [rk b.k] }
  | .call _ b =>
    let viaK := b.variant.getLsbD 4
    { transfer := true,
      unused := [fz 20 b.variant 8 5, mz 0 b.reserved] ++ (if viaK then [mz 29 b.target] else [mz 16 b.k]),
      refused := fld b.variant 3 0 == 0, dst := [.k (fld b.variant 3 0)],
      src := if viaK then [rk b.k] else [], use := if viaK then [rk b.k] else [] }
  | .ret _ b =>
    { transfer := true, unused := [mz 29 b.target, mz 20 b.variant, mz 0 b.reserved], src := [rk b.k], use := [rk b.k] }
  | .reform _ b => { transfer := true, unused := [mz 20 b.variant, mz 16 b.k, mz 0 b.reserved] }
  | .exit _ b => { unused := b.allZero }
  | .trap _ b => { unused := [mz 45 b.d, mz 37 b.a, mz 0 b.variant] }
  | .brk _ b => { unused := [mz 45 b.d, mz 37 b.a, mz 0 b.variant] }
  | .plop _ b =>
    let s := [rp b.a, rp b.b] ++ (if fld b.variant 4 3 = 0 then [] else [rp b.d])
    { lat := 2, dst := [rp b.d], src := s, use := s,
      unused := [fz 45 b.d 7 3, fz 37 b.a 7 3, fz 29 b.b 7 3, mz 21 b.c, (19, b.aa), (17, b.ab), (15, b.ac), mz 13 b.clamp,
        mz 9 b.scale, fz 0 b.variant 8 5, (0, 4 ≤ fld b.variant 2 0)],
      refused := fld b.variant 2 0 == 3 && (fld b.b 2 0 != 7 || b.nb) }
  | .iadd _ b => intR2 b true false
  | .iaddImm _ b => intI b true false
  | .isub _ b => intR2 b true false
  | .isubImm _ b => intI b true false
  | .imul _ b => intR2 b false false
  | .imulImm _ b => intI b false false
  | .imulhi _ b => intR2 b false true
  | .imulhiImm _ b => intI b false true
  | .imad _ b => intR b true true [rb b.a, rb b.b, rb b.c] []
  | .imin _ b => intR2 b false true
  | .iminImm _ b => intI b false true
  | .imax _ b => intR2 b false true
  | .imaxImm _ b => intI b false true
  | .iabs _ b => intR1 b true
  | .ineg _ b => intR1 b true
  | .and _ b => intR2 b false false
  | .andImm _ b => intI b false false
  | .or _ b => intR2 b false false
  | .orImm _ b => intI b false false
  | .xor _ b => intR2 b false false
  | .xorImm _ b => intI b false false
  | .andn _ b => intR2 b false false
  | .andnImm _ b => intI b false false
  | .shl _ b => intR2 b false false
  | .shlImm _ b => intI b false false
  | .shr _ b => intR2 b false false
  | .shrImm _ b => intI b false false
  | .sar _ b => intR2 b false false
  | .sarImm _ b => intI b false false
  | .rot _ b => intR2 b false false
  | .rotImm _ b => intI b false false
  | .bfx _ b => intR2 b false true
  | .bfxImm _ b => intI b false true
  | .bfi _ b => { intR b false false [rb b.d, rb b.b, rb b.c] [mz 37 b.a] with use := [rb b.b, rb b.c] }
  | .popc _ b => intR1 b false
  | .clz _ b => intR1 b false
  | .brev _ b => intR1 b false
  | .iset _ b =>
    { lat := 2, dst := [rp b.d], src := [rb b.a, rb b.b], use := [rb b.a, rb b.b],
      unused := b.noMods ++ b.noC ++ [fz 45 b.d 7 3, fz 0 b.variant 8 5, fz 0 b.variant 1 1, (2, 6 ≤ fld b.variant 4 2)] }
  | .isetImm _ b =>
    { lat := 2, dst := [rp b.d], src := [rb b.a], use := [rb b.a],
      unused := [fz 45 b.d 7 3, fz 0 b.variant 1 1, (2, 6 ≤ fld b.variant 4 2)] }
  | .sel _ b =>
    { lat := 2, dst := [rb b.d], src := [rb b.d, rb b.a, rb b.b, rp b.c], use := [rp b.c],
      unused := b.noMods ++ [fz 21 b.c 7 3, fz 0 b.variant 8 5, fz 0 b.variant 4 2, fz 0 b.variant 1 1] }
  | .fadd _ b => fpR b 4 true 2 [fz 0 b.variant 8 2]
  | .faddImm _ b => fpI b true [fz 0 b.variant 4 2]
  | .fsub _ b => fpR b 4 false 2 [fz 0 b.variant 8 2]
  | .fsubImm _ b => fpI b false [fz 0 b.variant 4 2]
  | .fmul _ b => fpR b 4 true 2 [fz 0 b.variant 8 2]
  | .fmulImm _ b => fpI b true [fz 0 b.variant 4 2]
  | .ffma _ b => fpR b 4 true 3 [fz 0 b.variant 8 2]
  | .fmin _ b => fpR b 4 false 2 [fz 0 b.variant 8 3]
  | .fminImm _ b => fpI b false [fz 0 b.variant 4 3]
  | .fmax _ b => fpR b 4 false 2 [fz 0 b.variant 8 3]
  | .fmaxImm _ b => fpI b false [fz 0 b.variant 4 3]
  | .fset _ b =>
    { fpR b 4 false 2 [fz 0 b.variant 8 5, fz 45 b.d 7 3, mz 13 b.clamp, mz 9 b.scale] with
      dst := [rp b.d], src := [rb b.a, rb b.b], use := [rb b.a, rb b.b] }
  | .fsetImm _ b => { fpI b false [fz 45 b.d 7 3] with dst := [rp b.d] }
  | .frcp _ b => fpR b 12 false 1 [fz 0 b.variant 8 2]
  | .frsq _ b => fpR b 12 false 1 [fz 0 b.variant 8 2]
  | .fsqrt _ b => fpR b 12 false 1 [fz 0 b.variant 8 2]
  | .fex2 _ b => fpR b 12 false 1 [fz 0 b.variant 8 2]
  | .flg2 _ b => fpR b 12 false 1 [fz 0 b.variant 8 2]
  | .fsin _ b => fpR b 16 false 1 [fz 0 b.variant 8 2]
  | .fcos _ b => fpR b 16 false 1 [fz 0 b.variant 8 2]
  | .ftanh _ b => fpR b 16 false 1 [fz 0 b.variant 8 2]
  | .frnd _ b => fpR b 4 false 1 [fz 0 b.variant 8 5, fz 0 b.variant 2 2]
  | .fcvt _ b =>
    let dst := fld b.variant 5 2
    let src := fld b.c 3 0
    let se := fld b.variant 7 6
    let de := fld b.c 5 4
    let wide (f : Nat) : Nat := match elemFormat f with | some e => e.width | none => 32
    let beyond (f e : Nat) : Bool := (wide f == 32 && e != 0) || (wide f == 16 && 2 ≤ e)
    let isInt (f : Nat) : Bool := 5 ≤ f && f ≤ 8
    let s := [rb b.a] ++ (if wide dst = 32 then [] else [rb b.d]) ++ b.clampSrc
    { lat := 4, dst := [rb b.d], src := s, use := [rb b.a] ++ b.clampSrc,
      unused := b.noB ++ b.noModB ++ b.noModC
        ++ [fz 21 b.c 7 6, fz 0 b.variant 8 8, (2, 10 ≤ dst), (21, 10 ≤ src)]
        ++ (if isInt dst then [mz 13 b.clamp, mz 9 b.scale] else []),
      refused := dst == 9 || src == 9 || beyond dst de || beyond src se || (isInt src && (b.na || b.aa)) }
  | .fclass _ b =>
    { fpR b 4 false 1 [fz 0 b.variant 8 2, mz 13 b.clamp, mz 9 b.scale] with src := [rb b.a], use := [rb b.a] }
  | .fscl _ b =>
    let f := fpR b 4 true 2 [fz 0 b.variant 8 2]
    { f with refused := b.nb || b.ab }
  | .hadd2 _ b => halfR b 2
  | .hmul2 _ b => halfR b 2
  | .hfma2 _ b => halfR b 3
  | .mov _ b =>
    { lat := 2, dst := [rb b.d], src := [rb b.a], unused := b.noMods ++ b.noB ++ b.noC ++ [mz 0 b.variant] }
  | .movi _ b => { lat := 2, dst := [rb b.d], unused := [mz 37 b.a, mz 0 b.variant] }
  | .movs _ b =>
    let low := b.variant.getLsbD 6
    { lat := 2, dst := [rb b.d], src := [rb b.a],
      unused := b.noMods ++ b.noB ++ b.noC ++ [fz 0 b.variant 8 7] ++ (if low then [fz 0 b.variant 5 0] else []),
      refused := !low && c.w ≤ fld b.variant 5 0 }
  | .shfl _ b =>
    let imm := b.variant.getLsbD 2
    { lat := 6, dst := [rb b.d], src := [rb b.a] ++ (if imm then [] else [rb b.b]), use := if imm then [] else [rb b.b],
      unused := b.noMods ++ b.noC ++ [fz 0 b.variant 8 3] ++ (if imm then [fz 29 b.b 7 6] else []) }
  | .vote _ b =>
    let mask := fld b.variant 1 0 == 3
    let pair := mask && c.w == 64
    { lat := 3, dst := if mask then rrun b.d.toNat (if pair then 2 else 1) else [rp b.d], src := [rp b.a], use := [rp b.a],
      unused := b.noMods ++ b.noB ++ b.noC ++ [fz 37 b.a 7 3, fz 0 b.variant 8 3] ++ (if mask then [] else [fz 45 b.d 7 3]),
      refused := pair && b.d.toNat % 2 != 0 }
  | .lred _ b =>
    { lat := 4 + 2 * c.w.log2, dst := [rb b.d], src := [rb b.a], use := [rb b.a],
      unused := b.noMods ++ b.noB ++ b.noC ++ [(0, decide (9 ≤ fld b.variant 3 0)), fz 0 b.variant 8 4] }
  | .prmt _ b =>
    { lat := 2, dst := [rb b.d], src := [rb b.a, rb b.b, rb b.c], unused := b.noMods ++ [mz 0 b.variant] }
  | .getsr _ b =>
    { lat := 2, dst := [rb b.d], unused := [mz 37 b.a, mz 0 b.variant],
      refused := !(b.imm.toNat ≤ 0x0A || b.imm == 0x10) }
  | .setsr _ b =>
    { lat := 2, src := [rb b.a], use := [rb b.a], unused := [mz 45 b.d, mz 0 b.variant], refused := b.imm != 0x10 }
  | .ld _ b => memForm b true [fz 0 b.variant 2 1] (b.order == 3 || (b.variant.getLsbD 0 && 2 ≤ b.size.toNat))
  | .st _ b => memForm b false [mz 0 b.variant] (b.order == 2)
  | .ldk _ b => capMemForm b true
  | .stk _ b => capMemForm b false
  | .lds _ b => memForm b true [fz 0 b.variant 2 1] (b.order == 3 || (b.variant.getLsbD 0 && 2 ≤ b.size.toNat))
  | .sts _ b => memForm b false [mz 0 b.variant] (b.order == 2)
  | .ldfe _ b => feForm b true true
  | .ldfeKeep _ b => feForm b true true
  | .stfe _ b => feForm b false true
  | .stfeForce _ b => feForm b false false
  | .fence _ b =>
    { varLat := true, refused := b.order == 0,
      unused := [mz 45 b.data, mz 41 b.k, mz 33 b.index, mz 31 b.iscale, mz 11 b.offset, mz 8 b.size, mz 0 b.variant,
        (3, 5 ≤ b.scope.toNat)] }
  | .flush _ b => flushForm b
  | .inval _ b => flushForm b
  | .pref _ b =>
    { varLat := true, src := [rk b.k, rb b.index], use := [rk b.k, rb b.index], access := some b,
      unused := [mz 45 b.data, mz 6 b.order, mz 3 b.scope, (0, 2 ≤ fld b.variant 1 0), fz 0 b.variant 2 2] ++ b.sizeForm,
      refused := b.size != 0 }
  | .atomAdd _ b => atomForm b false 1 false false false
  | .atomAddF32 _ b => atomForm b false 1 false false true
  | .atomMin _ b => atomForm b false 1 false true false
  | .atomMax _ b => atomForm b false 1 false true false
  | .atomAnd _ b => atomForm b false 1 false false false
  | .atomOr _ b => atomForm b false 1 false false false
  | .atomXor _ b => atomForm b false 1 false false false
  | .atomXchg _ b => atomForm b false 1 false false false
  | .atomCas _ b => atomForm b false 2 true false false
  | .atomIncw _ b => atomForm b false 1 false false false
  | .atomBfadd _ b => atomForm b false 2 true false false
  | .redAdd _ b => atomForm b true 1 false false false
  | .redAddF32 _ b => atomForm b true 1 false false true
  | .redMin _ b => atomForm b true 1 false true false
  | .redMax _ b => atomForm b true 1 false true false
  | .redAnd _ b => atomForm b true 1 false false false
  | .redOr _ b => atomForm b true 1 false false false
  | .redXor _ b => atomForm b true 1 false false false
  | .redIncw _ b => atomForm b true 1 false false false
  | .kaddr _ b => kread b
  | .kbase _ b => kread b
  | .klen _ b => kread b
  | .kperm _ b => kread0 b
  | .ktype _ b => kread0 b
  | .ktag _ b => { kread0 b with dst := [rp b.a], unused := (kread0 b).unused ++ [fz 33 b.a 7 3] }
  | .kseta _ b =>
    let f := kset b
    f
  | .kinc _ b =>
    let r := b.variant.getLsbD 2
    let s := [rk b.ka] ++ (if r then [rb b.a] else [])
    { lat := 2, cursor := true, dst := [rk b.kd], src := s, use := s,
      unused := [mz 41 b.kb, fz 0 b.variant 1 0, fz 0 b.variant 8 3] ++ (if r then [mz 9 b.imm] else [mz 33 b.a]) }
  | .kbnd _ b => kset b
  | .kbndx _ b => kset b
  | .kandp _ b =>
    { lat := 2, cursor := true, dst := [rk b.kd], src := [rk b.ka], use := [rk b.ka],
      unused := [mz 41 b.kb, mz 33 b.a, fz 9 b.imm 23 12, mz 0 b.variant] }
  | .kseal _ b => kplain b true true
  | .kunseal _ b => kplain b true true
  | .ksub _ b =>
    { kread b with src := [rk b.ka, rk b.kb], use := [rk b.ka, rk b.kb], unused := [mz 49 b.kd, mz 9 b.imm] ++ widthForm b }
  | .kclr _ b => kplain b false false
  | .kmov _ b => { kplain b true false with use := [] }
  | .kentry _ b => kplain b true false
  | .bar _ b =>
    let lvl := fld b.imm 6 4
    { varLat := true, dst := if fld b.variant 1 0 = 1 then [] else [.p (fld b.variant 4 2)],
      unused := [mz 45 b.d, mz 37 b.a, fz 5 b.imm 31 7, (9, 5 ≤ lvl), (0, fld b.variant 1 0 == 3)]
        ++ (if fld b.variant 1 0 = 1 then [fz 0 b.variant 4 2] else []),
      refused := (match lvl with | 0 => 16 | 1 => 8 | 2 => 8 | _ => 4) ≤ fld b.imm 3 0 }
  | .mwait _ b => mwaitForm b
  | .mwaitEq _ b => mwaitForm b
  | .lock _ b => lockForm b true
  | .unlock _ b => lockForm b false
  | .wreg _ b =>
    { varLat := true, dst := [rp b.variant], src := [rk b.ka, rb b.a], use := [rk b.ka, rb b.a],
      unused := [mz 49 b.kd, mz 41 b.kb, mz 9 b.imm, fz 0 b.variant 8 3] }
  | .wdereg _ b =>
    { varLat := true, src := [rk b.ka], use := [rk b.ka],
      unused := [mz 49 b.kd, mz 41 b.kb, mz 33 b.a, mz 9 b.imm, mz 0 b.variant] }
  | .whold _ b =>
    let clr := b.variant.getLsbD 0
    let s := [rk b.ka] ++ (if clr then [] else [rb b.a])
    { varLat := true, src := s, use := s,
      unused := [mz 49 b.kd, mz 41 b.kb, mz 9 b.imm, fz 0 b.variant 8 1] ++ (if clr then [mz 33 b.a] else []) }
  | .send _ b =>
    let s := [rk b.ek, rk b.kx0, rk b.kx1] ++ rrun b.v.toNat b.count.toNat
    { varLat := true, dst := [b.report], src := s, use := s,
      unused := b.countForm ++ [fz 20 b.flags 8 3], bad := b.rangeBad b.count.toNat }
  | .recv _ b =>
    { varLat := true, dst := [b.report, rk b.kx0, rk b.kx1] ++ rrun b.v.toNat (b.count.toNat + 1), src := [rk b.ek],
      use := [rk b.ek], unused := b.countForm ++ [fz 20 b.flags 8 3, mz 0 b.imm], bad := b.rangeBad (b.count.toNat + 1) }
  | .calle _ b =>
    { varLat := true, dst := [b.report, rk b.kx0, rk b.kx1] ++ rrun b.v.toNat (b.count.toNat + 1),
      src := [rk b.ek, rk b.kx0, rk b.kx1] ++ rrun b.v.toNat b.count.toNat,
      use := [rk b.ek, rk b.kx0, rk b.kx1] ++ rrun b.v.toNat b.count.toNat,
      unused := b.countForm ++ [fz 20 b.flags 8 3], bad := b.rangeBad (b.count.toNat + 1) }
  -- R184 asks REPLY and NSIG for a zero predicate in flags<2:0>: all of flags is one field there (DESIGN CHOICE, log 71)
  | .reply _ b =>
    { varLat := true, src := [rk b.kx0, rk b.kx1] ++ rrun b.v.toNat b.count.toNat, use := [rk b.kx0, rk b.kx1] ++ rrun b.v.toNat b.count.toNat,
      unused := b.countForm ++ [mz 49 b.ek, mz 20 b.flags, mz 0 b.imm], bad := b.rangeBad b.count.toNat }
  | .nsig _ b =>
    let s := [rk b.ek] ++ (if b.count = 1 then [rb b.v] else [])
    { varLat := true, src := s, use := s,
      unused := b.countForm ++ [mz 45 b.kx0, mz 41 b.kx1, mz 20 b.flags]
        ++ (if b.count = 1 then [mz 0 b.imm] else []) ++ (if b.count = 0 then [mz 33 b.v] else []),
      refused := 2 ≤ b.count.toNat, bad := b.rangeBad b.count.toNat }
  | .nwait _ b =>
    { varLat := true, dst := [b.report, rb b.v], src := [rk b.ek], use := [rk b.ek],
      unused := b.countForm ++ [mz 45 b.kx0, mz 41 b.kx1, fz 20 b.flags 8 3], refused := b.count != 1, bad := b.rangeBad 1 }
  | .yield _ b => { varLat := true, unused := b.allZero }
  | .gang _ b =>
    let n := countBits (fld b.imm 15 0) 16
    { varLat := true, unused := [mz 45 b.d, mz 37 b.a, fz 5 b.imm 31 18, mz 0 b.variant],
      refused := fld b.imm 17 16 == 0 || !(n == 0 || (2 ≤ n && n ≤ 6)) || 2 ^ c.ng ≤ fld b.imm 15 0 }
  | .tdef _ b =>
    { varLat := true, dst := [rt b.d], src := [rb b.a, rb b.b],
      unused := b.noMods ++ b.noC ++ [(0, decide (10 ≤ fld b.variant 3 0)), (4, decide (4 ≤ fld b.variant 7 4)),
        fz 0 b.variant 8 8] }
  | .tstat _ b =>
    { varLat := true, dst := [rb b.d], src := [rt b.a], unused := b.noMods ++ b.noB ++ b.noC ++ [mz 0 b.variant] }
  | .twait _ b =>
    { varLat := true, dst := [rp b.variant], src := [rt b.a],
      unused := b.noMods ++ [mz 45 b.d] ++ b.noB ++ b.noC ++ [fz 0 b.variant 8 4] }
  | .trel _ b =>
    { varLat := true, src := [rt b.a], unused := b.noMods ++ [mz 45 b.d] ++ b.noB ++ b.noC ++ [mz 0 b.variant] }
  | .copy _ b =>
    let op := b.op.toNat
    { varLat := true, src := [rk b.tk] ++ (if op = 2 then [] else [rt b.ta]), use := [rk b.tk],
      late := rrun (fld b.acc 7 0) 4,
      unused := b.gangForm ++ [fz 41 b.acc 8 8, mz 25 b.tb, mz 17 b.fmt, (12, 3 ≤ op), fz 0 b.flags 11 3]
        ++ (if op = 2 then [mz 33 b.ta] else [fz 0 b.flags 2 0]),
      refused := op == 2 && 5 ≤ fld b.flags 2 0 }
  | .copym _ b =>
    { varLat := true, src := [rk b.tk, rt b.ta], use := [rk b.tk], late := rrun (fld b.acc 7 0) 5,
      unused := b.gangForm ++ [fz 41 b.acc 8 8, mz 25 b.tb, mz 17 b.fmt, mz 12 b.op, fz 0 b.flags 11 4] }
  | .mma _ b =>
    let viaAcc := b.op.getLsbD 0
    { varLat := true, dst := [racc b.acc],
      src := (if viaAcc then [.acc (fld b.flags 8 8 * 256 + b.ta.toNat), rk b.tk] else [rt b.ta]) ++ [rt b.tb],
      use := if viaAcc then [rk b.tk] else [],
      unused := b.gangForm ++ b.fmtForm ++ [fz 12 b.op 4 1, fz 0 b.flags 11 9]
        ++ (if viaAcc then [] else [mz 21 b.tk, fz 0 b.flags 8 8]),
      refused := !(1 ≤ b.fmt.toNat && b.fmt.toNat ≤ 4) || (viaAcc && b.fmt == 1) }
  | .mmak _ b =>
    { varLat := true, dst := [racc b.acc], src := [rt b.ta, rt b.tb, rk b.tk], use := [rk b.tk],
      unused := b.gangForm ++ b.fmtForm ++ [mz 12 b.op, fz 0 b.flags 11 8], refused := !(b.fmt == 3 || b.fmt == 4) }
  | .scacc _ b =>
    { varLat := true, dst := [racc b.acc], src := [.acc (fld b.flags 8 0), rt b.ta, rt b.tb],
      unused := b.gangForm ++ b.fmtForm ++ [mz 21 b.tk, mz 12 b.op, fz 0 b.flags 11 9], refused := b.fmt != 2 }
  | .aclr _ b =>
    { varLat := true, dst := [racc b.acc],
      unused := b.gangForm ++ [mz 33 b.ta, mz 25 b.tb, mz 21 b.tk, mz 17 b.fmt, mz 12 b.op, mz 0 b.flags] }
  | .ainit _ b =>
    { varLat := true, dst := [racc b.acc], src := [rt b.ta],
      unused := b.gangForm ++ b.fmtForm ++ [mz 25 b.tb, mz 21 b.tk, mz 12 b.op, mz 0 b.flags], refused := b.fmt == 9 }
  | .adrain _ b =>
    let mem := b.op.getLsbD 0
    let add := b.flags.getLsbD 1
    { varLat := true, dst := if mem then [] else [rt b.ta],
      src := [racc b.acc] ++ (if b.flags.getLsbD 0 then [rt b.tb] else []) ++ (if mem then [rk b.tk] else []),
      use := if mem then [rk b.tk] else [], late := if mem then rrun b.ta.toNat 3 else [],
      unused := b.gangForm ++ b.fmtForm ++ [fz 12 b.op 4 1, fz 0 b.flags 11 5]
        ++ (if b.flags.getLsbD 0 then [] else [mz 25 b.tb]) ++ (if mem then [] else [mz 21 b.tk, fz 0 b.flags 4 2]),
      refused := b.fmt == 9 || (add && (!mem || !(b.fmt == 0 || b.fmt == 2 || b.fmt == 7))) || 5 ≤ fld b.flags 4 2 }
  | .pcancel _ b => { varLat := true, unused := b.allZero }
  | .prepeat _ b => { varLat := true, unused := b.allZero }
  | .launch _ b =>
    { varLat := true, src := [rk b.ka, rk b.kb], use := [rk b.ka, rk b.kb],
      unused := [mz 49 b.kd, mz 33 b.a, mz 9 b.imm, mz 0 b.variant] }
  | .pclaim _ b =>
    let async := b.variant.getLsbD 0
    { varLat := true, dst := if async then [] else rrun b.data.toNat 5,
      src := rk b.k :: if async then [.k (b.data.toNat % 16)] else [],
      unused := b.schedForm ++ [fz 0 b.variant 2 1] ++ (if async then [fz 45 b.data 7 4] else [mz 11 b.offset]),
      bad := if async then [] else b.parcelBad }
  | .pdone _ b =>
    { varLat := true, src := rk b.k :: rrun b.data.toNat 5, unused := b.schedForm ++ [mz 0 b.variant, mz 11 b.offset],
      bad := b.parcelBad }
  | .schrd _ b => { varLat := true, dst := [rb b.a], src := [rk b.ka], unused := b.schedForm 4 }
  | .schwr _ b => { varLat := true, src := [rk b.ka, rb b.a], unused := b.schedForm 4 }
  | .covrd _ b => { varLat := true, dst := [rb b.a], src := [rk b.ka], unused := b.schedForm 16 }
  | .spawn _ b =>
    let w := fld b.variant 2 0
    let s := [rk b.ka] ++ (if w = 0 then [] else [rk b.kb]) ++ rrun b.a.toNat 2
    { varLat := true, src := s, use := s, unused := [mz 49 b.kd, mz 9 b.imm, fz 0 b.variant 8 3],
      refused := 5 ≤ w || (w == 0 && b.kb != 0), bad := [(b.a.toNat % 2 != 0, .byte b.a.toNat)] }
  | .reggive _ b => budgetForm b
  | .regclaim _ b => budgetForm b
  | .pdim _ b =>
    { varLat := true, src := [rb b.a], use := [rb b.a], unused := [mz 45 b.d, fz 5 b.imm 31 2, mz 0 b.variant] }
  | .unassignedOpcode op _ body =>
    match refusedRed op with
    | some run => { atomForm (.ofWord (body.zeroExtend 80)) true run false false false with refused := true }
    | none => { unassigned := true }
  | _ => {}

/-- The first register out of the launch's allocation (R47): the fault. -/
def rangeFault (c : FormCtx) (rs : List Reg) : Option FaultInfo :=
  (rs.find? fun r => match r with
    | .byte n => n < 0xC0 && c.nv ≤ n
    | .k n => c.nk ≤ n
    | .p _ => false
    | .t n => c.nt ≤ n
    | .acc n => c.nacc ≤ n
    | .bound => false).map fun r =>
    match r with
    | .acc n => .of 0x32 n c.nacc
    | .k _ => .of 0x04 r.ident c.nk
    | .t _ => .of 0x04 r.ident c.nt
    | _ => .of 0x04 r.ident c.nv

/-- Least bit of the broken unused fields (step 4). -/
def leastBroken : List (Nat × Bool) → Option Nat
  | [] => none
  | (n, bad) :: r =>
    match bad, leastBroken r with
    | false, o => o
    | true, none => some n
    | true, some m => some (min n m)

/-- Steps 1 to 6 of R171 on a form. -/
def Form.fault (f : Form) (c : FormCtx) (h : Head) : Option FaultInfo :=
  if f.unassigned then some (illegalOp 0x10)
  else if h.talloc = 7 ∨ (h.talloc ≠ 0 ∧ f.varLat = false) then some (illegalOp 0x11)
  else if f.transfer && !c.lastSlot then some (illegalOp 0x12)
  else match leastBroken f.unused with
    | some n => some (reservedBits n)
    | none =>
      if f.refused then some (illegalOp 0x13)
      else match f.bad.find? (fun x => x.1) with
        | some (_, r) => some (.of 0x04 r.ident c.nv)
        | none => rangeFault c (f.dst ++ f.src)

end Sys2Proof
end

