-- ==== Sys2Proof/Machine/Caps.lean ====
section
/-! DEFINITION. Capabilities: layout, decoding of bounds, the representable window, encoding of bounds
(spec/02 R51-R60) and the derivations and checks of the seventeen capability instructions (spec/10 R249-R256), which the
harts share (spec/18 R373). -/

namespace Sys2Proof.Machine

/-- The 128 bits of a capability (Table 2.4). -/
def Cap.bits (c : Cap) : QWord := c.perms ++ c.otype ++ c.e ++ c.b ++ c.t ++ c.cursor
/-- A capability from 128 bits and a tag. -/
def Cap.ofBits (tag : Bool) (w : QWord) : Cap :=
  ⟨tag, w.extractLsb' 116 12, w.extractLsb' 98 18, w.extractLsb' 92 6, w.extractLsb' 78 14, w.extractLsb' 64 14,
    w.extractLsb' 0 64⟩

/-- Permission by its bit number 116-127 (Table 2.5). -/
def Cap.has (c : Cap) (bit : Nat) : Bool := c.perms.getLsbD (bit - 116)
def pGLOBAL : Nat := 127
def pEXEC : Nat := 126
def pLOAD : Nat := 125
def pSTORE : Nat := 124
def pLOADK : Nat := 123
def pSTOREK : Nat := 122
def pSTORELOCAL : Nat := 121
def pSEAL : Nat := 120
def pUNSEAL : Nat := 119
def pINVOKE : Nat := 118
def pSYSTEM : Nat := 117
def pTRANSFER : Nat := 116

/-- An otype of 0x2_0000 or more is remote (Table 2.6). -/
def Cap.remote (c : Cap) : Bool := c.otype.getLsbD 17

/-- Bounds from E, B, T and the cursor (R58); none when malformed. -/
def decodeBounds (e b t c : Nat) : Option (Nat × Nat) :=
  if 50 < e then none
  else
    let base : Int := if e = 50 then (b : Int) * 2 ^ 50 else
      let a : Nat := (c >>> e) % 2 ^ 14
      let ref : Nat := (b + (2 ^ 14 - 2 ^ 12)) % 2 ^ 14
      let cb : Int := (if b < ref then 1 else 0) - (if a < ref then 1 else 0)
      (((c >>> (e + 14) : Nat) : Int) + cb) * 2 ^ (e + 14) + (b : Int) * 2 ^ e
    let top : Int := if e = 50 then (t : Int) * 2 ^ 50 + (if b < t then 0 else 2 ^ 64) else
      let a : Nat := (c >>> e) % 2 ^ 14
      let ref : Nat := (b + (2 ^ 14 - 2 ^ 12)) % 2 ^ 14
      let ct : Int := (if t < ref then 1 else 0) - (if a < ref then 1 else 0)
      (((c >>> (e + 14) : Nat) : Int) + ct) * 2 ^ (e + 14) + (t : Int) * 2 ^ e
    if base < 0 ∨ 2 ^ 64 < top ∨ top < base then none else some (base.toNat, top.toNat)

/-- The bounds of a capability that is not remote. -/
def Cap.bounds (c : Cap) : Option (Nat × Nat) := decodeBounds c.e.toNat c.b.toNat c.t.toNat c.cursor.toNat

/-- Malformed (R52, R57, R58). -/
def Cap.malformed (c : Cap) : Bool :=
  if c.remote then 288 ≤ (c.otype.extractLsb' 0 9).toNat || c.otype.extractLsb' 9 8 != 0 else c.bounds.isNone

/-- Tagged and not malformed: what every test of the tag asks (R52). -/
def Cap.valid (c : Cap) : Bool := c.tag && !c.malformed

def Cap.base (c : Cap) : Nat := match c.bounds with | some (b, _) => b | none => 0
def Cap.top (c : Cap) : Nat := match c.bounds with | some (_, t) => t | none => 0

/-- The representable window of R59 holds x. -/
def Cap.inWindow (c : Cap) (x : Int) : Bool :=
  if x < 0 ∨ 2 ^ 64 ≤ x then false
  else if c.e = 50 then true
  else
    let e := c.e.toNat
    let cur := c.cursor.toNat
    let a : Nat := (cur >>> e) % 2 ^ 14
    let ref : Nat := (c.b.toNat + (2 ^ 14 - 2 ^ 12)) % 2 ^ 14
    let wlo : Int := (((cur >>> (e + 14) : Nat) : Int) - (if a < ref then 1 else 0)) * 2 ^ (e + 14) + (ref : Int) * 2 ^ e
    decide (wlo ≤ x) && decide (x < wlo + ((2 ^ (e + 14) : Nat) : Int))

/-- A cursor change (R59, R252): out of the window, or on a sealed capability, the tag is cleared. -/
def Cap.withCursor (c : Cap) (x : Int) : Cap :=
  { c with cursor := BitVec.ofInt 64 x, tag := c.tag && c.otype == 0 && c.inWindow x }

/-- A cursor change of pcc or of a saved code capability (R59): the window alone decides. -/
def Cap.moveTo (c : Cap) (x : Int) : Cap := { c with cursor := BitVec.ofInt 64 x, tag := c.tag && c.inWindow x }

/-- pcc at an address that its thread reaches without a transfer: it keeps its cursor where the address lies outside the
window, so that entry, and each repetition of it, finds the address outside the same bounds (DESIGN CHOICE, log 81). -/
def Cap.follow (c : Cap) (pc : DWord) : Cap := if c.inWindow pc.toNat then { c with cursor := pc } else c

/-- The least exponent that R60 accepts, searched from `e` with `fuel` steps left. -/
def encodeExp (lo hi : Nat) : Nat → Nat → Nat
  | 0, e => e
  | fuel + 1, e =>
    let l := (lo >>> e) <<< e
    let h := ((hi + 2 ^ e - 1) >>> e) <<< e
    if h - l ≤ 2 ^ (e + 12) then e else encodeExp lo hi fuel (e + 1)

/-- encode of R60: (lo, hi, E, B, T, exact). -/
def encodeBounds (loReq topReq : Nat) : Nat × Nat × BitVec 6 × BitVec 14 × BitVec 14 × Bool :=
  let e := encodeExp loReq topReq 50 0
  let lo := (loReq >>> e) <<< e
  let hi := ((topReq + 2 ^ e - 1) >>> e) <<< e
  (lo, hi, BitVec.ofNat 6 e, BitVec.ofNat 14 (lo >>> e), BitVec.ofNat 14 (hi >>> e), lo == loReq && hi == topReq)

/-- A capability fault: the detail, and whether the register at fault is the second operand (R232, R255). -/
structure CapFault where
  code : BitVec 8
  detail : Nat
  second : Bool
  deriving DecidableEq, Repr

def cRESERVED : BitVec 8 := 0x02
def cBADTARGET : BitVec 8 := 0x03
def cTAG : BitVec 8 := 0x10
def cBOUNDS : BitVec 8 := 0x11
def cPERM : BitVec 8 := 0x12
def cSEALED : BitVec 8 := 0x13
def cOTYPE : BitVec 8 := 0x14
def cALIGN : BitVec 8 := 0x16
def cXLATE : BitVec 8 := 0x20
def cXPERM : BitVec 8 := 0x21
def cCAPSTORE : BitVec 8 := 0x22
def cTILESTATE : BitVec 8 := 0x30
def cSWIZZLE : BitVec 8 := 0x31
def cACCRANGE : BitVec 8 := 0x32
def cDRAIN : BitVec 8 := 0x33
def cDEADLOCK : BitVec 8 := 0x40
def cPOISON : BitVec 8 := 0x41
def cENDPOINT : BitVec 8 := 0x50
def cTEARDOWN : BitVec 8 := 0x70

/-- KINC (R252). -/
def capInc (c : Cap) (d : Int) : Cap := c.withCursor ((c.cursor.toNat : Int) + d)

/-- KBND (R253). -/
def capBnd (c : Cap) (len : Nat) : Cap :=
  let lo := c.cursor.toNat
  let topReq := lo + len
  let (l, h, e, b, t, _) := encodeBounds lo (min topReq (2 ^ 64))
  let inside := decide (topReq ≤ 2 ^ 64) && decide (c.base ≤ l) && decide (h ≤ c.top)
  { c with e := e, b := b, t := t, tag := c.valid && c.otype == 0 && inside }

/-- KBNDX (R253). -/
def capBndx (c : Cap) (len : Nat) : Except CapFault Cap :=
  let lo := c.cursor.toNat
  let topReq := lo + len
  if !c.valid then .error ⟨cTAG, 0, false⟩
  else if c.otype ≠ 0 then .error ⟨cSEALED, 0, false⟩
  else if 2 ^ 64 < topReq ∨ lo < c.base ∨ c.top < topReq then .error ⟨cBOUNDS, 0, false⟩
  else
    let (_, _, e, b, t, exact) := encodeBounds lo topReq
    if !exact then .error ⟨cBOUNDS, 1, false⟩ else .ok { c with e := e, b := b, t := t }

/-- KANDP (R254). -/
def capAndp (c : Cap) (mask : BitVec 12) : Cap := { c with perms := c.perms &&& mask, tag := c.tag && c.otype == 0 }

/-- The checks that KSEAL and KUNSEAL share (R255). -/
def sealPrefix (a b : Cap) : Option CapFault :=
  if !a.valid then some ⟨cTAG, 0, false⟩
  else if !b.valid then some ⟨cTAG, 1, true⟩
  else if b.otype ≠ 0 then some ⟨cSEALED, 1, true⟩
  else none

/-- KSEAL (R255). -/
def capSeal (a b : Cap) : Except CapFault Cap :=
  let t := b.cursor.toNat
  match sealPrefix a b with
  | some f => .error f
  | none =>
    if a.otype ≠ 0 then .error ⟨cSEALED, 0, false⟩
    else if !b.has pSEAL then .error ⟨cPERM, 120, true⟩
    else if t < b.base ∨ b.top ≤ t then .error ⟨cBOUNDS, 0, true⟩
    else if t < 64 ∨ 0x1FFFF < t then .error ⟨cOTYPE, t % 2 ^ 18, true⟩
    else .ok { a with otype := BitVec.ofNat 18 t }

/-- KUNSEAL (R255). -/
def capUnseal (a b : Cap) : Except CapFault Cap :=
  let t := b.cursor.toNat
  let ot := a.otype.toNat
  match sealPrefix a b with
  | some f => .error f
  | none =>
    if ot < 64 ∨ 0x1FFFF < ot then .error ⟨cOTYPE, ot, false⟩
    else if !b.has pUNSEAL then .error ⟨cPERM, 119, true⟩
    else if t < b.base ∨ b.top ≤ t then .error ⟨cBOUNDS, 0, true⟩
    else if ot ≠ t then .error ⟨cOTYPE, ot, false⟩
    else .ok { a with otype := 0, perms := if b.has pGLOBAL then a.perms else a.perms &&& 0x7FF }

/-- KENTRY (R256). -/
def capEntry (a : Cap) : Except CapFault Cap :=
  if !a.valid then .error ⟨cTAG, 0, false⟩
  else if a.otype ≠ 0 then .error ⟨cSEALED, 0, false⟩
  else if !a.has pEXEC then .error ⟨cPERM, 126, false⟩
  else .ok { a with otype := 1 }

/-- target of R191: the new code capability of a branch through a capability. -/
def capTarget (k : Cap) : Except CapFault Cap :=
  if !k.valid then .error ⟨cTAG, 0, false⟩
  else if k.otype ≠ 0 ∧ k.otype ≠ 1 then .error ⟨cSEALED, 0, false⟩
  else if !k.has pEXEC then .error ⟨cPERM, 126, false⟩
  else .ok { k with otype := 0 }

/-- KBASE and KLEN (R251): a remote or malformed capability reads zero. -/
def capBaseRead (c : Cap) : Nat := if c.remote then 0 else c.base
def capLenRead (c : Cap) : Nat := if c.remote then 0 else min (c.top - c.base) (2 ^ 64 - 1)

/-- The fault message of a capability fault on k-registers a and b (R232). -/
def CapFault.info (f : CapFault) (ra rb : Nat) (a b : Cap) : FaultInfo :=
  .of f.code (if f.second then rb else ra) f.detail (if f.second then b.cursor else a.cursor)

/-- Narrows a capability to [lo, lo + len) with its cursor at lo and the given permissions kept (R67). -/
def Cap.narrowTo (c : Cap) (lo len : Nat) (perms : BitVec 12) : Cap :=
  let (_, _, e, b, t, _) := encodeBounds lo (lo + len)
  { c with e := e, b := b, t := t, cursor := BitVec.ofNat 64 lo, perms := c.perms &&& perms }

/-- A fresh capability that the device makes (R55). -/
def Cap.make (lo len : Nat) (perms : BitVec 12) (otype : BitVec 18) : Cap :=
  let (_, _, e, b, t, _) := encodeBounds lo (lo + len)
  ⟨true, perms, otype, e, b, t, BitVec.ofNat 64 lo⟩

/-- The permission set of a list of bits. -/
def permSet (bits : List Nat) : BitVec 12 :=
  bits.foldl (fun acc n => acc ||| ((1 : BitVec 12) <<< (n - 116))) 0

end Sys2Proof.Machine
end

