-- ==== Sys2Proof/Machine/Ops.lean ====
section
/-! DEFINITION. Named operations over the parts of the state: looking a part up, putting it back, registers of a thread,
landing of register writes, clocks, thread identities (spec/02 R46-R51, spec/06 R154-R162, spec/11 R259). -/

namespace Sys2Proof.Machine

/-- Puts `a` before the first element it may precede. -/
def insertBy {α : Type} (le : α → α → Bool) (a : α) : List α → List α
  | [] => [a]
  | x :: l => if le a x then a :: x :: l else x :: insertBy le a l
/-- Sorts, keeping the order of equals. -/
def sortBy {α : Type} (le : α → α → Bool) (l : List α) : List α := l.foldr (insertBy le) []

/-- Replaces by key. -/
def putBy {α : Type} (key : α → Nat) (a : α) (l : List α) : List α := l.map fun x => if key x = key a then a else x

def State.wg? (s : State) (id : Nat) : Option Workgroup := s.wgs.find? fun w => w.id == id
def State.setWg (s : State) (w : Workgroup) : State := { s with wgs := putBy Workgroup.id w s.wgs }
def State.req? (s : State) (id : Nat) : Option Request := s.reqs.find? fun r => r.id == id
def State.setReq (s : State) (r : Request) : State := { s with reqs := putBy Request.id r s.reqs }
def State.dropReq (s : State) (id : Nat) : State := { s with reqs := s.reqs.filter fun r => r.id != id }
def State.op? (s : State) (id : Nat) : Option EngineOp := s.ops.find? fun o => o.id == id
def State.setOp (s : State) (o : EngineOp) : State := { s with ops := putBy EngineOp.id o s.ops }
def State.dropOp (s : State) (id : Nat) : State := { s with ops := s.ops.filter fun o => o.id != id }
def State.launch? (s : State) (id : Nat) : Option Launch := s.launches.find? fun l => l.id == id
def State.setLaunch (s : State) (l : Launch) : State := { s with launches := putBy Launch.id l s.launches }
def State.core? (s : State) (id : Nat) : Option Core := s.cores.find? fun c => c.id == id
def State.queue? (s : State) (pa : Nat) : Option QueueState := s.queues.find? fun q => q.pa == pa
def State.setQueue (s : State) (q : QueueState) : State := { s with queues := putBy QueueState.pa q s.queues }
def State.wait? (s : State) (id : Nat) : Option WaitEntry := s.waits.find? fun e => e.id == id
def State.setWait (s : State) (e : WaitEntry) : State := { s with waits := putBy WaitEntry.id e s.waits }

/-- A core that nothing has used yet. -/
def Core.fresh (id : Nat) : Core := ⟨id, 0, 0, 0, 0, 0, none, false, [], none, false⟩
/-- A core's issue state; cores are listed when first used. -/
def State.core (s : State) (id : Nat) : Core := (s.core? id).getD (Core.fresh id)
def State.setCore (s : State) (c : Core) : State :=
  { s with cores := if (s.core? c.id).isSome then putBy Core.id c s.cores else s.cores ++ [c] }

/-- EXPORT or IMPORT runs: the Halls hold every request and place nothing on a core (R468). -/
def State.frozen (s : State) : Bool := s.th.quiescent && (s.th.cmd.toNat == 0x12 || s.th.cmd.toNat == 0x13)
/-- A die's Hall runs: a fenced die is fenced whole (R470). -/
def State.hallRuns (s : State) (die : Nat) : Bool := !s.th.fencedDies.contains die
def State.hall (s : State) (d : Nat) : Hall := s.halls.getD d .reset
def State.setHall (s : State) (d : Nat) (h : Hall) : State := { s with halls := s.halls.set d h }
/-- Hart n, under its number. -/
def State.hart? (s : State) (n : Nat) : Option Hart := (s.harts[n]?).map fun h => { h with id := n }
def State.setHart (s : State) (h : Hart) : State := { s with harts := s.harts.set h.id h }

/-- A free value: nothing constrains it (log 3). -/
def State.fresh (s : State) : BitVec 64 × State := (Config.freeWord s.freeCtr, { s with freeCtr := s.freeCtr + 1 })
/-- A new name. -/
def State.newId (s : State) : Nat × State := (s.nextId, { s with nextId := s.nextId + 1 })

/-- Clock of a bank of a core: it runs while the bank is active (R34). -/
def Core.clock (c : Core) (bank : Nat) : Nat := if bank = 0 then c.clock0 else c.clock1
def Core.setClock (c : Core) (bank t : Nat) : Core := if bank = 0 then { c with clock0 := t } else { c with clock1 := t }
def State.clockOf (s : State) (w : Workgroup) : Nat := (s.core w.core).clock w.bank
def State.setClock (s : State) (core bank t : Nat) : State := s.setCore ((s.core core).setClock bank t)

/-- Array die of a package core index (R4). A prologue's pseudo-core 1024 + d lies on die d (log 2). -/
def dieOfCore (core : Nat) : Nat := if 1024 ≤ core then core - 1024 else core / 256

/-! Registers. -/

def Workgroup.thread? (w : Workgroup) (tid : Nat) : Option Thread := w.threads[tid]?
def Workgroup.modThread (w : Workgroup) (tid : Nat) (f : Thread → Thread) : Workgroup :=
  match w.thread? tid with
  | some t => { w with threads := w.threads.set tid (f t) }
  | none => w
def Workgroup.group? (w : Workgroup) (id : Nat) : Option Group := w.groups.find? fun g => g.id == id
def Workgroup.setGroup (w : Workgroup) (g : Group) : Workgroup := { w with groups := putBy Group.id g w.groups }
def Workgroup.dropGroup (w : Workgroup) (id : Nat) : Workgroup := { w with groups := w.groups.filter fun g => g.id != id }

/-- A register byte as a thread reads it (R143): v below 0xC0, then s; s63 reads zero. -/
def Workgroup.reg (w : Workgroup) (tid n : Nat) : VReg :=
  if n < 0xC0 then
    match w.thread? tid with
    | some t => t.v.getD n ⟨0, false⟩
    | none => ⟨0, false⟩
  else if n = 0xFF then ⟨0, false⟩
  else w.s.getD (n - 0xC0) ⟨0, false⟩
/-- k0 reads null (R46). -/
def Workgroup.kreg (w : Workgroup) (tid n : Nat) : KReg :=
  if n = 0 then ⟨.null, false⟩
  else match w.thread? tid with
    | some t => t.k.getD n ⟨.null, false⟩
    | none => ⟨.null, false⟩
/-- p7 reads true (R46). -/
def Workgroup.preg (w : Workgroup) (tid n : Nat) : Bool :=
  if n = 7 then true
  else match w.thread? tid with
    | some t => t.p.getLsbD n
    | none => false
def Workgroup.pPoisoned (w : Workgroup) (tid n : Nat) : Bool :=
  n != 7 && (match w.thread? tid with | some t => t.pPoison.getLsbD n | none => false)

/-- Bit n of a byte set to b. -/
def setBit8 (x : BitVec 8) (n : Nat) (b : Bool) : BitVec 8 :=
  let m : BitVec 8 := (1 : BitVec 8) <<< n
  if b then x ||| m else x &&& ~~~m
def setBit6 (x : BitVec 6) (n : Nat) (b : Bool) : BitVec 6 :=
  let m : BitVec 6 := (1 : BitVec 6) <<< n
  if b then x ||| m else x &&& ~~~m

/-- A destination that discards what is written to it (R46): k0, p7 and s63, by their scoreboard numbers. -/
def discards (ident : Nat) : Bool := ident == 0x100 || ident == 0x117 || ident == 0xFF

/-- A register write happens: k0, p7 and s63 discard it (R46). -/
def Workgroup.land (w : Workgroup) : Wr → Workgroup
  | .v tid n x po => w.modThread tid fun t => { t with v := t.v.set n ⟨x, po⟩ }
  | .s n x po => if n = 63 then w else { w with s := w.s.set n ⟨x, po⟩ }
  | .k tid n c po => if n = 0 then w else w.modThread tid fun t => { t with k := t.k.set n ⟨c, po⟩ }
  | .p tid n b =>
    if n = 7 then w
    else w.modThread tid fun t => { t with p := setBit8 t.p n b, pPoison := setBit8 t.pPoison n false }
  | .flags f => { w with fpflags := w.fpflags ||| f }

/-- A write to the register byte n of a thread. -/
def wrByte (tid n : Nat) (x : Word) (poison : Bool := false) : Wr :=
  if n < 0xC0 then .v tid n x poison else .s (n - 0xC0) x poison
/-- A 64-bit value into a pair, low half in the even register (R233). -/
def wrPair (tid n : Nat) (x : DWord) (poison : Bool := false) : List Wr :=
  [wrByte tid n (x.extractLsb' 0 32) poison, wrByte tid (n + 1) (x.extractLsb' 32 32) poison]

/-- Whether two writes go to one register (R156). -/
def Wr.same : Wr → Wr → Bool
  | .v t n _ _, .v t' n' _ _ => t == t' && n == n'
  | .s n _ _, .s n' _ _ => n == n'
  | .k t n _ _, .k t' n' _ _ => t == t' && n == n'
  | .p t n _, .p t' n' _ => t == t' && n == n'
  | _, _ => false

/-- Pending fixed-latency results due by time t land (R154). -/
def Workgroup.settle (w : Workgroup) (t : Nat) : Workgroup :=
  let due := w.pend.filter fun p => p.due ≤ t
  { due.foldl (fun w p => w.land p.wr) w with pend := w.pend.filter fun p => t < p.due }

/-- Raised flags, on their way. -/
def Wr.isFlags : Wr → Bool
  | .flags _ => true
  | _ => false
/-- The pending results due by time t land, but for the flags of t itself, which are ORed in after a SETSR of that ac (R80). -/
def Workgroup.settleAt (w : Workgroup) (t : Nat) : Workgroup :=
  let now (p : PendWrite) : Bool := decide (p.due ≤ t) && !(p.wr.isFlags && p.due == t)
  { (w.pend.filter now).foldl (fun w p => w.land p.wr) w with pend := w.pend.filter fun p => !now p }

/-- When all pending results of the threads have been written (R29, R139): the latest due time, at least t. -/
def Workgroup.quiet (w : Workgroup) (tids : List Nat) (t : Nat) : Nat :=
  w.pend.foldl (fun acc p =>
    match p.wr with
    | .v tid _ _ _ => if tids.contains tid then max acc p.due else acc
    | .k tid _ _ _ => if tids.contains tid then max acc p.due else acc
    | .p tid _ _ => if tids.contains tid then max acc p.due else acc
    | .s _ _ _ => max acc p.due
    | .flags _ => acc) t

/-- When a result that could land at `due` lands: not before an older one to the same register (R156, R49). -/
def Workgroup.dueFor (w : Workgroup) (due : Nat) (wr : Wr) : Nat :=
  w.pend.foldl (fun acc p => if p.wr.same wr then max acc p.due else acc) due

/-- Adds a fixed-latency result: due after an older one to the same register (R156, R49). -/
def Workgroup.addPend (w : Workgroup) (due : Nat) (wr : Wr) (tids : List Nat := []) (grp : Nat := 0) : Workgroup :=
  { w with pend := w.pend ++ [⟨w.dueFor due wr, wr, tids, grp⟩] }

/-- When the results of one lane land, flags with them (R80): as the latest of its register writes. -/
def Workgroup.laneDue (w : Workgroup) (due : Nat) (ws : List Wr) : Nat := ws.foldl (fun acc x => max acc (w.dueFor due x)) due

/-- The results of the lane of thread `tid` of those that the threads `tids` of group `grp` make: to an s-register only the
lowest lane's are made (R49), and its flags reach fpflags when its register write lands (R80). -/
def Workgroup.addLane (w : Workgroup) (due : Nat) (tids : List Nat) (tid grp : Nat) (lowest : Bool) (ws : List Wr) : Workgroup :=
  let late := w.laneDue due ws
  ws.foldl (fun w x => match x with
    | .flags _ => w.addPend late x [tid] grp
    | .s .. => if lowest then w.addPend due x tids grp else w
    | _ => w.addPend due x [] grp) w

/-- Live: neither ended nor terminated (R27). -/
def Thread.live (t : Thread) : Bool := t.status != .ended
def Workgroup.liveOf (w : Workgroup) (home : Nat) : List Thread :=
  w.threads.filter fun t => t.live && t.tid / w.w == home
def Workgroup.anyLive (w : Workgroup) : Bool := w.threads.any Thread.live
def Workgroup.role (w : Workgroup) (home : Nat) : Nat := (w.roles.toNat >>> (4 * home)) % 16

/-! Identities (Table 11.2). -/

def threadIdentity (w : Workgroup) (tid : Nat) : Word :=
  BitVec.ofNat 32 (0x80000000 + dieOfCore w.core % 4 * 2 ^ 28 + w.core % 256 * 2 ^ 20 + w.bank % 2 * 2 ^ 19
    + w.slot % 64 * 2 ^ 13 + tid % 512)
def hartIdentity (n : Nat) : Word := BitVec.ofNat 32 (0xC0000000 + n % 32)

def State.identity (s : State) : Party → Word
  | .thread wg tid => match s.wg? wg with | some w => threadIdentity w tid | none => 0
  | .hart n => hartIdentity n
  | .hartSlot n _ => hartIdentity n
  | .engine op =>
    match s.op? op with
    | some o => match s.wg? o.wg with | some w => threadIdentity w o.lead | none => 0
    | none => 0
  | .hall _ => 0
  | .remote _ _ => 0

/-- The live thread or hart that an identity names (R259). -/
def State.partyOf (s : State) (x : Word) : Option Party :=
  if !x.getLsbD 31 then none
  else if x.getLsbD 30 then
    let n := x.toNat % 32
    if (x.extractLsb' 5 25 == 0) && n < s.harts.length then some (.hart n) else none
  else if x.extractLsb' 9 4 != 0 then none
  else
    let core := (x.toNat / 2 ^ 28 % 4) * 256 + x.toNat / 2 ^ 20 % 256
    (s.wgs.find? fun w => w.core == core && w.bank == x.toNat / 2 ^ 19 % 2 && w.slot == x.toNat / 2 ^ 13 % 64
        && w.life != .retired && !w.prologue).bind fun w =>
      match w.thread? (x.toNat % 512) with
      | some t => if t.live then some (.thread w.id t.tid) else none
      | none => none

/-- A party that still lives. -/
def State.alive (s : State) : Party → Bool
  | .thread wg tid =>
    match s.wg? wg with
    | some w => (match w.thread? tid with | some t => t.live | none => false) && w.life != .retired
    | none => false
  | .hart n => n < s.harts.length
  | .hartSlot n _ => n < s.harts.length
  | .engine op => (s.op? op).isSome
  | .hall _ => true
  | .remote _ _ => true

/-- The step changes nothing further. -/
def done (s : State) : Host.Outcome State Fault Refusal := .next s

end Sys2Proof.Machine
end

