-- ==== Sys2Proof/Machine/Mem.lean ====
section
/-! DEFINITION. Memory: the canonical list of bytes, sorted sets of locations, the physical map (spec/04 R91, Table 4.1),
tags, summary bits, full/empty bits and poison (spec/02 R61-R66, R127-R129, spec/10 R239), and the dies' copies of
remote-home lines (spec/04 R97-R101). -/

namespace Sys2Proof.Machine

/-- What an address reads as that no write has listed (log 1). -/
def blankByte : Byte := 0

def readByte : List Host.Cell → Nat → Byte
  | [], _ => blankByte
  | (b, x) :: r, a => if a = b then x else if a < b then blankByte else readByte r a

/-- A write keeps the list rising and lists no blank byte. -/
def writeByte : List Host.Cell → Nat → Byte → List Host.Cell
  | [], a, x => if x = blankByte then [] else [(a, x)]
  | (b, y) :: r, a, x =>
    if a < b then (if x = blankByte then (b, y) :: r else (a, x) :: (b, y) :: r)
    else if a = b then (if x = blankByte then r else (a, x) :: r)
    else (b, y) :: writeByte r a x

/-- The canonical form: addresses strictly rising from `lo`, no blank byte listed. -/
def Memory.wfFrom : Nat → List Host.Cell → Bool
  | _, [] => true
  | lo, (a, x) :: r => decide (lo ≤ a) && (x != blankByte) && Memory.wfFrom (a + 1) r
def Memory.wf (m : List Host.Cell) : Bool := Memory.wfFrom 0 m

/-! Sorted sets of locations. -/

def NSet.has : List Nat → Nat → Bool
  | [], _ => false
  | b :: r, a => if a = b then true else if a < b then false else NSet.has r a
def NSet.insert : List Nat → Nat → List Nat
  | [], a => [a]
  | b :: r, a => if a < b then a :: b :: r else if a = b then b :: r else b :: NSet.insert r a
def NSet.erase : List Nat → Nat → List Nat
  | [], _ => []
  | b :: r, a => if a < b then b :: r else if a = b then r else b :: NSet.erase r a
def NSet.set (l : List Nat) (a : Nat) (b : Bool) : List Nat := if b then NSet.insert l a else NSet.erase l a

/-! The physical map. -/

inductive Space where
  | hbm | vault | scratch | device | pcie | cxl | none
  deriving DecidableEq, Repr

def vaultBase : Nat := 0x8000000000
def scratchBase : Nat := 0x8100000000

def spaceOf (pa : Nat) : Space :=
  if pa < 0x8000000000 then .hbm
  else if pa < 0x8100000000 then .vault
  else if pa < 0x8120000000 then .scratch
  else if pa < 0x9000000000 then .none
  else if pa < 0xA000000000 then .device
  else if pa < 0x10000000000 then .none
  else if pa < 0x20000000000 then .pcie
  else if pa < 0x40000000000 then .cxl
  else .none

/-- Core whose vault or scratchpad holds the address. -/
def coreOfPa (pa : Nat) : Nat :=
  if spaceOf pa = .vault then (pa - vaultBase) / 0x400000 else (pa - scratchBase) / 0x80000

/-- Home of an address: array die 0-3, or 4 for the control die (Table 4.1). -/
def homeOf (pa : Nat) : Nat :=
  match spaceOf pa with
  | .hbm => pa / 2 ^ 37
  | .vault => coreOfPa pa / 256
  | .scratch => coreOfPa pa / 256
  | _ => 4

def hasTags (pa : Nat) : Bool := spaceOf pa == .hbm || spaceOf pa == .vault
def hasFe (pa : Nat) : Bool := spaceOf pa == .vault || spaceOf pa == .scratch

/-- A line of which die d may hold a copy apart from the home (R97). -/
def remoteHome (d pa : Nat) : Bool :=
  (spaceOf pa == .hbm || spaceOf pa == .cxl) && homeOf pa != d

/-- Ordered channel that a request to an address uses (R117). -/
def chanOf (pa : Nat) : Chan :=
  match spaceOf pa with
  | .hbm => .slice (homeOf pa) (pa / 128 % 64)
  | .vault => .vault (coreOfPa pa)
  | .scratch => .scratch (coreOfPa pa)
  | _ => .control

/-- A byte with its poison. -/
abbrev PByte := Byte × Bool

/-! At the home. -/

def State.byteAt (s : State) (pa : Nat) : Byte := readByte s.mem pa
def State.poisonAt (s : State) (pa : Nat) : Bool := NSet.has s.poison (pa / 16)
def State.tagAt (s : State) (pa : Nat) : Bool := NSet.has s.tags (pa / 16)
def State.feAt (s : State) (pa : Nat) : Bool := NSet.has s.fe (pa / 8)
def State.setFe (s : State) (pa : Nat) (b : Bool) : State := { s with fe := NSet.set s.fe (pa / 8) b }

/-- n bytes at the home, little-endian (R5). -/
def State.peek (s : State) (pa n : Nat) : Nat := natOfBytes ((List.range n).map fun i => s.byteAt (pa + i))
def State.peekPoison (s : State) (pa n : Nat) : Bool := (List.range n).any fun i => s.poisonAt (pa + i)

/-- Granules that a list of addresses touches. -/
def granules (pas : List Nat) : List Nat := (pas.map fun a => a / 16).eraseDups

/-- Whether the list holds all sixteen bytes of granule g. -/
def covers (pas : List Nat) (g : Nat) : Bool := (List.range 16).all fun i => pas.contains (16 * g + i)

/-- A write at the home: the tags of the granules it touches are cleared (R63), poison follows R128, reservations of those
granules end (log 5), L1s and the control-die cache give up their copies of the lines (R98, R102). -/
def State.putBytes (s : State) (ws : List (Nat × PByte)) : State :=
  let pas := ws.map Prod.fst
  let gs := granules pas
  let bad := (ws.filter fun w => w.2.2).map fun w => w.1 / 16
  { s with
    mem := ws.foldl (fun m w => writeByte m w.1 w.2.1) s.mem
    tags := gs.foldl NSet.erase s.tags
    poison := gs.foldl (fun p g =>
      if bad.contains g then NSet.insert p g else if covers pas g then NSet.erase p g else p) s.poison
    l1 := s.l1.filter fun x => !(gs.any fun g => g / 8 == x.2)
    directory := gs.foldl (fun d g => NSet.erase d (g / 8)) s.directory
    reservations := s.reservations.filter fun r => !gs.contains (r.2 / 16) }

/-- A little-endian value of n bytes stored at the home. -/
def State.poke (s : State) (pa n v : Nat) : State :=
  s.putBytes ((bytesOfNat n v).zipIdx.map fun (x, i) => (pa + i, x, false))

/-- A capability with its tag at the home, as one event, with the summary bit (R64, R65). -/
def State.putCap (s : State) (pa : Nat) (c : Cap) (poison : Bool) : State :=
  let s := s.putBytes ((bytesOfNat 16 c.bits.toNat).zipIdx.map fun (x, i) => (pa + i, x, poison))
  if c.tag && hasTags pa then
    { s with tags := NSet.insert s.tags (pa / 16), summary := NSet.insert s.summary (pa / 4096) }
  else s

/-- The granule at the home as a capability. -/
def State.capAt (s : State) (pa : Nat) : Cap := Cap.ofBits (s.tagAt pa && hasTags pa) (BitVec.ofNat 128 (s.peek pa 16))

/-! Copies of remote-home lines. -/

def State.copy? (s : State) (d line : Nat) : Option LineCopy := s.copies.find? fun c => c.die == d && c.line == line
def State.putCopy (s : State) (c : LineCopy) : State :=
  { s with copies := (s.copies.filter fun x => !(x.die == c.die && x.line == c.line)) ++ [c] }
/-- The L1s of a die give up a line (R98). -/
def State.dropL1 (s : State) (d line : Nat) : State :=
  { s with l1 := s.l1.filter fun x => !(dieOfCore x.1 == d && x.2 == line) }
/-- A copy leaves its die's cache, which includes what its L1s hold. -/
def State.dropCopy (s : State) (d line : Nat) : State :=
  { s.dropL1 d line with copies := s.copies.filter fun x => !(x.die == d && x.line == line) }
/-- The poison of a byte as die d reads it. -/
def State.poisonOn (s : State) (d pa : Nat) : Bool :=
  match if remoteHome d pa then s.copy? d (pa / 128) else none with
  | some c => if c.valid.getLsbD (pa % 128) then c.poison.getLsbD (pa % 128 / 16) else s.poisonAt pa
  | none => s.poisonAt pa
/-- A weak read through a core's L1 leaves the HBM4E lines in it (Table 4.1, R98). -/
def State.fillL1 (s : State) (core : Nat) (pas : List Nat) : State :=
  let lines := ((pas.filter fun a => spaceOf a == .hbm).map fun a => (core, a / 128)).eraseDups
  { s with l1 := s.l1 ++ lines.filter fun x => !s.l1.contains x }
/-- The control-die cache holds the HBM4E lines that a hart reads or writes (R102). -/
def State.cacheOnControl (s : State) (pas : List Nat) : State :=
  { s with directory := (pas.filter fun a => spaceOf a == .hbm).foldl (fun d a => NSet.insert d (a / 128)) s.directory }

def LineCopy.byte (c : LineCopy) (i : Nat) : Byte := c.data.extractLsb' (8 * i) 8
/-- Byte i of a line's data replaced. -/
def setLineByte (data : BitVec 1024) (i : Nat) (x : Byte) : BitVec 1024 :=
  (data &&& ~~~((0xFF : BitVec 1024) <<< (8 * i))) ||| ((x.zeroExtend 1024) <<< (8 * i))
def setMask (m : BitVec 128) (i : Nat) : BitVec 128 := m ||| ((1 : BitVec 128) <<< i)

/-- Bytes 16g to 16g + 15 of a mask. -/
def granuleMask (m : BitVec 128) (g : Nat) : BitVec 16 := m.extractLsb' (16 * g) 16

/-- Writes the dirty bytes of a copy back to the home; a fully dirty granule carries its tag (R99). -/
def State.writeBackLine (s : State) (d line : Nat) : State :=
  match s.copy? d line with
  | none => s
  | some c =>
    if c.dirty = 0 then s
    else
      let ws := ((List.range 128).filter fun i => c.dirty.getLsbD i).map fun i =>
        (128 * line + i, c.byte i, c.poison.getLsbD (i / 16))
      let s := s.putBytes ws
      let s := (List.range 8).foldl (fun s g =>
        if granuleMask c.dirty g = 0xFFFF ∧ c.tags.getLsbD g ∧ hasTags (128 * line) then
          { s with tags := NSet.insert s.tags (8 * line + g), summary := NSet.insert s.summary ((8 * line + g) / 256) }
        else s) s
      s.putCopy { c with dirty := 0 }

/-- Write-back, then invalidation (R100, R119). -/
def State.invalidateLine (s : State) (d line : Nat) : State := (s.writeBackLine d line).dropCopy d line

def State.copyLines (s : State) (d : Nat) : List Nat := (s.copies.filter fun c => c.die == d).map LineCopy.line
def State.writeBackDie (s : State) (d : Nat) : State := (s.copyLines d).foldl (fun s l => s.writeBackLine d l) s
def State.invalidateDie (s : State) (d : Nat) : State := (s.copyLines d).foldl (fun s l => s.invalidateLine d l) s

/-- Fetches a line and merges it: dirty bytes keep the die's values (R99); a partly written granule keeps the home's poison
(R128). -/
def State.fetchLine (s : State) (d line : Nat) : State :=
  let old := (s.copy? d line).getD ⟨d, line, 0, 0, 0, 0, 0⟩
  let data := (List.range 128).foldl (fun x i =>
    if old.dirty.getLsbD i then x else setLineByte x i (s.byteAt (128 * line + i))) old.data
  let pick (own : BitVec 8) (home : Nat → Bool) : BitVec 8 := (List.range 8).foldl (fun x g =>
    setBit8 x g ((granuleMask old.dirty g != 0xFFFF && home g) || (granuleMask old.dirty g != 0 && own.getLsbD g))) 0
  s.putCopy { old with
    valid := BitVec.allOnes 128
    data := data
    tags := pick old.tags (fun g => s.tagAt (128 * line + 16 * g) && granuleMask old.dirty g == 0 && hasTags (128 * line))
    poison := pick old.poison (fun g => s.poisonAt (128 * line + 16 * g)) }

/-- A weak read on die d (R99, R112); `nc` when the page is uncached (R93). -/
def State.weakRead (s : State) (d : Nat) (nc : Bool) (pas : List Nat) : State × List PByte :=
  let lines := ((pas.filter fun a => !nc && remoteHome d a).map fun a => a / 128).eraseDups
  let s := lines.foldl (fun s l =>
    match s.copy? d l with
    | some c => if (pas.filter fun a => a / 128 == l).all (fun a => c.valid.getLsbD (a % 128)) then s else s.fetchLine d l
    | none => s.fetchLine d l) s
  (s, pas.map fun a =>
    if !nc && remoteHome d a then
      match s.copy? d (a / 128) with
      | some c => (c.byte (a % 128), c.poison.getLsbD (a % 128 / 16))
      | none => (s.byteAt a, s.poisonAt a)
    else (s.byteAt a, s.poisonAt a))

/-- A weak write on die d (R99): a remote-home byte becomes dirty in the die's copy, which is not fetched. -/
def State.weakWrite (s : State) (d : Nat) (nc : Bool) (ws : List (Nat × PByte)) : State :=
  let remote := ws.filter fun w => !nc && remoteHome d w.1
  let s := s.putBytes (ws.filter fun w => nc || !remoteHome d w.1)
  let lines := (remote.map fun w => w.1 / 128).eraseDups
  lines.foldl (fun s l =>
    let mine := remote.filter fun w => w.1 / 128 == l
    let s := s.dropL1 d l
    let c := (s.copy? d l).getD ⟨d, l, 0, 0, 0, 0, 0⟩
    let c := mine.foldl (fun c w =>
      let i := w.1 % 128
      { c with data := setLineByte c.data i w.2.1, valid := setMask c.valid i, dirty := setMask c.dirty i }) c
    let pas := mine.map Prod.fst
    let bad := (mine.filter fun w => w.2.2).map fun w => w.1 / 16
    let c := (granules pas).foldl (fun c g =>
      { c with tags := setBit8 c.tags (g % 8) false,
               poison := if bad.contains g then setBit8 c.poison (g % 8) true
                 else if covers pas g then setBit8 c.poison (g % 8) false else c.poison }) c
    s.putCopy c) s

/-- A strong access to a remote-home line first writes back and invalidates the die's copy (R100). -/
def State.beforeStrong (s : State) (d : Nat) (pas : List Nat) : State :=
  (((pas.filter (remoteHome d)).map fun a => a / 128).eraseDups).foldl (fun s l => s.invalidateLine d l) s

/-- A read of any order: strong reads act at the home. -/
def State.readAs (s : State) (d : Nat) (strong nc : Bool) (pas : List Nat) : State × List PByte :=
  if strong then
    let s := s.beforeStrong d pas
    (s, pas.map fun a => (s.byteAt a, s.poisonAt a))
  else s.weakRead d nc pas
def State.writeAs (s : State) (d : Nat) (strong nc : Bool) (ws : List (Nat × PByte)) : State :=
  if strong then (s.beforeStrong d (ws.map Prod.fst)).putBytes ws else s.weakWrite d nc ws

/-- A granule read as a capability, weakly or strongly (R64). -/
def State.readCapAs (s : State) (d : Nat) (strong nc : Bool) (pa : Nat) : State × Cap × Bool :=
  if strong || nc || !remoteHome d pa then
    let s := s.beforeStrong d [pa]
    (s, s.capAt pa, s.poisonAt pa)
  else
    let (s, bs) := s.weakRead d false ((List.range 16).map (pa + ·))
    let tag := match s.copy? d (pa / 128) with | some c => c.tags.getLsbD (pa % 128 / 16) | none => false
    (s, Cap.ofBits (tag && hasTags pa) (BitVec.ofNat 128 (natOfBytes (bs.map Prod.fst))), bs.any Prod.snd)
def State.writeCapAs (s : State) (d : Nat) (strong nc : Bool) (pa : Nat) (c : Cap) (poison : Bool) : State :=
  if strong || nc || !remoteHome d pa then (s.beforeStrong d [pa]).putCap pa c poison
  else
    let s := s.weakWrite d false ((bytesOfNat 16 c.bits.toNat).zipIdx.map fun (x, i) => (pa + i, x, poison))
    match s.copy? d (pa / 128) with
    | some l => s.putCopy { l with tags := setBit8 l.tags (pa % 128 / 16) (c.tag && hasTags pa) }
    | none => s

/-- Something leaves the package. -/
def State.outbox (s : State) (o : Outgoing) : State := { s with th := { s.th with outbox := s.th.outbox ++ [o] } }

/-- An engine's write: written through to the home; the die's copy is written back first and invalidated (R101). One to a PCI
Express window leaves by its root port (Table 4.4). -/
def State.engineWrite (s : State) (d : Nat) (ws : List (Nat × PByte)) : State :=
  match ws with
  | [] => s
  | (a, _) :: _ =>
    if spaceOf a = .pcie then s.outbox (.pcieWrite a (ws.map fun w => w.2.1))
    else (s.beforeStrong d (ws.map Prod.fst)).putBytes ws

end Sys2Proof.Machine
end

