-- ==== Sys2Proof/Machine/Xlate.lean ====
section
/-! DEFINITION. Translation of device accesses (spec/20 R408-R414, spec/04 R92-R96) and the checks of one access in the
order of spec/10 R231. -/

namespace Sys2Proof.Machine

/-! Page-table entries. -/

def pteV (p : Nat) : Bool := p.testBit 0
def pteR (p : Nat) : Bool := p.testBit 1
def pteW (p : Nat) : Bool := p.testBit 2
def pteX (p : Nat) : Bool := p.testBit 3
def pteU (p : Nat) : Bool := p.testBit 4
def pteG (p : Nat) : Bool := p.testBit 5
def pteA (p : Nat) : Bool := p.testBit 6
def pteD (p : Nat) : Bool := p.testBit 7
def pteCW (p : Nat) : Bool := p.testBit 8
def pteFE (p : Nat) : Bool := p.testBit 9
def ptePpn (p : Nat) : Nat := p / 2 ^ 10 % 2 ^ 44
def ptePbmt (p : Nat) : Nat := p / 2 ^ 61 % 4
def pteN (p : Nat) : Bool := p.testBit 63

/-- Whether the space of a physical address admits the leaf's attributes (Table 4.2). -/
def attrsOk (pa pte : Nat) : Bool :=
  let b := ptePbmt pte
  match spaceOf pa with
  | .hbm => !pteFE pte && b ≤ 1
  | .vault => b == 0
  | .scratch => !pteCW pte && b == 0
  | .device => !pteCW pte && !pteFE pte && b == 2
  | .pcie => !pteCW pte && !pteFE pte && (b == 1 || b == 2)
  | .cxl => !pteCW pte && !pteFE pte && b ≤ 1
  | .none => false

/-- Physical page of a leaf found at a level (R409). -/
def leafPpn (level pte vpn : Nat) : Nat :=
  let ppn := ptePpn pte
  if level = 0 then (if pteN pte then ppn / 16 * 16 + vpn % 16 else ppn)
  else ppn / 2 ^ (9 * level) * 2 ^ (9 * level) + vpn % 2 ^ (9 * level)

/-- A leaf's own shape is right: no 512 GiB page, superpages aligned, N only as the 64 KiB form. -/
def leafOk (level pte : Nat) : Bool :=
  level < 3 && ptePpn pte % 2 ^ (9 * level) == 0 && (!pteN pte || (level == 0 && ptePpn pte % 16 == 8))

/-- The pseudo-channel of an HBM4E address, in the numbers of Table 24.1. -/
def channelAt (pa : Nat) : Nat := homeOf pa * 256 + Config.channelOf (pa / 128) % 128
/-- An address of a unit that exists and is not fenced (R470), and of CXL memory one that the decoders map (R455). -/
def State.populated (s : State) (pa : Nat) : Bool :=
  match spaceOf pa with
  | .hbm => !s.th.fencedDies.contains (homeOf pa) && !s.th.fencedPcs.contains (channelAt pa)
  | .vault => !s.th.fencedDies.contains (homeOf pa) && !(s.core (coreOfPa pa)).fenced
  | .scratch => !s.th.fencedDies.contains (homeOf pa) && !(s.core (coreOfPa pa)).fenced
  | .cxl => decide (pa - 0x20000000000 < s.th.hdm.1)
  | .none => false
  | _ => true
/-- Nothing is fenced, or every byte is populated. -/
def State.allPopulated (s : State) (pas : List Nat) : Bool :=
  (s.th.fencedDies.isEmpty && s.th.fencedPcs.isEmpty && !(s.cores.any Core.fenced) && pas.all fun a => spaceOf a != .cxl && spaceOf a != .none)
    || pas.all s.populated

/-- The Sv48 walk from the table at page `tbl`; `fuel` is the level plus one. Answers the entry's address, the leaf and
its level, or none for a fault. -/
def walk (s : State) (vpn : Nat) : Nat → Nat → Option (Nat × Nat × Nat)
  | 0, _ => none
  | level + 1, tbl =>
    let at_ := tbl * 4096 + vpn / 2 ^ (9 * level) % 512 * 8
    if spaceOf at_ = .none ∨ spaceOf at_ = .device ∨ spaceOf at_ = .pcie ∨ s.populated at_ = false then none
    else
      let pte := s.peek at_ 8
      if !pteV pte || (pteW pte && !pteR pte) || pte / 2 ^ 54 % 2 ^ 7 != 0 then none
      else if pteR pte || pteX pte then (if leafOk level pte then some (at_, pte, level) else none)
      else if pteA pte || pteD pte || pteU pte || pteN pte || ptePbmt pte != 0 || pteCW pte || pteFE pte then none
      else walk s vpn level (ptePpn pte)

/-- The walker reads each entry as a strong read, so the die's copy of its line goes back to its home first (R100, R413). -/
def State.cleanWalk (s : State) (d vpn : Nat) : Nat → Nat → State
  | 0, _ => s
  | level + 1, tbl =>
    let at_ := tbl * 4096 + vpn / 2 ^ (9 * level) % 512 * 8
    let s := s.beforeStrong d [at_]
    let pte := s.peek at_ 8
    if !pteV pte || pteR pte || pteW pte || pteX pte then s else s.cleanWalk d vpn level (ptePpn pte)

/-- What an access needs of a leaf (Table 20.2). -/
structure LeafNeed where
  x : Bool := false
  w : Bool := false
  fe : Bool := false
  deriving DecidableEq, Repr

/-- Who accesses: the core whose port it is, the die whose caches it uses, the address space and the launch. -/
structure Seat where
  core : Nat
  die : Nat
  asid : Nat
  launch : Option Nat
  /-- The translation caches on its way, nearest first (Table 20.3). -/
  tlbs : List TlbUnit
  deriving DecidableEq, Repr

/-- The caches of a core's threads, of its quad's copy engine, and of what shares the die's alone: the drain engines and the
Hall (Table 20.3). -/
def threadTlbs (core : Nat) : List TlbUnit :=
  if core < 1024 then [.core core, .quad (core / 4), .die (dieOfCore core)] else [.die (dieOfCore core)]
def copyTlbs (core : Nat) : List TlbUnit := [.quad (core / 4), .die (dieOfCore core)]
def dieTlbs (die : Nat) : List TlbUnit := [.die die]

/-- A translated page: its physical page, and the attributes that the access uses. -/
structure Page where
  pa : Nat
  cw : Bool
  nc : Bool
  io : Bool
  /-- The translation used; none in the identity-mapped ranges (R95). -/
  via : Option TlbEntry
  deriving DecidableEq, Repr

/-- Whether a byte of a vault or scratchpad belongs to a workgroup of the launch (R95). -/
def State.owned (s : State) (launch : Option Nat) (pa : Nat) : Bool :=
  let core := coreOfPa pa
  s.wgs.any fun w =>
    some w.launch == launch && w.core == core && w.life != .retired &&
      (if spaceOf pa = .vault then
        let o := pa - vaultBase - core * 0x400000
        w.vaultBase ≤ o && o < w.vaultBase + w.vaultLen
      else
        let o := pa - scratchBase - core * 0x80000
        w.scrBase ≤ o && o < w.scrBase + w.scrLen)

/-- The identity-mapped ranges of R95. -/
def inAllocRange (va : Nat) : Bool := vaultBase ≤ va && va < 0x8120000000

/-- A 4 KiB page of those ranges that holds an allocation of the launch. -/
def State.allocPage (s : State) (launch : Option Nat) (page : Nat) : Bool :=
  s.owned launch page || s.owned launch (page + 2048) || s.owned launch (page + 4095)

/-- The ASID that omake gave the ASPACE at `pa`, from the device's record (R11, R390); 1024, which no space has, once it
has been released (R426). -/
def State.asidAt (s : State) (pa : Nat) : Nat :=
  match s.asids.find? fun e => e.pa == pa with
  | some e => e.asid
  | none => 1024
/-- The entry of an ASID. -/
def State.asid? (s : State) (asid : Nat) : Option AsidEntry := s.asids.find? fun e => e.asid == asid

/-- The root page of an ASID, read and fixed at its first use (R390). -/
def State.rootOf (s : State) (asid : Nat) : Option Nat × State :=
  match s.asid? asid with
  | none => (none, s)
  | some e =>
    match e.root with
    | some r => (some r, s)
    | none =>
      let r := s.peek (e.pa + 16) 8 % 2 ^ 44
      (some r, { s with asids := putBy AsidEntry.asid { e with root := some r } s.asids })

/-- What a leaf allows: its page, or the fault (Table 20.2). -/
def leafCheck (need : LeafNeed) (ppn pte : Nat) : Except (BitVec 8 × Nat) Page :=
  if !(pteU pte && (if need.x then pteX pte else pteR pte) && (!need.w || pteW pte)) then .error (cXPERM, 1)
  else if need.fe && !pteFE pte then .error (cXPERM, 5)
  else .ok ⟨ppn * 4096, pteCW pte, ptePbmt pte == 1, ptePbmt pte == 2, none⟩

/-! The translation caches (R412). -/

/-- Entries of a cache (Table 20.3). -/
def TlbUnit.capacity : TlbUnit → Nat
  | .core _ => 64
  | .quad _ => 1024
  | .die _ => 4096
/-- Pages of 4 KiB in the page of a leaf. -/
def leafPages (level pte : Nat) : Nat := if level = 0 then (if pteN pte then 16 else 1) else 512 ^ level
/-- The entry of a leaf found at a level. -/
def leafEntry (asid level pte vpn : Nat) : TlbEntry :=
  let base := vpn / leafPages level pte * leafPages level pte
  ⟨.die 0, asid, base, leafPages level pte, leafPpn level pte base, BitVec.ofNat 64 pte⟩
def TlbEntry.holds (e : TlbEntry) (vpn : Nat) : Bool := decide (e.vpn ≤ vpn) && decide (vpn < e.vpn + e.pages)
/-- Its physical page of a virtual page that it holds. -/
def TlbEntry.pageOf (e : TlbEntry) (vpn : Nat) : Nat := e.ppn + (vpn - e.vpn)
/-- An entry of a cache serves an access: of its ASID or global, and with D set where the access needs it (R409). -/
def TlbEntry.serves (e : TlbEntry) (u : TlbUnit) (asid : Nat) (need : LeafNeed) (vpn : Nat) : Bool :=
  e.unit == u && (e.asid == asid || pteG e.pte.toNat) && e.holds vpn && (!need.w || pteD e.pte.toNat || !pteW e.pte.toNat)
/-- The entry that serves an access, from the nearest cache that has one. -/
def State.tlbHit (s : State) (seat : Seat) (need : LeafNeed) (vpn : Nat) : Option TlbEntry :=
  seat.tlbs.findSome? fun u => s.tlb.find? fun e => e.serves u seat.asid need vpn
/-- An entry enters a cache in place of what held its pages; a full cache loses its oldest entry (DESIGN CHOICE, log 85). -/
def putTlb (e : TlbEntry) (l : List TlbEntry) (u : TlbUnit) : List TlbEntry :=
  let l := l.filter fun x => !(x.unit == u && x.asid == e.asid && (x.holds e.vpn || e.holds x.vpn))
  let mine := l.filter fun x => x.unit == u
  let l := match mine with
    | old :: _ => if u.capacity ≤ mine.length then l.erase old else l
    | [] => l
  l ++ [{ e with unit := u }]
/-- A walk's result enters every cache on its way. -/
def fillTlbs (seat : Seat) (e : TlbEntry) (l : List TlbEntry) : List TlbEntry := seat.tlbs.foldl (putTlb e) l

/-- Translates the page of `va` for a device access (R95, R409-R413): the fault is a code with its detail. -/
def State.translate (s : State) (seat : Seat) (need : LeafNeed) (va : Nat) : State × Except (BitVec 8 × Nat) Page :=
  let vpn := va / 4096
  let page := vpn * 4096
  let xlate := (s, Except.error (cXLATE, page % 2 ^ 32))
  match s.asid? seat.asid with
  | none => xlate
  | some e =>
    if e.torn then (s, .error (cTEARDOWN, 0))
    else if !(va / 2 ^ 47 == 0 || (va / 2 ^ 47 == 0x1FFFF)) then xlate
    else if inAllocRange va then
      if !s.allocPage seat.launch page then xlate
      else if need.x then (s, .error (cXPERM, 1))
      else (s, .ok ⟨page, spaceOf va == .vault, false, false, none⟩)
    else
      let vpn36 := vpn % 2 ^ 36
      match s.tlbHit seat need vpn36 with
      | some t => (s, (leafCheck need (t.pageOf vpn36) t.pte.toNat).map fun p => { p with via := some t })
      | none =>
        match s.rootOf seat.asid with
        | (none, s) => (s, .error (cXLATE, page % 2 ^ 32))
        | (some root, s) =>
          let s := s.cleanWalk seat.die vpn36 4 root
          match walk s vpn36 4 root with
          | none => (s, .error (cXLATE, page % 2 ^ 32))
          | some (at_, pte, level) =>
            let ppn := leafPpn level pte vpn36
            if !attrsOk (ppn * 4096) pte then (s, .error (cXLATE, page % 2 ^ 32))
            else
              match leafCheck need ppn pte with
              | .error f => (s, .error f)
              | .ok p =>
                let pte' := pte ||| 0x40 ||| (if need.w then 0x80 else 0)
                let s := if pte' = pte then s else s.poke at_ 8 pte'
                let e := leafEntry seat.asid level pte' vpn36
                ({ s with tlb := fillTlbs seat e s.tlb }, .ok { p with via := some e })

/-! One access. -/

/-- What R231, R235 and Table 20.2 ask of an access of n bytes. -/
structure AccessSpec where
  perms : List Nat
  n : Nat
  /-- 0 when no alignment is required. -/
  align : Nat := 0
  need : LeafNeed := {}
  /-- Not to a PCI Express window or device register (XPERM 4). -/
  noDevice : Bool := false
  /-- Only the issuing core's own scratchpad (XPERM 2). -/
  ownOnly : Bool := false
  /-- A tagged capability is stored (CAPSTORE). -/
  capStore : Bool := false
  /-- A permission fault on the stored capability (R238). -/
  extra : Option FaultInfo := none
  deriving DecidableEq, Repr

/-- A checked access: each byte's physical address, and how it is performed. -/
structure Placed where
  pas : List Nat
  nc : Bool
  io : Bool
  cw : Bool
  via : List TlbEntry
  deriving DecidableEq, Repr

inductive AccessCheck where
  | ok (p : Placed)
  | fault (f : FaultInfo)
  /-- The authority is remote: the access travels (R248). -/
  | remote
  deriving DecidableEq, Repr

/-- 64-bit wrap of an exact address. -/
def addrWord (x : Int) : DWord := BitVec.ofInt 64 x

/-- Pages that [x, x + n) touches. -/
def pagesOf (x n : Nat) : List Nat :=
  if n = 0 then [] else (List.range ((x + n - 1) / 4096 - x / 4096 + 1)).map fun i => (x / 4096 + i) * 4096

/-- Port checks on a translated page: causes 2, 4, 3 of XPERM (Table 10.1). -/
def portCheck (s : State) (seat : Seat) (sp : AccessSpec) (pas : List Nat) : Option Nat :=
  match pas.head? with
  | none => none
  | some pa =>
    let sp0 := spaceOf pa
    if sp.ownOnly && !(sp0 == .scratch && coreOfPa pa == seat.core) then some 2
    else if sp.noDevice && (sp0 == .device || sp0 == .pcie) then some 4
    else if sp0 == .scratch && pas.any (fun a => !s.owned seat.launch a) then some 3
    else none

/-- Translates pages in ascending order and checks their ports. -/
def translateAll (seat : Seat) (sp : AccessSpec) (x : Nat) :
    List Nat → State → Placed → State × Except (BitVec 8 × Nat) Placed
  | [], s, acc => (s, .ok acc)
  | v :: r, s, acc =>
    match s.translate seat sp.need v with
    | (s, .error f) => (s, .error f)
    | (s, .ok p) =>
      let lo := max x v
      let hi := min (x + sp.n) (v + 4096)
      let pas := (List.range (hi - lo)).map fun i => p.pa + (lo - v) + i
      if !s.allPopulated pas then (s, .error (cXLATE, v % 2 ^ 32)) else
      match portCheck s seat sp pas with
      | some c => (s, .error (cXPERM, c))
      | none => translateAll seat sp x r s
        ⟨acc.pas ++ pas, acc.nc || p.nc, acc.io || p.io, acc.cw && p.cw, acc.via ++ p.via.toList⟩

/-- The checks of R231 in order, with `reg` the register at fault. -/
def checkAccess (s : State) (seat : Seat) (c : Cap) (reg : Nat) (x : Int) (sp : AccessSpec) : State × AccessCheck :=
  let flt (code : BitVec 8) (detail : Nat) : AccessCheck := .fault (.of code reg detail (addrWord x))
  if !c.valid then (s, flt cTAG 0)
  else if c.remote then (s, .remote)
  else if c.otype ≠ 0 then (s, flt cSEALED 0)
  else match sp.perms.find? fun b => !c.has b with
    | some b => (s, flt cPERM b)
    | none =>
      match sp.extra with
      | some f => (s, .fault { f with addr := addrWord x })
      | none =>
      if x < c.base ∨ (c.top : Int) < x + sp.n then (s, flt cBOUNDS 0)
      else if sp.align ≠ 0 ∧ x % sp.align ≠ 0 then (s, flt cALIGN sp.n)
      else
        match translateAll seat sp x.toNat (pagesOf x.toNat sp.n) s ⟨[], false, false, true, []⟩ with
        | (s, .error (code, d)) => (s, flt code d)
        | (s, .ok p) => if sp.capStore && !p.cw then (s, flt cCAPSTORE 0) else (s, .ok p)

/-- Seat of a compute thread of a workgroup. -/
def Workgroup.seat (w : Workgroup) : Seat := ⟨w.core, dieOfCore w.core, w.asid, some w.launch, threadTlbs w.core⟩

end Sys2Proof.Machine
end

