-- ==== Sys2Proof/Machine/Waits.lean ====
section
/-! DEFINITION. The wait-for table (spec/11 R258-R265): holders, effective priority, the cycle walk, registration and its
undoing; and the arrivals at barriers and rendezvous latches that some holders are computed from. -/

namespace Sys2Proof.Machine

/-! Barriers (R266, Table 1.1, Table 11.1). -/

/-- Instance number of a level for a core (Table 11.1). -/
def barInst (level core : Nat) : Nat :=
  match level with
  | 0 => core
  | 1 => dieOfCore core * 64 + core % 256 / 4
  | 2 => dieOfCore core
  | _ => 0

/-- Place of a barrier's mask in `Launch.masks`. -/
def maskIndex (level num : Nat) : Nat :=
  match level with
  | 0 => num
  | 1 => 16 + num
  | 2 => 24 + num
  | 3 => 32 + num
  | _ => 36 + num

def Launch.mask (l : Launch) (level num : Nat) : BitVec 16 := l.masks.getD (maskIndex level num) 0

def State.bar? (s : State) (k : BarKey) : Option Barrier := s.barriers.find? fun b => b.key == k
def State.bar (s : State) (k : BarKey) : Barrier := (s.bar? k).getD ⟨k, 0, [], 0, false⟩
def State.setBar (s : State) (b : Barrier) : State :=
  { s with barriers := (s.barriers.filter fun x => x.key != b.key) ++ [b] }

/-- Member home groups of a barrier instance, as (workgroup, home group). -/
def State.barMembers (s : State) (k : BarKey) : List (Nat × Nat) :=
  match s.launch? k.launch with
  | none => []
  | some l =>
    ((s.wgs.filter fun w => w.launch == k.launch && !w.prologue && w.life != .retired
        && barInst k.level w.core == k.inst).map fun w =>
      ((List.range w.g).filter fun h => (l.mask k.level k.num).getLsbD h).map fun h => (w.id, h)).flatten

/-- A workgroup of the launch that has still to be dealt may come to the instance: its home groups are members too (R14,
R266). A scheduled launch's entry names its core and another's the die that is dealt to next; a core barrier counts
resident workgroups (Table 1.1), and where a workgroup's quad or die is open until it is dealt, it is not waited for
(DESIGN CHOICE, log 64). -/
def State.barAwaits (s : State) (k : BarKey) : Bool :=
  match s.launch? k.launch with
  | none => false
  | some l =>
    l.mask k.level k.num != 0 && l.undealt.any fun e =>
      match k.level with
      | 0 => false
      | 1 => l.sched.isSome && barInst 1 e.1 == k.inst
      | 2 => (match l.sched with | some _ => barInst 2 e.1 | none => e.1) == k.inst && !l.flags.getLsbD 2
      | _ => true

/-- Members that have not arrived in the current phase: some live thread has not been counted (R266). -/
def State.barLeft (s : State) (k : BarKey) : List (Nat × Nat) :=
  (s.barMembers k).filter fun m =>
    match s.wg? m.1 with
    | some w => (w.liveOf m.2).any fun t => !(s.bar k).counted.contains (m.1, t.tid)
    | none => false

/-! Rendezvous latches (R37, R38). -/

/-- Home groups that a gang register lists; gang0 is not asked. -/
def Workgroup.gangGroups (w : Workgroup) (gang : Nat) : List Nat :=
  (List.range 16).filter fun h => (w.gangs.getD (gang - 1) 0).getLsbD h
def Workgroup.latch (w : Workgroup) (gang : Nat) : Latch := (w.latches.find? fun l => l.gang == gang).getD ⟨gang, [], none⟩
def Workgroup.setLatch (w : Workgroup) (l : Latch) : Workgroup :=
  { w with latches := (w.latches.filter fun x => x.gang != l.gang) ++ [l] }
/-- Listed home groups that have not arrived (R38). -/
def Workgroup.latchLeft (w : Workgroup) (gang : Nat) : List Nat :=
  (w.gangGroups gang).filter fun h =>
    (w.liveOf h).any fun t => !((w.latch gang).arrivals.any fun a => a.tid == t.tid)

/-! Holders (Table 11.1). -/

/-- The thread that WHOLD declared for an object (R271). -/
def State.declared (s : State) (obj : Nat) : Holders :=
  match s.waits.find? fun e => e.kind == 12 && e.obj == obj with
  | some e => e.holders
  | none => .unknown

def State.wgOf (s : State) : Party → Option Workgroup
  | .thread wg _ => s.wg? wg
  | .engine op => (s.op? op).bind fun o => s.wg? o.wg
  | _ => none

/-- An engine holds what a wait of kind 9 names by its qualifier: a tile that is FILLING or DRAINING, or from 0x1000 on an
accumulator tile that is DRAINING (R287, R296). -/
def Workgroup.engineHolds (w : Workgroup) (qual : Nat) : Bool :=
  if 0x1000 ≤ qual then (w.accTile (qual - 0x1000)).state == aDRAINING
  else tState (w.tile (qual % 256)) == tFILLING || tState (w.tile (qual % 256)) == tDRAINING

/-- The declared server of an endpoint, bytes 20-23 of the object (Table 19.4). -/
def State.serverOf (s : State) (obj : Nat) : Holders :=
  match s.partyOf (BitVec.ofNat 32 (s.peek (obj + 20) 4)) with
  | some p => .parties [p]
  | none => .unknown

/-- An entry's holders as they stand now. -/
def State.holdersOf (s : State) (e : WaitEntry) : Holders :=
  match e.kind with
  | 1 =>
    match (e.waiters.head?).bind s.wgOf with
    | some w => .homeGroups (s.barLeft ⟨w.launch, e.qual / 16, e.obj, e.qual % 16⟩)
    | none => .unknown
  | 3 =>
    match s.partyOf (BitVec.ofNat 32 (s.peek e.obj 4)) with
    | some p => .parties [p]
    | none => .unknown
  | 5 => s.serverOf e.obj
  | 10 =>
    match (e.waiters.head?).bind s.wgOf with
    | some w => .homeGroups ((w.latchLeft (e.qual % 4)).map fun h => (w.id, h))
    | none => .unknown
  | 9 =>
    match (e.waiters.head?).bind s.wgOf with
    | some w => if w.engineHolds e.qual then .engine else .unknown
    | none => .unknown
  | 2 => s.declared e.obj
  | 7 => s.declared e.obj
  | 8 => s.declared e.obj
  | 11 => if e.holders = .server then s.serverOf e.obj else s.declared e.obj
  | _ => e.holders

/-- Who waits or holds: a hart's call waits for the hart (R379). -/
def Party.agent : Party → Party
  | .hartSlot n _ => .hart n
  | p => p

/-- Whether a party is among holders; one that has ended counts as unknown (R259). -/
def State.isHolder (s : State) (h : Holders) (p : Party) : Bool :=
  match h with
  | .parties ps => (ps.map Party.agent).contains p.agent && s.alive p
  | .homeGroups gs =>
    match p with
    | .thread wg tid =>
      (match s.wg? wg with | some w => gs.contains (wg, tid / w.w) | none => false) && s.alive p
    | _ => false
  | _ => false

/-- The parties that holders name. -/
def State.holderParties (s : State) (h : Holders) : List Party :=
  match h with
  | .parties ps => ps.filter s.alive
  | .homeGroups gs => (gs.map fun g =>
      match s.wg? g.1 with
      | some w => (w.liveOf g.2).map fun t => Party.thread g.1 t.tid
      | none => []).flatten
  | _ => []

/-- Whether a thread has arrived where an entry waits: at its barrier's phase, or at its latch. -/
def State.arrivedAt (s : State) (e : WaitEntry) (p : Party) : Bool :=
  match p with
  | .thread wg tid =>
    match e.kind with
    | 1 =>
      match (e.waiters.head?).bind s.wgOf with
      | some w => (s.bar ⟨w.launch, e.qual / 16, e.obj, e.qual % 16⟩).counted.contains (wg, tid)
      | none => false
    | 10 =>
      match s.wg? wg with
      | some w => (w.latch (e.qual % 4)).arrivals.any fun a => a.tid == tid
      | none => false
    | _ => false
  | _ => false

/-- The holder threads that a walk follows (R262): of a home group that has not arrived, the members that have still to
arrive (log 26). -/
def State.walkParties (s : State) (e : WaitEntry) : List Party :=
  (s.holderParties (s.holdersOf e)).filter fun p => !s.arrivedAt e p

/-! Priorities (R261). -/

def State.basePrio (s : State) : Party → Nat
  | .thread wg _ => match (s.wg? wg).bind fun w => s.launch? w.launch with | some l => l.prio | none => 0
  | .engine op => match (s.op? op).bind fun o => s.launch? o.launch with | some l => l.prio | none => 0
  | .hart n => match s.hart? n with | some h => h.kprio.toNat | none => 0
  | .hartSlot n _ => match s.hart? n with | some h => h.kprio.toNat | none => 0
  | .hall _ => 0
  | .remote _ _ => 0

/-- Registered entries that name one of these parties as a holder. -/
def State.boostsOf (s : State) (ps : List Party) : List WaitEntry :=
  s.waits.filter fun e => e.kind != 12 && ps.any (s.isHolder (s.holdersOf e))
/-- The highest priority that reaches these parties through at most `fuel` entries: their own, and those of the waiters of the
entries that they hold; an entry of a plain object carries its own. -/
def State.effPrioN (s : State) : Nat → List Party → Nat
  | 0, ps => (ps.map s.basePrio).foldl max 0
  | fuel + 1, ps =>
    let es := s.boostsOf ps
    let own := (ps.map s.basePrio).foldl max (((es.filter fun e => e.kind == 11).map WaitEntry.prio).foldl max 0)
    max own (s.effPrioN fuel ((es.filter fun e => e.kind != 11).map WaitEntry.waiters).flatten.eraseDups)
/-- A party's effective priority (R261). -/
def State.effPrio (s : State) (p : Party) : Nat := s.effPrioN 8 [p]

/-! The walk (R262). -/

/-- Registered entries in which a party waits. -/
def State.waitsOf (s : State) (p : Party) : List WaitEntry :=
  s.waits.filter fun e => e.kind != 12 && (e.waiters.map Party.agent).contains p.agent

/-- Follows parties through the entries registered before `start`, so that of two registrations that would close one cycle
only the later faults (R262); `path` is the entries passed, latest first. -/
def State.walkFrom (s : State) (start : WaitEntry) : Nat → List (Nat × Party) → List Party → WalkState → WalkState
  | 0, _, ps, w => if ps.isEmpty then w else { w with limited := true }
  | fuel + 1, path, ps, w =>
    ps.foldl (fun w p =>
      if w.found.isSome then w
      else if (start.waiters.map Party.agent).contains p.agent then { w with found := some path }
      else
        ((s.waitsOf p).filter fun e => e.id < start.id).foldl (fun w e =>
          if w.found.isSome then w
          else if 64 ≤ w.visited then { w with limited := true }
          else s.walkFrom start fuel ((e.id, p) :: path) (s.walkParties e)
            { w with visited := w.visited + 1 }) w) w

/-- The walk of a new entry (R262): at most 16 entries deep, the new one included. -/
def State.cycleWalk (s : State) (e : WaitEntry) : WalkState :=
  s.walkFrom e 16 [] (s.walkParties e) ⟨none, 0, false⟩

/-- Lowest waiter of an entry as its record pair names it (Table 11.4). -/
def State.pairIdentity (s : State) (e : WaitEntry) : Word :=
  match e.waiters with
  | [] => 0
  | p :: r => r.foldl (fun acc q => if (s.identity q).toNat < acc.toNat then s.identity q else acc) (s.identity p)

/-! Entries. -/

/-- Entries of a die in use. -/
def State.tableUse (s : State) (d : Nat) : Nat := (s.waits.filter fun e => e.die == d).length
/-- Room in a die's table of 32,768 entries (R258). -/
def State.tableRoom (s : State) (d : Nat) : Bool := s.tableUse d < 32768

/-- Answer of a registration: joined or new entry, or unregistered with the first overflow told apart. -/
inductive RegAnswer where
  | entry (id : Nat)
  | full (first : Bool)
  deriving DecidableEq, Repr

/-- The walk of an entry that is being registered, over the table and the holders as they stand: every edge of a cycle that it
reports stands at the registration's place in the Hall order (R262). -/
def State.walkOf (s : State) (e : WaitEntry) : WalkState := ({ s with waits := s.waits ++ [e] } : State).cycleWalk e

/-- An entry takes another waiter of its parked group; a walk in flight that has found nothing looks for it too. -/
def State.joinWait (s : State) (e : WaitEntry) (p : Party) : State :=
  let e := { e with waiters := if e.waiters.contains p then e.waiters else e.waiters ++ [p] }
  s.setWait { e with walk := e.walk.map fun v => if v.found.isSome then v else (s.setWait e).cycleWalk e }

/-- Registers a wait (R260): an entry of the same parked group takes the waiter; else a free one is filled and its walk
starts. -/
def State.register (s : State) (die kind obj qual batch : Nat) (p : Party) (h : Holders) (faultWait : Bool) :
    State × RegAnswer :=
  match s.waits.find? fun e => e.kind == kind && e.obj == obj && e.qual == qual && e.batch == batch && e.die == die with
  | some e => (s.joinWait e p, .entry e.id)
  | none =>
    if s.tableRoom die then
      let (id, s) := s.newId
      let e : WaitEntry := ⟨id, die, kind, obj, qual, .waiting, [p], h, 0, none, faultWait, batch⟩
      ({ s with waits := s.waits ++ [{ e with walk := some (s.walkOf e) }] }, .entry id)
    else
      let hall := s.hall die
      (s.setHall die { hall with wfovf := if hall.wfovf = 0xFFFFFFFF then hall.wfovf else hall.wfovf + 1 },
        .full (hall.wfovf == 0))

def State.freeWait (s : State) (id : Nat) : State := { s with waits := s.waits.filter fun e => e.id != id }

/-- A waiter leaves the blocking waits of a batch; an entry with no waiter left is freed (Table 11.6). -/
def State.leaveWaits (s : State) (p : Party) (batch : Nat) : State :=
  let leave (e : WaitEntry) : WaitEntry :=
    if e.kind < 11 && e.batch == batch then { e with waiters := e.waiters.filter fun q => q != p } else e
  { s with waits := (s.waits.map leave).filter fun e => 11 ≤ e.kind || !e.waiters.isEmpty }

/-- A thread ends (R265): its blocking and explicit entries lose it; declarations naming it are freed. -/
def State.endWaits (s : State) (p : Party) : State :=
  let leave (e : WaitEntry) : WaitEntry :=
    if e.kind = 12 then e else { e with waiters := e.waiters.filter fun q => q != p }
  let keep (e : WaitEntry) : Bool :=
    if e.kind = 12 then (match e.holders with | .parties ps => !ps.contains p | _ => true) else !e.waiters.isEmpty
  { s with waits := (s.waits.map leave).filter keep }

/-- Among requests, the one of highest priority, then the earliest. -/
def chooseBy (prio : Request → Nat) (rs : List Request) : Option Request :=
  rs.foldl (fun acc r =>
    match acc with
    | none => some r
    | some b => if prio b < prio r then some r else some b) none
/-- The one of highest effective priority, then the earliest (R274, R276). -/
def State.chooseReq (s : State) (rs : List Request) : Option Request := chooseBy (fun r => s.effPrio r.who) rs
/-- The LOCK that takes the word next: an unregistered one competes at its base priority (R268). -/
def State.chooseLocker (s : State) (rs : List Request) : Option Request :=
  chooseBy (fun r =>
    if s.waits.any fun e => e.batch == r.batch && e.waiters.contains r.who then s.effPrio r.who else s.basePrio r.who) rs

end Sys2Proof.Machine
end

