-- ==== Sys2Proof/Machine/Groups.lean ====
section
/-! DEFINITION. Groups and bins: addresses of instructions, filing, forming, leaving, tags (spec/01 R19-R33, spec/05
R131-R139, spec/06 R157-R162). -/

namespace Sys2Proof.Machine

/-! Instruction addresses (R132). -/

def spanOf (pc : DWord) : DWord := pc &&& ~~~(0x7F : DWord)
def slotOf (pc : DWord) : Nat := pc.toNat % 16
def atSlot (span : DWord) (slot : Nat) : DWord := span + BitVec.ofNat 64 slot

/-- The span that follows a block (R137). -/
def Block.fallThrough (b : Block) : DWord := b.span + BitVec.ofNat 64 (128 * b.len)
/-- Whether the instruction stands in the block's last executed slot (R134, R138). -/
def Block.lastSlot (b : Block) (pc : DWord) : Bool :=
  spanOf pc == b.span + BitVec.ofNat 64 (128 * (b.len - 1)) && slotOf pc + 1 == b.slots
/-- Address of the next instruction, and whether it begins another block (R134, R137). -/
def Block.next (b : Block) (pc : DWord) : DWord × Bool :=
  if b.lastSlot pc then (b.fallThrough, true)
  else if slotOf pc = 11 then (spanOf pc + 128, false)
  else (pc + 1, false)

/-- A block of which nothing is known yet. -/
def Block.unknown : Block := ⟨0, 0, 0, 0, 0, false, false, false⟩

/-! Groups. -/

/-- Members with pos by ascending tid (R20). -/
def numbered (tids : List Nat) : List (Nat × Nat) := (List.range tids.length).zip (sortBy (fun a b => a ≤ b) tids)

def Group.tids (g : Group) : List Nat := g.members.map Prod.snd

/-- Threads leave a group; the others keep their pos; an empty group vanishes (R31, R32). -/
def Workgroup.leave (w : Workgroup) (grp : Nat) (tids : List Nat) : Workgroup :=
  match w.group? grp with
  | none => w
  | some g =>
    let ms := g.members.filter fun m => !tids.contains m.2
    let w := tids.foldl (fun w t => w.modThread t fun th => { th with blk := g.blk }) w
    if ms.isEmpty then w.dropGroup grp else w.setGroup { g with members := ms, parkedOn := g.parkedOn.filter fun t => !tids.contains t }

def Workgroup.setStatus (w : Workgroup) (tids : List Nat) (st : ThreadStatus) : Workgroup :=
  tids.foldl (fun w t => w.modThread t fun th => { th with status := st }) w

/-- A group formed of threads at a resume point: it waits for their outstanding results (R26, R29) and issues in a later ac
(R190). A group that has never issued counts as having issued when it was formed (DESIGN CHOICE, log 17: R22 rule 3 asks
which group has gone longest without issuing, and does not say how a new one counts). -/
def State.newGroup (s : State) (w : Workgroup) (tids : List Nat) (pc : DWord) : State :=
  let (id, s) := s.newId
  let now := s.clockOf w
  let entering := tids.any fun t => match w.thread? t with | some th => !th.midBlock | none => false
  let blk := match tids.head?.bind w.thread? with | some th => if entering then .unknown else th.blk | none => .unknown
  let g : Group := ⟨id, numbered tids, pc, blk, entering, max (w.quiet tids now) (now + 1), [], 0, 0, now, none, none,
    none, [], [], false⟩
  let w := w.setStatus tids .grouped
  let w := tids.foldl (fun w t => w.modThread t fun th => { th with pcc := th.pcc.follow pc }) w
  s.setWg { w with groups := w.groups ++ [g] }

/-! Bins (R24, R25). -/

def Bin.full (b : Bin) (w : Workgroup) : Bool :=
  match b.home with
  | some h => (w.liveOf h).all fun t => b.members.contains t.tid
  | none => w.w ≤ b.members.length

/-- The same bin: a bank's bins and those of the contexts saved from it differ in their workgroups. -/
def Bin.same (a b : Bin) : Bool := a.core == b.core && a.bank == b.bank && a.index == b.index && a.wg == b.wg

/-- form(B) of R24: one group of the bin's threads; the bin becomes free. -/
def State.formBin (s : State) (b : Bin) : State :=
  let s := { s with bins := s.bins.filter fun (x : Bin) => !x.same b }
  match s.wg? b.wg with
  | none => s
  | some w =>
    let w := if b.home.isSome then b.members.foldl (fun w t => w.modThread t fun th => { th with reformed := true }) w else w
    s.newGroup w b.members b.resume

/-- The bins of a bank. Those of a context that lies in a save slot have left with it (R34, R423). -/
def State.binsOf (s : State) (core bank : Nat) : List Bin :=
  s.bins.filter fun b => b.core == core && b.bank == bank
    && (match s.wg? b.wg with | some w => w.saved.isNone | none => false)

/-- Of two bins the one that is formed first: the older, and of two of one age that of the lower index (DESIGN CHOICE,
log 17: R25 does not say which of equally old bins is the oldest). -/
def Bin.before (a b : Bin) : Bool := a.since < b.since || (a.since == b.since && a.index < b.index)
/-- The oldest non-empty bin (R25). -/
def oldestBin (bs : List Bin) : Option Bin :=
  bs.foldl (fun acc b =>
    match acc with
    | none => some b
    | some a => if b.before a then some b else some a) none

/-- The least bin number of 0-15 not in use. -/
def freeIndex (bs : List Bin) : Option Nat := (List.range 16).find? fun i => !(bs.any fun b => b.index == i)

/-- Puts a thread into a bin and forms the bin when it is full. -/
def State.intoBin (s : State) (b : Bin) (tid : Nat) : State :=
  let b := { b with members := if b.members.contains tid then b.members else b.members ++ [tid] }
  let s := { s with bins := (s.bins.filter fun (x : Bin) => !x.same b) ++ [b] }
  match s.wg? b.wg with
  | some w => if b.full w then s.formBin b else s
  | none => s

/-- file(T, K) of R24, with R25 when no bin is free. -/
def State.file (s : State) (wg tid : Nat) (resume : DWord) (home : Option Nat) : State :=
  match s.wg? wg with
  | none => s
  | some w =>
    let s := s.setWg (w.setStatus [tid] .filed)
    let mine := s.binsOf w.core w.bank
    match mine.find? fun b => b.wg == wg && b.resume == resume && b.home == home with
    | some b => s.intoBin b tid
    | none =>
      let fresh (i : Nat) : Bin := ⟨w.core, w.bank, i, wg, resume, home, s.clockOf w, []⟩
      match freeIndex mine with
      | some i => s.intoBin (fresh i) tid
      | none =>
        match oldestBin mine with
        | some b => (s.formBin b).intoBin (fresh b.index) tid
        | none => s

/-- A bin that REFORM filled is judged again when a thread of its home group ends (R27). -/
def State.recheckBins (s : State) (wg : Nat) : State :=
  match s.wg? wg with
  | none => s
  | some w =>
    match s.bins.find? fun b => b.wg == wg && b.home.isSome && b.full w && !b.members.isEmpty with
    | some b => s.formBin b
    | none => s

/-- Sends a thread to its resume point inside or after its block (R31, R32, R419). -/
def State.resumeAt (s : State) (wg tid : Nat) (pc : DWord) (newBlock : Bool) (via : DWord) : State :=
  match s.wg? wg with
  | none => s
  | some w =>
    let s := s.setWg (w.modThread tid fun t => { t with midBlock := !newBlock, via := if newBlock then via else t.via })
    s.file wg tid pc none

/-! Wait tags (R160-R162). -/

def Thread.setTag (t : Thread) (tag : Nat) (pending : Bool) : Thread :=
  if tag = 0 ∨ 6 < tag then t else { t with tags := setBit6 t.tags (tag - 1) pending }
def Workgroup.setTag (w : Workgroup) (tid tag : Nat) (pending : Bool) : Workgroup :=
  w.modThread tid fun t => t.setTag tag pending
def State.modWg (s : State) (wg : Nat) (f : Workgroup → Workgroup) : State :=
  match s.wg? wg with
  | some w => s.setWg (f w)
  | none => s
/-- Register writes land and the tag completes. -/
def State.complete (s : State) (wg tid tag : Nat) (ws : List Wr) : State :=
  s.modWg wg fun w => (ws.foldl Workgroup.land w).setTag tid tag false

end Sys2Proof.Machine
end

