-- ==== Sys2Proof/Machine/Objects.lean ====
section
/-! DEFINITION. Kernel objects (spec/19 R387-R391): live headers, endpoints with their buffers, notifications and their
bindings, interrupt lines, Hall events; delivery of messages (spec/11 R272-R276), the revoked test (spec/21 R429, R433),
health counters (spec/24 R473). -/

namespace Sys2Proof.Machine

/-! Health counters, in the order of Table 24.6. -/

def hEccCorrected (d : Nat) : Nat := d
def hEccUncorrectable (d : Nat) : Nat := 4 + d
def hPoison (d : Nat) : Nat := 8 + d
def hIrqDropped : Nat := 12
def hFlitTag (port : Nat) : Nat := 13 + port
def hReplay (port : Nat) : Nat := 49 + port
def hPairsDown : Nat := 85
def hFenced (d : Nat) : Nat := 86 + d
def hThermal (d : Nat) : Nat := 90 + d
/-- A saturating count. -/
def satInc (x : Word) : Word := if x = 0xFFFFFFFF then x else x + 1
def State.count (s : State) (i : Nat) : State :=
  { s with th := { s.th with health := s.th.health.set i (satInc (s.th.health.getD i 0)) } }

/-! The revoked test. -/

/-- Whether a capability is revoked by a sweep of a range (R429). -/
def revokedBy (rlo rlen : Nat) (marked : List Nat) (c : Cap) : Bool :=
  c.valid && !c.remote && rlo ≤ c.base && c.base < rlo + rlen && NSet.has marked ((c.base - rlo) / 16)
/-- The write test: in force from the end of the start phase (R433). -/
def State.revoked (s : State) (c : Cap) : Bool :=
  match s.sweep with
  | some w => 2 ≤ w.phase && revokedBy w.rlo w.rlen w.marked c
  | none => false
def State.sift (s : State) (c : Cap) : Cap := if s.revoked c then { c with tag := false } else c

/-! Headers. -/

/-- The object's memory holds a live header of the type (R387). -/
def State.objLive (s : State) (pa type : Nat) : Bool :=
  (spaceOf pa == .hbm || spaceOf pa == .vault) && s.peek pa 1 == type && s.peek (pa + 1) 1 == 0
/-- The header's size, never more than omake gave the object: software that overwrites the header reaches nothing beyond it
(R11, R387). DESIGN CHOICE (log 77). -/
def State.objSize (s : State) (pa : Nat) : Nat :=
  match s.sizes.find? fun x => x.1 == pa with
  | some x => min (s.peek (pa + 2) 6) x.2
  | none => s.peek (pa + 2) 6

/-- The object that a sealed capability names: its cursor, which sealing fixes (R59, R388); the bounds may be rounded.
Objects are named by physical address. -/
def Cap.objPa (c : Cap) : Nat := c.cursor.toNat

/-! Interrupt files (R380). -/

def IntFile.raise (f : IntFile) (i : Nat) : IntFile :=
  if i = 0 ∨ 255 < i then f else { f with pending := f.pending ||| ((1 : BitVec 256) <<< i) }
def State.raiseInt (s : State) (hart : Nat) (level : IntLevel) (i : Nat) : State :=
  match s.hart? hart with
  | none => s
  | some h =>
    match level with
    | .m => s.setHart { h with mfile := h.mfile.raise i }
    | .s => s.setHart { h with sfile := h.sfile.raise i }

/-! Hall events (R264). -/

/-- The Hall sends an event to its die's table endpoint; without a live endpoint it is suppressed (Table 19.7). An event
that finds the endpoint full is kept until `flushEvents` finds room (log 7). -/
def State.hallEvent (s : State) (die label : Nat) (vals : List Word) : State :=
  { s with hallEvents := s.hallEvents ++ [⟨die, label, (vals ++ List.replicate 5 0).take 5⟩] }

def loWord (x : Nat) : Word := BitVec.ofNat 32 x
def hiWord (x : Nat) : Word := BitVec.ofNat 32 (x / 2 ^ 32)

/-- Registers a wait and reports the first overflow (R260, Table 11.5). -/
def State.registerWait (s : State) (die kind obj qual batch : Nat) (p : Party) (h : Holders) (faultWait : Bool) :
    State × Option Nat :=
  match s.register die kind obj qual batch p h faultWait with
  | (s, .entry id) => (s, some id)
  | (s, .full first) =>
    (if first then s.hallEvent die 1 [BitVec.ofNat 32 die, (s.hall die).wfovf, s.identity p, loWord obj, hiWord obj] else s,
      none)

/-! Requests that an object ends. -/

/-- Whether it is still open if the lane completes, waits or faults. A lane that will fault issues nothing until the fault
reaches it, but holds back no other lane. -/
def Request.undecided (r : Request) : Bool :=
  r.unresolved && (match r.phase with | .failed .. => false | _ => true)

/-- Lanes of an instruction that wait park when its last lane is decided: intact when every lane waits, else alone
(R31). BAR and the gang instructions park their whole fragment, apart from threads whose guard is false (R38, R267). -/
def State.settleBatch (s : State) (r : Request) : State :=
  match r.who with
  | .thread wg _ =>
    let rs := s.reqs.filter fun q => q.batch == r.batch
    if rs.any Request.undecided then s
    else
      match s.wg? wg with
      | none => s
      | some w =>
        match w.group? r.grp with
        | none => s
        | some g =>
          let waits := (rs.filter fun q => q.phase == .waiting).filterMap fun q =>
            match q.who with | .thread _ t => if g.tids.contains t then some t else none | _ => none
          let goes := rs.any fun q => match q.phase with | .done _ _ => true | _ => false
          let whole := match r.op with | .barrier .. => true | .gangWait .. => true | .twait .. => true | _ => false
          if waits.isEmpty then s
          else if whole then
            let frag := rs.filterMap fun q => match q.who with | .thread _ t => some t | _ => none
            let alone := match r.op with | .twait .. => false | _ => !(g.tids.all fun t => frag.contains t)
            if alone then
              let (id, s) := s.newId
              let mine := g.members.filter fun m => frag.contains m.2
              let rest := g.members.filter fun m => !frag.contains m.2
              s.setWg { w.setGroup { g with members := rest } with
                groups := (w.setGroup { g with members := rest }).groups ++ [{ g with id := id, members := mine, parkedOn := waits }] }
            else s.setWg (w.setGroup { g with parkedOn := waits })
          else if goes then s.setWg ((w.leave g.id waits).setStatus waits .parked)
          else s.setWg (w.setGroup { g with parkedOn := waits })
  | _ => s


/-- The acquire steps of a completed request (R119): at `.pkg` or wider its die's copies are written back and invalidated. -/
def State.acquireFor (s : State) (r : Request) : State :=
  match r.who with
  | .thread _ _ => if r.order = 2 ∧ 3 ≤ r.scope then s.invalidateDie (dieOfCore r.core) else s
  | _ => s
/-- When this was the lane still undecided, the others of its instruction that wait now park. -/
def State.settleAfter (s : State) (r : Request) : State := if r.undecided then s.settleBatch r else s
def State.finish (s : State) (r : Request) (ws : List Wr) (m : Option Msg) : State :=
  (((s.leaveWaits r.who r.batch).setReq { r with phase := .done ws m, unresolved := false }).acquireFor r).settleAfter r
def State.fail (s : State) (r : Request) (f : FaultInfo) : State :=
  ((s.leaveWaits r.who r.batch).setReq { r with phase := .failed f.code f.addr f.aux0 f.aux1 f.aux2 }).settleAfter r

/-- A register write that needs no completion: a report predicate. -/
def State.landNow (s : State) (r : Request) (ws : List Wr) : State :=
  match r.who with
  | .thread wg _ => s.modWg wg fun w => ws.foldl Workgroup.land w
  | _ => s

/-- Requests that wait at an object, their walks in flight or ended (R278), in the order in which they began to wait. -/
def State.parkedAt (s : State) (obj : Nat) : List Request :=
  s.reqs.filter fun r => r.obj == obj && (r.phase == .waiting || r.phase == .registering)
/-- A request begins to wait: it goes to the end of the order. -/
def State.parkLast (s : State) (r : Request) : State :=
  { s with reqs := (s.reqs.filter fun x => x.id != r.id) ++ [r] }

/-- The true report predicate (R260), or its false. -/
def Request.report (r : Request) (b : Bool) : List Wr :=
  match r.who with
  | .thread _ tid => [.p tid r.pred b]
  | _ => []

/-- The report predicate of a request that is served: written already when it waited registered or not (R260). -/
def Request.lateReport (r : Request) : List Wr := if r.phase == .waiting || r.pred == 7 then [] else r.report true

/-- Not yet performed, and not waiting at its object. -/
def Request.unperformed (r : Request) : Bool :=
  match r.phase with
  | .releasing _ => true
  | .sent => true
  | .half _ => true
  | .travelling => true
  | _ => false

/-! Waiting (R260). -/

/-- t0<32> of a hart that waits: 1 when the wait is not registered (R378). -/
def State.hartFlag (s : State) (p : Party) (registered : Bool) : State :=
  let put (n : Nat) : State := match s.hart? n with
    | some h => s.setHart { h with x := h.x.set 5 ((h.x.getD 5 0 &&& ~~~(0x100000000 : DWord)) ||| (if registered then 0 else 0x100000000)) }
    | none => s
  match p with
  | .hart n => put n
  | .hartSlot n _ => put n
  | _ => s

/-- The wait stands, registered or not: the report predicate is written and the lane parks (R260). For a hart `pred` keeps
that its wait is not registered. -/
def State.beginWait (s : State) (r : Request) (registered : Bool) : State :=
  let s := if r.pred = 7 then s else s.landNow r (r.report registered)
  let s := s.hartFlag r.who registered
  let isHart := match r.who with | .hart _ => true | .hartSlot _ _ => true | _ => false
  let r := { r with phase := .waiting, unresolved := false, pred := if isHart && !registered then 1 else r.pred }
  (s.setReq r).settleBatch r

/-! Release steps (R118). -/

/-- Whether the destination of a channel lies in the instance of a scope that holds a core (R108, R118). -/
def Chan.within (c : Chan) (scope core : Nat) : Bool :=
  let d := dieOfCore core
  let sameAs (k : Nat) : Bool :=
    match scope with
    | 0 => k == core
    | 1 => dieOfCore k == d && k % 256 / 4 == core % 256 / 4
    | 2 => dieOfCore k == d
    | _ => true
  match c with
  | .scratch k => sameAs k
  | .vault k => sameAs k
  | .slice die q =>
    match scope with
    | 0 => false
    | 1 => die == d && q == core % 256 / 4
    | 2 => die == d
    | _ => true
  | .control => 3 ≤ scope
  | .fabric _ => 4 ≤ scope

/-- Whether a request has release steps to make before it is performed (R118). -/
def Request.releases (r : Request) : Bool :=
  match r.op with
  | .fence _ rel => rel
  | _ => r.order == 3

def State.usedOf (s : State) : Party → List Chan
  | .thread wg tid => match (s.wg? wg).bind fun w => w.thread? tid with | some t => t.used.map Prod.fst | none => []
  | _ => []

/-- Probes answered, a release drops the channels within its scope that no later request has used (R118). -/
def State.dropUsed (s : State) (r : Request) : State :=
  match r.who with
  | .thread wg tid =>
    s.modWg wg fun w => w.modThread tid fun t =>
      { t with used := t.used.filter fun u => !u.1.within r.scope r.core || decide (r.id < u.2) }
  | _ => s

/-- The steps of a release before its own write, its probes answered (R118): at `.pkg` or wider the die's copies are written
back. -/
def State.release (s : State) (r : Request) : State :=
  (match r.who with
    | .thread _ _ => if 3 ≤ r.scope then s.writeBackDie (dieOfCore r.core) else s
    | _ => s).dropUsed r
/-- Those steps, made once when a request is about to be performed. -/
def State.releaseFor (s : State) (r : Request) : State := if r.releases && r.phase == .sent then s.release r else s

/-! Notifications (R276, R382). -/

def State.noteWaiting (s : State) (pa : Nat) : List Request :=
  (s.parkedAt pa).filter fun r => match r.op with | .nwait _ => true | _ => false

def nwaitMask (m : Word) : Word := if m = 0 then 0xFFFFFFFF else m

/-- A word value as a message to a hart, or as a register write to a thread (R276, R377). -/
def State.giveBits (s : State) (r : Request) (x : Word) : State :=
  let ws := match r.who with
    | .thread _ tid => wrByte tid r.data x :: r.lateReport
    | _ => []
  s.finish r ws (some ⟨0, [x], none, none, false, r.who⟩)

/-- Serves parked NWAITs, highest effective priority first; `fuel` bounds their number. -/
def State.serveNotes (pa : Nat) : Nat → State → List Nat → State
  | 0, s, _ => s
  | fuel + 1, s, tried =>
    match s.chooseReq ((s.noteWaiting pa).filter fun r => !tried.contains r.id) with
    | none => s
    | some r =>
      let m := match r.op with | .nwait m => nwaitMask m | _ => 0
      let word := BitVec.ofNat 32 (s.peek (pa + 16) 4)
      let s := if word &&& m = 0 then s else
        (s.poke (pa + 16) 4 (word &&& ~~~m).toNat).giveBits r (word &&& m)
      serveNotes pa fuel s (r.id :: tried)

/-- The binding's file write, when an update makes the masked word nonzero (R382). -/
def State.bindSignal (s : State) (pa : Nat) (old new : Word) : State :=
  let b := BitVec.ofNat 32 (s.peek (pa + 24) 4)
  let m := BitVec.ofNat 32 (s.peek (pa + 28) 4)
  if b.getLsbD 31 && (old &&& m) == 0 && (new &&& m) != 0 then
    s.raiseInt (b.extractLsb' 24 5).toNat (if b.getLsbD 23 then .m else .s) (b.extractLsb' 0 8).toNat
  else s

/-- NSIG on the NOTIFY at `pa`: bits ORed, binding, waiters (R276). -/
def State.nsig (s : State) (pa : Nat) (bits : Word) : State :=
  let old := BitVec.ofNat 32 (s.peek (pa + 16) 4)
  let s := s.poke (pa + 16) 4 (old ||| bits).toNat
  let s := s.bindSignal pa old (old ||| bits)
  State.serveNotes pa (s.noteWaiting pa).length s []

/-- A device signal to a NOTIFY that software names by address: dropped and counted without a live header (R390, R391). -/
def State.signal (s : State) (pa bit : Nat) : State :=
  if s.objLive pa 3 then s.nsig pa ((1 : Word) <<< (bit % 32)) else s.count hIrqDropped

/-- An internal line rises (R390). -/
def State.assertLine (s : State) (line : Nat) : State :=
  match s.lines.find? fun l => l.1 == line with
  | none => s
  | some (_, pa) =>
    if !s.objLive pa 6 then s
    else s.signal (s.peek (pa + 24) 8) (s.peek (pa + 32) 4)

/-! Endpoints. -/

def State.ep? (s : State) (pa : Nat) : Option EpState := s.eps.find? fun e => e.pa == pa
def State.ep (s : State) (pa : Nat) : EpState := (s.ep? pa).getD ⟨pa, [], none⟩
def State.setEp (s : State) (e : EpState) : State := { s with eps := (s.eps.filter fun x => x.pa != e.pa) ++ [e] }

/-- The scope, read at the first operation and then fixed (R387). -/
def State.epScope (s : State) (pa : Nat) : Nat × State :=
  let e := s.ep pa
  match e.scope with
  | some n => (n, s)
  | none => let n := s.peek (pa + 16) 1; (n, s.setEp { e with scope := some n })
def State.noteScope (s : State) (pa : Nat) : Nat × State :=
  match (s.notes.find? fun n => n.pa == pa).bind NotifyState.scope with
  | some n => (n, s)
  | none =>
    let n := s.peek (pa + 20) 1
    (n, { s with notes := (s.notes.filter fun x => x.pa != pa) ++ [⟨pa, some n⟩] })

def State.epSlots (s : State) (pa : Nat) : Nat := (s.objSize pa - 128) / 128

/-- The message word (Table 11.8). -/
def Msg.word (m : Msg) : Word :=
  BitVec.ofNat 32 (m.label.toNat + m.vals.length * 2 ^ 20 + (if m.cap0.isSome then 2 ^ 25 else 0)
    + (if m.cap1.isSome then 2 ^ 26 else 0) + (if m.call then 2 ^ 27 else 0))

/-- The registers that delivery writes (R273): values, zeros, capabilities, the message word. -/
def deliverWrites (tid v count kx0 kx1 : Nat) (m : Msg) : List Wr :=
  ((List.range count).map fun i => wrByte tid (v + i) (m.vals.getD i 0))
    ++ [wrByte tid (v + count) m.word]
    ++ (if kx0 = 0 then [] else [.k tid kx0 (m.cap0.getD .null) false])
    ++ (if kx1 = 0 then [] else [.k tid kx1 (m.cap1.getD .null) false])

/-- Applies the write test to a message's capabilities (R433). -/
def State.siftMsg (s : State) (m : Msg) : Msg := { m with cap0 := m.cap0.map s.sift, cap1 := m.cap1.map s.sift }

/-- Whether the party already owes a reply (R275). -/
def State.slotFull (s : State) : Party → Bool
  | .thread wg tid => match (s.wg? wg).bind fun w => w.thread? tid with | some t => t.slot.isSome | none => false
  | .hart n =>
    match s.hart? n with
    | some h => (h.slots.getD h.kslot.toNat .reset).owed.isSome
    | none => false
  | _ => false

def Hart.setSlot (h : Hart) (i : Nat) (m : MsgSlot) : Hart := { h with slots := h.slots.set i m }

/-- Puts a caller into the party's reply slot, or empties it. -/
def State.setOwed (s : State) (p : Party) (c : Option Party) : State :=
  match p with
  | .thread wg tid => s.modWg wg fun w => w.modThread tid fun t => { t with slot := c }
  | .hart n =>
    match s.hart? n with
    | some h => s.setHart (h.setSlot h.kslot.toNat { h.slots.getD h.kslot.toNat .reset with owed := c })
    | none => s
  | _ => s

/-- The caller's outstanding call. -/
def State.callOf (s : State) (p : Party) : Option Request :=
  s.reqs.find? fun r => r.who == p && (match r.op with | .awaitReply .. => r.phase == .waiting || r.phase == .registering | _ => false)

/-- The endpoint through which a caller's outstanding call went: an interrupted hart's slot keeps it (R379). -/
def State.callEndpoint (s : State) (p : Party) : Option Nat :=
  match s.callOf p, p with
  | some r, _ => some r.obj
  | none, .hartSlot n i => (s.hart? n).bind fun h => (h.slots.getD i .reset).pending
  | none, _ => none

/-- Die of an object's wait-table for a party: that of the waiters, or of the object for a hart (R258, spec/18). -/
def State.tableDie (s : State) (p : Party) (obj : Nat) : Nat :=
  match s.wgOf p with
  | some w => dieOfCore w.core % 4
  | none => if homeOf obj = 4 then 0 else homeOf obj

/-- The caller's wait becomes kind 6 with the receiver as holder (R274); where it finds the table full it stands unregistered
(R260). That of a fault message closes no cycle of its thread's (R416). -/
def State.toReplyWait (s : State) (caller receiver : Party) : State :=
  match s.callOf caller with
  | none => s
  | some r =>
    let s := s.leaveWaits r.who r.batch
    match s.registerWait (s.tableDie r.who r.obj) 6 r.obj 0 r.batch r.who (.parties [receiver]) r.faultCall with
    | (s, some _) => if r.faultCall then s else s.setReq { r with phase := .registering, unresolved := true }
    | (s, none) => if r.faultCall then s else s.beginWait r false

/-- Delivers a message to a receiver's request; a call fills its reply slot (R273, R275). -/
def State.deliver (s : State) (r : Request) (m : Msg) : State :=
  let m := s.siftMsg m
  let ws := match r.who, r.op with
    | .thread _ tid, .recv count kx0 kx1 =>
      deliverWrites tid r.data count kx0 kx1 m ++ r.lateReport
    | _, _ => []
  let s := s.finish r ws (some m)
  if m.call then (s.setOwed r.who (some m.sender)).toReplyWait m.sender r.who else s

/-- A call that the endpoint has taken awaits its reply, whose receipt acquires (R273, R274). `size` holds its count and
`kreg` its capability registers. -/
def Request.awaiting (r : Request) : Request :=
  { r with op := .awaitReply r.size (r.kreg % 16) (r.kreg / 16), phase := .waiting, order := 2 }

/-- Receivers that wait at an endpoint. -/
def State.epReceivers (s : State) (pa : Nat) : List Request :=
  (s.parkedAt pa).filter fun r => match r.op with | .recv .. => true | _ => false
/-- Senders that wait for room at an endpoint. -/
def State.epSenders (s : State) (pa : Nat) : List Request :=
  (s.parkedAt pa).filter fun r => match r.op with | .send _ => true | _ => false

def endpointFault (r : Request) (cause : Nat) : FaultInfo := .of cENDPOINT r.auth cause 0

/-- Writes a message into buffer slot i (Table 19.4). -/
def State.bufferAt (s : State) (pa i : Nat) (m : Msg) : State :=
  let m := s.siftMsg m
  let a := pa + 128 + 128 * i
  let s := s.putCap a (m.cap0.getD .null) false
  let s := s.putCap (a + 16) (m.cap1.getD .null) false
  let s := (List.range 8).foldl (fun s j => s.poke (a + 32 + 4 * j) 4 (m.vals.getD j 0).toNat) s
  let s := s.poke (a + 64) 4 m.word.toNat
  let s := s.poke (a + 68) 4 (s.identity m.sender).toNat
  let e := s.ep pa
  s.setEp { e with order := e.order ++ [(i, m.sender)] }

/-- Reads a buffered message back. -/
def State.buffered (s : State) (pa i : Nat) (sender : Party) : Msg :=
  let a := pa + 128 + 128 * i
  let w := BitVec.ofNat 32 (s.peek (a + 64) 4)
  { label := w.extractLsb' 0 20
    vals := (List.range (w.extractLsb' 20 4).toNat).map fun j => BitVec.ofNat 32 (s.peek (a + 32 + 4 * j) 4)
    cap0 := if w.getLsbD 25 then some (s.capAt a) else none
    cap1 := if w.getLsbD 26 then some (s.capAt (a + 16)) else none
    call := w.getLsbD 27
    sender := sender }

def State.freeSlot (s : State) (pa : Nat) : Option Nat :=
  (List.range (s.epSlots pa)).find? fun i => !((s.ep pa).order.any fun o => o.1 == i)

/-- The endpoint's bound notification (R391): read at each buffering. -/
def State.epSignal (s : State) (pa : Nat) : State :=
  let target := s.peek (pa + 24) 8
  if target = 0 then s else s.signal target (s.peek (pa + 32) 4)

/-- How an endpoint took a message. -/
inductive Offer where
  | delivered | buffered | refused
  deriving DecidableEq, Repr

/-- Offers a message (R274): a waiting receiver, else a buffer slot. A receiver that would take a call with a full reply
slot faults first (R275); `fuel` bounds the receivers. -/
def State.offer (pa : Nat) (m : Msg) : Nat → State → State × Offer
  | 0, s => (s, .refused)
  | fuel + 1, s =>
    match s.chooseReq (s.epReceivers pa) with
    | some r =>
      if m.call && s.slotFull r.who then State.offer pa m fuel (s.fail r (endpointFault r 1))
      else (s.deliver r m, .delivered)
    | none =>
      match s.freeSlot pa with
      | some i => ((s.bufferAt pa i m).epSignal pa, .buffered)
      | none => (s, .refused)

/-- A call whose sender waits for its reply; the Hall's do not (R44, R402). -/
def Request.awaitsReply (r : Request) (m : Msg) : Bool := m.call && (match r.who with | .hall _ => false | _ => true)

/-- The endpoint has taken a message of a parked sender: a call awaits its reply, its walk going on if it is in flight;
another send ends, its report written then (R260, R274). -/
def State.senderTaken (s : State) (r : Request) (m : Msg) : State :=
  if r.awaitsReply m then s.setReq { r.awaiting with phase := r.phase }
  else (if r.phase == .registering then s.hartFlag r.who true else s).finish r r.lateReport none

/-- Parked senders move into freed slots, each a buffering that signals the bound notification (R274, R391); `fuel` bounds
them. -/
def State.refill (pa : Nat) : Nat → State → State
  | 0, s => s
  | fuel + 1, s =>
    match s.freeSlot pa, s.chooseReq (s.epSenders pa) with
    | some i, some r =>
      match r.op with
      | .send m => State.refill pa fuel (((s.bufferAt pa i m).epSignal pa).senderTaken r m)
      | _ => s
    | _, _ => s

/-- The oldest message that a receiver may take: buffered, else a parked sender's (R274). -/
def State.epNext (s : State) (pa : Nat) : Option Msg :=
  match (s.ep pa).order with
  | (i, p) :: _ => some (s.buffered pa i p)
  | [] =>
    match s.chooseReq (s.epSenders pa) with
    | some r => match r.op with | .send m => some m | _ => none
    | none => none

/-- Takes that message away. -/
def State.epTake (s : State) (pa : Nat) : State :=
  let e := s.ep pa
  match e.order with
  | _ :: rest =>
    let s := s.setEp { e with order := rest }
    State.refill pa (s.epSenders pa).length s
  | [] =>
    match s.chooseReq (s.epSenders pa) with
    | some r =>
      match r.op with
      | .send m => s.senderTaken r m
      | _ => s
    | none => s

/-- A receive tries the endpoint: true when it has ended, with a message or a fault. -/
def State.tryRecv (s : State) (r : Request) : State × Bool :=
  match s.epNext r.obj with
  | none => (s, false)
  | some m =>
    if m.call && s.slotFull r.who then (s.fail r (endpointFault r 1), true)
    else ((s.epTake r.obj).deliver r m, true)

/-- A send or call tries the endpoint (R274). The call's request goes on to await its reply; `size` is its count and
`kreg` its capability registers. -/
def State.offerReq (s : State) (r : Request) (m : Msg) : State × Offer :=
  if r.awaitsReply m then
    match State.offer r.obj m ((s.epReceivers r.obj).length + 1) (s.setReq r.awaiting) with
    | (s, .refused) => (s.setReq r, .refused)
    | x => x
  else
    match State.offer r.obj m ((s.epReceivers r.obj).length + 1) s with
    | (s, .refused) => (s, .refused)
    | (s, o) => (s.finish r (r.report true) none, o)
/-- Whether the endpoint has taken it. -/
def State.trySend (s : State) (r : Request) (m : Msg) : State × Bool :=
  match s.offerReq r m with
  | (s, o) => (s, o != .refused)

/-- This package's number (R458). -/
def State.ownPkg (s : State) : Nat := (s.th.pkgid.extractLsb' 0 9).toNat
/-- Other packages of the pod (R458): numbers below the package count. -/
def State.podOthers (s : State) : List Nat :=
  if s.th.pkgid.getLsbD 15 then (List.range (s.th.pkgid.extractLsb' 16 9).toNat).filter fun p => p != s.ownPkg else []
/-- Resealed for another package (R57); outside a pod none is formed (R458). What has no tag crosses as data, unchanged (R272). -/
def State.reseal (s : State) (c : Cap) : Cap :=
  if !c.tag || c.remote then c
  else { c with otype := BitVec.ofNat 18 (0x20000 + s.ownPkg), tag := c.valid && s.th.pkgid.getLsbD 15 }
/-- A message's values as bytes. -/
def Msg.valueBytes (m : Msg) : List Byte := (m.vals.map fun v => bytesOfNat 4 v.toNat).flatten

/-- Bit n of a doubleword set to b. -/
def setBit64 (x : DWord) (n : Nat) (b : Bool) : DWord :=
  let m : DWord := (1 : DWord) <<< n
  if b then x ||| m else x &&& ~~~m

/-! Pairs of packages and their flits (R456, R457, R466): a pair is listed when it differs from a fresh one. -/

def PairDir.fresh : PairDir := ⟨none, 0, false, 0⟩
def Pair.fresh (pkg : Nat) : Pair := ⟨pkg, false, .fresh, .fresh, 0, none, [], [], []⟩
def State.pair (s : State) (pkg : Nat) : Pair := (s.th.pairs.find? fun p => p.pkg == pkg).getD (.fresh pkg)
def State.setPair (s : State) (p : Pair) : State :=
  { s with th := { s.th with pairs := (s.th.pairs.filter fun x => x.pkg != p.pkg) ++ [p] } }
/-- The 64-bit flit sequence, whose bit 63 is the key phase, and the GCM nonce (R466). -/
def PairDir.seqField (d : PairDir) : DWord := setBit64 (BitVec.ofNat 64 (d.seq % 2 ^ 63)) 63 d.phase
def PairDir.nonce (d : PairDir) : BitVec 96 := d.epoch ++ d.seqField
/-- A flit of a class leaves for a package through a port, the next of its direction (R456, R466). -/
def State.sendFlit (s : State) (pkg cls port : Nat) : State :=
  let p := s.pair pkg
  let f : Flit := ⟨cls, pkg, s.ownPkg, port, p.out.seqField, Config.flitTag p.out.key p.out.nonce⟩
  s.setPair { p with out := { p.out with seq := p.out.seq + 1 }, sent := p.sent ++ [f] }
/-- A message of a class leaves for a package. -/
def State.fabric (s : State) (pkg cls port : Nat) (o : Outgoing) : State := (s.sendFlit pkg cls port).outbox o

/-- The answer to another package's request leaves: what was read, or a fault's code and detail (R126, R248). -/
def State.answerRemote (s : State) (pkg req : Nat) (bytes : List Byte) (c0 c1 : Option Cap) (code detail : Nat) : State :=
  s.fabric pkg 1 0 (.remoteReply pkg req bytes c0 c1 code detail)

/-- A reply reaches the caller that a slot held (R274, R275, R379); false when the caller is gone. -/
def State.replyTo (s : State) (caller : Party) (m : Msg) : State × Bool :=
  let m := s.siftMsg m
  match s.callOf caller with
  | some r =>
    let ws := match r.who, r.op with
      | .thread _ tid, .awaitReply count kx0 kx1 => deliverWrites tid r.data count kx0 kx1 m ++ r.lateReport
      | _, _ => []
    (s.finish r ws (some m), true)
  | none =>
    match caller with
    | .hartSlot n i =>
      match s.hart? n with
      | some h =>
        let sl := h.slots.getD i .reset
        if sl.pending.isSome then (s.setHart (h.setSlot i { sl with held := some m }), true) else (s, false)
      | none => (s, false)
    | .remote pkg req => (s.answerRemote pkg req m.valueBytes (m.cap0.map s.reseal) (m.cap1.map s.reseal) 0 0, true)
    | _ => (s, false)

/-- Events that found their endpoint full are offered again (R264). -/
def State.flushEvents (s : State) : State :=
  s.hallEvents.foldl (fun s e =>
    let pa := (s.hall e.die).tblep.toNat
    if !s.objLive pa 2 then s
    else
      match State.offer pa ⟨BitVec.ofNat 20 e.label, e.vals, none, none, false, .hall e.die⟩
          ((s.epReceivers pa).length + 1) s with
      | (s, .refused) => { s with hallEvents := s.hallEvents ++ [e] }
      | (s, _) => s) { s with hallEvents := [] }

end Sys2Proof.Machine
end

