-- ==== Sys2Proof/Machine/Faults.lean ====
section
/-! DEFINITION. Taking a fault and ending (spec/20 R416-R419, spec/01 R32, R33, R40, R44): the faulting thread leaves its
group, is held and sends its message; a reply resumes, skips or terminates; a thread's end and what follows from it; cycle
records (spec/11 R263). -/

namespace Sys2Proof.Machine

/-- Where an instruction stands: its address, and where its thread goes when it is skipped. -/
structure Site where
  pc : DWord
  skipPc : DWord
  skipNew : Bool
  place : FaultAt
  deriving DecidableEq, Repr

/-- What has still to be done to threads when one faults or ends. -/
inductive Act where
  | fault (wg tid : Nat) (f : FaultInfo) (at_ : Site)
  /-- The thread is terminated. -/
  | stop (wg tid : Nat)
  /-- The thread ends by EXIT (R33): its results of fixed latency still land. -/
  | leave (wg tid : Nat)
  deriving Repr

/-- The fault message (Table 20.5). -/
def faultMsg (code : BitVec 8) (engine ended : Bool) (pc addr : DWord) (aux0 aux1 aux2 who : Word) (sender : Party) : Msg :=
  { label := (if ended then 0x200 else 0) ||| (if engine then 0x100 else 0) ||| code.zeroExtend 20
    vals := [pc.extractLsb' 0 32, pc.extractLsb' 32 32, addr.extractLsb' 0 32, addr.extractLsb' 32 32, aux0, aux1, aux2, who]
    cap0 := none
    cap1 := none
    call := true
    sender := sender }

/-- A request that only carries a message call of the device: a fault message (R416). -/
def callRequest (id : Nat) (who : Party) (core obj : Nat) (m : Msg) : Request :=
  { id := id, batch := id, who := who, launch := 0, name := 0, core := core, grp := 0, pos := 0, op := .send m, phase := .waiting, x := 0, pas := [],
    obj := obj, size := 0, order := 0, scope := 0, strong := true, io := false, cw := false, via := [], chans := [], data := 0,
    kreg := 0, pred := 7, auth := 6, lowest := false, tag := 0, dests := [], pc := 0, nextPc := 0, nextNew := false, unresolved := false,
    remote := none, faultCall := true }

/-- A fault message at its endpoint (R416): a receiver takes it and its caller awaits the reply (kind 6); else it is buffered,
or parks as a sender, which signals the bound notification (Table 18.8), and waits for a receiver (kind 5). -/
def State.callPerform (s : State) (r : Request) (m : Msg) : State :=
  let r := { r with phase := .waiting }
  match (s.setReq r).offerReq r m with
  | (s, .delivered) => s
  | (s, o) =>
    let s := if o = .refused then s.epSignal r.obj else s
    if !r.awaitsReply m then s
    else (s.registerWait (s.tableDie r.who r.obj) 5 r.obj 0 r.batch r.who .unknown true).1

/-- An earlier request of the party that its release waits for (R110, R118). -/
def State.busyWith (s : State) (who : Party) : Bool := s.reqs.any fun q => q.who == who && q.unperformed

/-- Sends a fault message as a CALLE on an endpoint capability, with a call's release at the endpoint's scope and its acquire
at the reply (R416, Table 4.5); false when it cannot be sent. Where its thread has nothing outstanding that the release waits
for, it reaches the endpoint at once. -/
def State.sendCall (s : State) (ep : Cap) (who : Party) (core : Nat) (m : Msg) : State × Bool :=
  if !(ep.valid && ep.otype == 2 && ep.has pINVOKE && s.objLive ep.objPa 2) then (s, false)
  else
    let (scope, s) := s.epScope ep.objPa
    let (id, s) := s.newId
    let r := { callRequest id who core ep.objPa m with order := 3, scope := scope }
    let probes := (s.usedOf who).filter fun c => c.within scope core
    if !probes.isEmpty then ({ s with reqs := s.reqs ++ [{ r with phase := .releasing probes }] }, true)
    else if s.busyWith who || s.th.quiescent then ({ s with reqs := s.reqs ++ [{ r with phase := .sent }] }, true)
    else
      let s := s.release r
      (({ s with reqs := s.reqs ++ [r] } : State).callPerform r m, true)

/-- A message of the device that awaits no reply: it goes to a live endpoint, where it waits for room (R44, R198, R402). It
has its call bit set as every fault message (R417), so that it fills a reply slot, whose reply finds nobody. -/
def State.lastMessage (s : State) (ep : Cap) (core : Nat) (m : Msg) : State :=
  if !(ep.valid && ep.otype == 2 && ep.has pINVOKE && s.objLive ep.objPa 2) then s
  else
    let hall := Party.hall (dieOfCore core)
    let m := { m with call := true, sender := hall }
    let (id, s) := s.newId
    let r := callRequest id hall core ep.objPa m
    match s.trySend r m with
    | (s, true) => s
    | (s, false) => { s.epSignal ep.objPa with reqs := s.reqs ++ [r] }

/-- Whether every engine operation that the workgroup started has completed (R44); one that waits for its acceptance has not
started (R287). -/
def State.drained (s : State) (w : Workgroup) : Bool := !(s.ops.any fun o => o.wg == w.id && o.phase != .waiting)

/-- Frees a workgroup's place, its declarations with it (R44, Table 11.6). -/
def State.removeWg (s : State) (id : Nat) : State :=
  let mine (e : WaitEntry) : Bool := e.kind == 12 && e.waiters.any fun p => match p with | .thread wg _ => wg == id | _ => false
  { s with wgs := s.wgs.filter fun w => w.id != id
           waits := s.waits.filter fun e => !mine e
           bins := s.bins.filter fun b => b.wg != id }

/-- The life cycle when no thread lives (Table 1.7): retired, draining, or kept while suspended. -/
def State.retire (s : State) (id : Nat) : State :=
  match s.wg? id with
  | none => s
  | some w =>
    if w.anyLive || w.life == .suspended || w.life == .loading then s
    else if w.prologue then
      match s.launch? w.launch with
      | some l => (s.removeWg id).setLaunch { l with state := .prologueEnded }
      | none => s.removeWg id
    else if s.drained w then s.removeWg id
    else s.setWg { w with life := .draining }

/-- The workgroup's bank is about to be swapped out: the end of its last thread comes in the ac of the pre-emption, which
takes effect first (R45). -/
def State.swapPending (s : State) (w : Workgroup) : Bool :=
  w.life == .running && (s.core w.core).swapRequested && (s.core w.core).active == w.bank

/-- A thread of the workgroup has ended, or an engine operation (R44, R45). -/
def State.retireCheck (s : State) (id : Nat) : State :=
  match s.wg? id with
  | none => s
  | some w => if s.swapPending w then s else s.retire id

/-- Workgroups of a core's active bank whose last thread has ended go, when no pre-emption has taken them (R44, R45). -/
def State.retireEnded (s : State) (core : Nat) : State :=
  ((s.wgs.filter fun w => w.core == core && w.bank == (s.core core).active && w.life == .running && !w.anyLive).map
    Workgroup.id).foldl State.retire s

/-! Cycle records (R263). -/

/-- The 512 bytes of a cycle record (Tables 11.3, 11.4). -/
def recordBytes (seq : DWord) (kind n : Nat) (closer : Word) (pairs : List (Nat × Nat × Nat × Word)) : List Byte :=
  let head := bytesOfNat 16 (seq.toNat * 2 ^ 64 + kind * 2 ^ 40 + n * 2 ^ 32 + closer.toNat)
  let body := (pairs.map fun (obj, qual, k, t) =>
    bytesOfNat 16 (obj * 2 ^ 64 + qual * 2 ^ 48 + k * 2 ^ 40 + t.toNat)).flatten
  (head ++ body ++ List.replicate 512 0).take 512

/-- Writes a record into the lowest free slot of a launch's area; none when it cannot be written. -/
def State.writeRecord (s : State) (l : Launch) (seat : Seat) (bytes : List Byte) : State × Option Nat :=
  match (List.range l.nfslot).find? fun i => !l.records.contains i with
  | none => (s, none)
  | some i =>
    match checkAccess s seat l.work 0 ((l.work.cursor.toNat : Int) + 512 * i)
        { perms := [pSTORE], n := 512, need := { w := true } } with
    | (s, .ok p) =>
      let s := s.engineWrite seat.die ((p.pas.zip bytes).map fun (a, b) => (a, b, false))
      (s.setLaunch { l with records := i :: l.records }, some i)
    | (s, _) => (s, none)

/-- The pairs of a cycle: pair 0 is the faulting thread and its object. -/
def State.cyclePairs (s : State) (e : WaitEntry) (path : List (Nat × Party)) : List (Nat × Nat × Nat × Word) :=
  (e.obj, e.qual, e.kind, s.pairIdentity e) :: path.reverse.filterMap fun (id, _) =>
    (s.wait? id).map fun w => (w.obj, w.qual, w.kind, s.pairIdentity w)

/-! Acts. -/

/-- Latches with an incomplete rendezvous, of which a listed home group has no live thread (R40). -/
def Workgroup.deadLatches (w : Workgroup) : List Latch :=
  w.latches.filter fun l => l.gang < 256 && l.op.isNone && (w.gangGroups l.gang).any fun h => (w.liveOf h).isEmpty

/-- Arrivals leave their latches; one without arrivals is empty (R38). -/
def Workgroup.dropArrivals (w : Workgroup) (gone : Arrival → Bool) : Workgroup :=
  { w with latches := (w.latches.map fun l => { l with arrivals := l.arrivals.filter fun a => !gone a }).filter fun l =>
      !l.arrivals.isEmpty }

/-- A request ends without a result: its waits end, and its tag completes (R161). -/
def State.endRequest (s : State) (r : Request) : State :=
  let s := (s.leaveWaits r.who r.batch).dropReq r.id
  match r.who with
  | .thread wg tid => s.modWg wg fun w => w.setTag tid r.tag false
  | _ => s

/-- Where a request's instruction stands, for its fault. -/
def Request.site (r : Request) (place : FaultAt) : Site := ⟨r.pc, r.nextPc, r.nextNew, place⟩

/-- Requests of threads end, and their threads fault. -/
def State.endRequests (s : State) (rs : List (Request × FaultInfo)) (place : FaultAt) : State × List Act :=
  (rs.foldl (fun s x => s.endRequest x.1) s,
    rs.filterMap fun x => match x.1.who with | .thread wg tid => some (.fault wg tid x.2 (x.1.site place)) | _ => none)

/-- An operation that has not been accepted, and that no thread waits for any more, never starts. -/
def State.dropUnstarted (s : State) (wg : Nat) : State :=
  { s with ops := s.ops.filter fun o =>
      !(o.wg == wg && o.phase == .waiting && o.arrivals.all fun id => (s.req? id).isNone) }

/-- The workgroup's group that holds a thread. -/
def Workgroup.groupOf (w : Workgroup) (tid : Nat) : Option Group := w.groups.find? fun g => g.tids.contains tid

/-- A thread leaves whatever holds it in the core. -/
def State.detach (s : State) (wg tid : Nat) : State :=
  let s := s.modWg wg fun w => match w.groupOf tid with | some g => w.leave g.id [tid] | none => w
  { s with bins := (s.bins.map fun b =>
      if b.wg == wg then { b with members := b.members.filter fun t => t != tid } else b).filter fun b => !b.members.isEmpty }

/-- Event 4: a held thread is terminated unanswered (R416). -/
def State.event4 (s : State) (wg tid : Nat) (code : BitVec 8) (pc : DWord) : State :=
  match s.wg? wg with
  | none => s
  | some w =>
    let d := dieOfCore w.core % 4
    s.hallEvent d 4 [BitVec.ofNat 32 d, threadIdentity w tid, code.zeroExtend 32, pc.extractLsb' 0 32, pc.extractLsb' 32 32]

/-- A prologue's fault (R402): the launch will be rejected, and a message that awaits no reply goes to its endpoint. The
identity word of a prologue's message is a free value (log 3). -/
def State.prologueFault (s : State) (w : Workgroup) (f : FaultInfo) (pc : DWord) : State :=
  match s.launch? w.launch with
  | none => s
  | some l =>
    let s := s.setLaunch { l with prologueFault := true }
    let (who, s) := s.fresh
    s.lastMessage l.fault w.core
      (faultMsg f.code false false pc f.addr f.aux0 f.aux1 f.aux2 (who.extractLsb' 0 32) (.hall (dieOfCore w.core)))

/-- A fault is counted when it is POISON (Table 24.6). -/
def State.countFault (s : State) (code : BitVec 8) (core : Nat) : State :=
  if code = cPOISON then s.count (hPoison (dieOfCore core % 4)) else s

/-- The fault of an operation that a thread issued and that it did not live to take: it is reported to the launch's fault
endpoint, the thread marked ended (R198); no reply is awaited (log 70). TEARDOWN sends no message (R425). -/
def State.endedFault (s : State) (r : Request) (f : FaultInfo) : State :=
  if f.code = cTEARDOWN then s
  else
    let s := s.countFault f.code r.core
    match s.launch? r.launch with
    | none => s
    | some l => s.lastMessage l.fault r.core (faultMsg f.code false true r.pc f.addr f.aux0 f.aux1 f.aux2 r.name r.who)

/-- A terminated thread's pending results are discarded with it (R164): those of its outstanding requests find it ended, and
these are the ones of fixed latency, of an s-register where it was the lowest lane, whose result stands (R49). -/
def State.discardPending (s : State) (wg tid : Nat) : State :=
  s.modWg wg fun w => { w with pend := w.pend.filter fun p =>
    !(match p.wr with
      | .v t _ _ _ => t == tid
      | .k t _ _ _ => t == tid
      | .p t _ _ => t == tid
      | _ => p.tids.head? == some tid) }

/-- A thread ends (R33, R44, R265, R275): its waits and its own requests that wait end, whoever it owed a reply is told, and
rendezvous that count on its home group are judged again (R40). -/
def State.threadEnds (s : State) (wg tid : Nat) : State × List Act :=
  match s.wg? wg with
  | none => (s, [])
  | some w =>
    match w.thread? tid with
    | none => (s, [])
    | some t =>
      if t.status = .ended then (s, [])
      else
        let p := Party.thread wg tid
        let s := s.detach wg tid
        let s := (s.modWg wg fun w => w.setStatus [tid] .ended).endWaits p
        let s := { s with reqs := s.reqs.filter fun r => !(r.who == p && (r.phase == .waiting || r.phase == .registering)) }
        let callers : State × List Act := match t.slot with
          | some (.thread cw ct) =>
            match (s.wg? cw).bind fun w => w.thread? ct with
            | some c =>
              match s.callOf (.thread cw ct), c.status with
              | some r, .held h =>
                ((s.leaveWaits r.who r.batch).dropReq r.id |>.event4 cw ct h.code h.pc, [.stop cw ct])
              | some r, _ => (s.fail r (endpointFault r 2), [])
              | none, _ => (s, [])
            | none => (s, [])
          | some (.hartSlot n i) =>
            match s.callOf (.hartSlot n i) with
            | some r => (s.fail r (endpointFault r 2), [])
            | none => (s, [])
          | some (.engine op) =>
            match s.callOf (.engine op) with
            | some r => (s.finish r [] (some ⟨0, [2], none, none, false, p⟩), [])
            | none => (s, [])
          | some (.remote pkg req) => (s.answerRemote pkg req [] none none cENDPOINT.toNat 2, [])
          | _ => (s, [])
        let s := ((callers.1.recheckBins wg).modWg wg fun w => w.dropArrivals fun a => a.tid == tid).dropUnstarted wg
        match s.wg? wg with
        | none => (s, callers.2)
        | some w =>
          let dead := (w.deadLatches.map Latch.arrivals).flatten
          let rs := dead.filterMap fun a => s.req? a.req
          let s := s.setWg (w.dropArrivals fun a => dead.contains a)
          match s.endRequests (rs.map fun r => (r, illegalOp 2)) .instr with
          | (s, faults) => (s.retireCheck wg, callers.2 ++ faults)

/-- One act: what it does, and what it leads to. -/
def State.act (s : State) : Act → State × List Act
  | .fault wg tid f site =>
    match s.wg? wg with
    | none => (s, [])
    | some w =>
      match w.thread? tid with
      | none => (s, [])
      | some t =>
        if t.status = .ended then (s, [])
        else if f.code = cTEARDOWN then (s.detach wg tid, [.stop wg tid])
        else if w.prologue then (((s.detach wg tid).countFault f.code w.core).prologueFault w f site.pc, [.stop wg tid])
        else
          let s := s.detach wg tid
          let s := s.countFault f.code w.core
          let record := if f.code = cDEADLOCK && f.aux0 != 0xFFFFFFFF then some (f.aux0.toNat / 512) else none
          let held : HeldRec := ⟨site.place, site.pc, site.skipPc, site.skipNew, f.code, none, record⟩
          let s := s.modWg wg fun w => w.setStatus [tid] (.held held)
          let m := faultMsg f.code false false site.pc f.addr f.aux0 f.aux1 f.aux2 (threadIdentity w tid) (.thread wg tid)
          match s.sendCall (w.kreg tid 6).cap (.thread wg tid) w.core m with
          | (s, true) => (s, [])
          | (s, false) => (s.event4 wg tid f.code site.pc, [.stop wg tid])
  | .stop wg tid => (if s.alive (.thread wg tid) then s.discardPending wg tid else s).threadEnds wg tid
  | .leave wg tid => s.threadEnds wg tid

/-- Acts and all that they lead to; each thread faults and ends at most once, so the fuel of the callers suffices. -/
def State.acts : Nat → List Act → State → State
  | 0, _, s => s
  | _, [], s => s
  | fuel + 1, a :: r, s =>
    match s.act a with
    | (s, more) => State.acts fuel (r ++ more) s

def State.runActs (s : State) (as : List Act) : State := (State.acts 100000 as s).flushEvents
def State.endThread (s : State) (wg tid : Nat) : State := s.runActs [.stop wg tid]

/-! Replies (R419). -/

/-- What a reply's first value selects. -/
def verdictOf (m : Msg) : FaultVerdict :=
  match m.vals with
  | [] => .resume
  | v :: _ => if v = 0 then .resume else if v = 1 then .skip else .terminate

/-- Table 20.7. -/
def State.applyVerdict (s : State) (wg tid : Nat) (h : HeldRec) (v : FaultVerdict) : State :=
  let s := match h.record, (s.wg? wg).bind fun w => s.launch? w.launch with
    | some i, some l => s.setLaunch { l with records := l.records.filter fun j => j != i }
    | _, _ => s
  match v, h.place with
  | .resume, .entry => s.resumeAt wg tid h.pc true (match (s.wg? wg).bind fun w => w.thread? tid with | some t => t.via | none => 0)
  | .resume, _ => s.resumeAt wg tid h.pc false 0
  | .skip, .entry => s.endThread wg tid
  | .skip, .span => s.endThread wg tid
  | .skip, _ => s.resumeAt wg tid h.skipPc h.skipNew h.pc
  | .terminate, _ => s.endThread wg tid

end Sys2Proof.Machine
end

