-- ==== Sys2Proof/Machine/Issue.lean ====
section
/-! DEFINITION. Issue of one compute instruction (spec/01 R19, spec/06 R154-R165, spec/07 R171-R172): readiness, active
lanes and chunks, decode faults, the checking scoreboard, consumed poison, and what issuing does to the group. Every
compute instruction's meaning is `issue` with its own effect. -/

namespace Sys2Proof.Machine

/-- An active lane: its thread, its position, and the workgroup as its chunk finds it (R155) and as the instruction's first
chunk finds it (R77). -/
structure Lane where
  tid : Nat
  pos : Nat
  time : Nat
  w : Workgroup
  first : Workgroup
  deriving Repr

/-- Access address of the M format (R231). -/
def mAddress (l : Lane) (b : MBody) : Int :=
  ((l.w.kreg l.tid b.k.toNat).cap.cursor.toNat : Int) + b.offset.toInt
    + (l.w.reg l.tid b.index.toNat).val.toInt * 2 ^ b.iscale.toNat

def Lane.reg (l : Lane) (n : BitVec 8) : Word := (l.w.reg l.tid n.toNat).val
def Lane.regN (l : Lane) (n : Nat) : Word := (l.w.reg l.tid n).val
/-- The pair at byte n (R233). -/
def Lane.pair (l : Lane) (n : Nat) : DWord := (l.w.reg l.tid (n + 1)).val ++ (l.w.reg l.tid n).val
def Lane.cap {n : Nat} (l : Lane) (k : BitVec n) : Cap := (l.w.kreg l.tid k.toNat).cap
def Lane.pred {n : Nat} (l : Lane) (p : BitVec n) : Bool := l.w.preg l.tid (p.toNat % 8)

/-- Who issues what: the workgroup, the group, the first and last chunk's times, the instruction's site. -/
structure IssueCtx where
  wg : Nat
  grp : Nat
  now : Nat
  last : Nat
  h : Head
  form : Nat → Form
  site : Site
  /-- A prologue may not run this instruction (R401). -/
  bar : Bool

/-- The outcome of an instruction's own effect: lanes that fault, and lanes whose allocated tag stays pending. -/
structure Effect where
  s : State
  faults : List (Nat × FaultInfo)
  pending : List Nat

/-- What a form's checks depend on in a lane. -/
def formCtx (w : Workgroup) (g : Group) (tid : Nat) : FormCtx :=
  ⟨w.w, match w.thread? tid with | some t => t.v.length | none => 0, w.nk, w.tiles.length, w.accs.length, g.blk.lastSlot g.pc, w.g⟩

def guardOf (h : Head) (w : Workgroup) (tid : Nat) : Bool := w.preg tid h.guard.toNat ^^ h.gneg

/-- Members that the guard, as it stands now, leaves active (R19); every member of a transfer is active (R188). A poisoned
guard counts: its lane faults. -/
def activeTids (h : Head) (transfer : Bool) (w : Workgroup) (g : Group) : List (Nat × Nat) :=
  if transfer then g.members else g.members.filter fun m => guardOf h w m.2 || w.pPoisoned m.2 h.guard.toNat

/-- Issue cycles of a number of active lanes (R19). -/
def chunksOf (n : Nat) : Nat := max 1 ((n + 15) / 16)

/-- Instructions that wait until their group's fixed-latency results have been written: an arriving BAR (R159, R267) and a
GETSR of fpflags (R80). -/
def drains : Instr → Bool
  | .bar _ b => b.variant.toNat % 4 != 2
  | .getsr _ b => b.imm == 0x10
  | _ => false

/-- Lane instructions read their sources once, when their first chunk issues (R220). -/
def readsOnce : Instr → Bool
  | .movs .. => true
  | .shfl .. => true
  | .vote .. => true
  | .lred .. => true
  | _ => false

/-- The instructions that act once at a schedule point: a fault of one lane is every lane's (R320). -/
def sharesFault : Instr → Bool
  | .pclaim .. => true
  | .pdone .. => true
  | .schrd .. => true
  | .schwr .. => true
  | .covrd .. => true
  | .tdef .. => true
  | .tstat .. => true
  | .twait .. => true
  | .trel .. => true
  | _ => false

/-- A starved group that yields stays starved (R277). -/
def isYield : Instr → Bool
  | .yield .. => true
  | _ => false

/-- The thread made the write, alone or with others. -/
def PendWrite.byThread (p : PendWrite) (tid : Nat) : Bool :=
  match p.wr with
  | .v t _ _ _ => t == tid
  | .k t _ _ _ => t == tid
  | .p t _ _ => t == tid
  | .s _ _ _ => p.tids.contains tid
  | .flags _ => p.tids.contains tid

/-- The lanes that execute an instruction from `now` on, of members in ascending position of which `n` come before: a
member's guard is a source (R159), read by the chunk that the member's lane would stand in (R19, R155; log 18), or by the
first chunk where the instruction reads `once` (R220). Every member of a transfer is active (R188); a poisoned guard
counts, and its lane faults. -/
def lanesOf (h : Head) (transfer once : Bool) (w : Workgroup) (now : Nat) : List (Nat × Nat) → Nat → List Lane
  | [], _ => []
  | m :: r, n =>
    let t := if once then now else now + n / 16
    let x := w.settle t
    if transfer || guardOf h x m.2 || x.pPoisoned m.2 h.guard.toNat then
      ⟨m.2, m.1, t, x, w.settle now⟩ :: lanesOf h transfer once w now r (n + 1)
    else lanesOf h transfer once w now r n

/-! Readiness (R22, R158, R160, R163, R277). -/

def dReady (g : Group) (d now : Nat) : Bool :=
  d == 0 || decide (g.executed < d) || ((g.recent.drop (d - 1)).all (fun t => decide (t ≤ now)) && decide (g.older ≤ now))

def tagsReady (h : Head) (w : Workgroup) (tids : List Nat) : Bool :=
  tids.all fun tid =>
    match w.thread? tid with
    | some t => (t.tags &&& h.wmask) == 0 &&
        (h.talloc == 0 || h.talloc == 7 || !t.tags.getLsbD (h.talloc.toNat - 1))
    | none => true

def State.unresolved (s : State) (wg : Nat) (tids : List Nat) : Bool :=
  s.reqs.any fun r => r.unresolved && (match r.who with | .thread g t => g == wg && tids.contains t | _ => false)

def Group.yielding (g : Group) (now : Nat) : Bool :=
  match g.yieldUntil with
  | some t => decide (now < t) && !g.yieldOthers.isEmpty
  | none => false

/-- Whether the group may issue instruction i now (R22). -/
def State.groupReady (s : State) (w : Workgroup) (g : Group) (i : Instr) (h : Head) (transfer : Bool) : Bool :=
  let now := s.clockOf w
  let tids := (lanesOf h transfer (readsOnce i) w now g.members 0).map Lane.tid
  g.parkedOn.isEmpty && !g.stopped && !g.entering && decide (g.notBefore ≤ now) && !g.yielding now && dReady g h.d.toNat now
    && tagsReady h w tids && !s.unresolved w.id g.tids
    && (!drains i || decide (w.pend.all fun p => p.due ≤ now || !(p.grp == g.id || g.tids.any p.byThread)))

/-! The checking scoreboard (R165). -/

def Wr.ident : Wr → Nat
  | .v _ n _ _ => n
  | .s n _ _ => 0xC0 + n
  | .k _ n _ _ => 0x100 + n
  | .p _ n _ => 0x110 + n
  | .flags _ => 0x1000

/-- The outstanding variable-latency write of a thread to a register: its tag. -/
def State.varPending (s : State) (wg tid ident : Nat) : Option Nat :=
  (s.reqs.find? fun r => r.who == .thread wg tid && r.dests.contains ident).map Request.tag

/-- The check of one lane; `first` is the time of the first chunk, which reads a clamp bound (R77). A source that discards its
writes is a constant (R46). Of several writes of the thread that are on their way to one register, the one that issued first
gives auxiliary word 1 (DESIGN CHOICE, log 81: R165 does not say whose latency it is). -/
def State.checkLane (s : State) (l : Lane) (first : Nat) (h : Head) (f : Form) : Option FaultInfo :=
  let tagCheck (r : Reg) (dst : Bool) : Option FaultInfo :=
    match s.varPending l.w.id l.tid r.ident with
    | some tag =>
      if dst || tag == 0 || !h.wmask.getLsbD (tag - 1) then some (.of 0x06 r.ident tag) else none
    | none => none
  let scored (r : Reg) : Bool := match r with | .byte _ => true | .k _ => true | .p _ => true | .bound => true | _ => false
  let time (r : Reg) : Nat := if r = .bound then first else l.time
  let pend (r : Reg) : List PendWrite := if r = .bound then l.first.pend else l.w.pend
  let srcs := (f.src ++ f.late).filter (fun r => scored r && !discards r.ident) ++ (if h.guard = 7 then [] else [Reg.p h.guard.toNat])
  let bad := srcs.findSome? fun r =>
    match (pend r).find? fun p => p.byThread l.tid && p.wr.ident == r.ident && decide (time r < p.due) with
    | some p => some (.of 0x05 r.ident (p.due - time r))
    | none => tagCheck r false
  match bad with
  | some f => some f
  | none => (f.dst.filter fun r => scored r && !discards r.ident).findSome? fun r => tagCheck r true

/-- Instructions that a prologue may run (R401). -/
def prologueRuns : Instr → Bool
  | .nop .. => true
  | .bra .. => true
  | .br .. => true
  | .brx .. => true
  | .exit .. => true
  | .trap .. => true
  | .brk .. => true
  | .plop .. => true
  | .iadd .. => true
  | .iaddImm .. => true
  | .isub .. => true
  | .isubImm .. => true
  | .imul .. => true
  | .imulImm .. => true
  | .imulhi .. => true
  | .imulhiImm .. => true
  | .imad .. => true
  | .imin .. => true
  | .iminImm .. => true
  | .imax .. => true
  | .imaxImm .. => true
  | .iabs .. => true
  | .ineg .. => true
  | .and .. => true
  | .andImm .. => true
  | .or .. => true
  | .orImm .. => true
  | .xor .. => true
  | .xorImm .. => true
  | .andn .. => true
  | .andnImm .. => true
  | .shl .. => true
  | .shlImm .. => true
  | .shr .. => true
  | .shrImm .. => true
  | .sar .. => true
  | .sarImm .. => true
  | .rot .. => true
  | .rotImm .. => true
  | .bfx .. => true
  | .bfxImm .. => true
  | .bfi .. => true
  | .popc .. => true
  | .clz .. => true
  | .brev .. => true
  | .iset .. => true
  | .isetImm .. => true
  | .sel .. => true
  | .mov .. => true
  | .movi .. => true
  | .ld _ b => b.order != 0
  | .atomAdd .. => true
  | .atomAddF32 .. => true
  | .atomMin .. => true
  | .atomMax .. => true
  | .atomAnd .. => true
  | .atomOr .. => true
  | .atomXor .. => true
  | .atomXchg .. => true
  | .atomCas .. => true
  | .atomIncw .. => true
  | .atomBfadd .. => true
  | .pdim .. => true
  | .pcancel .. => true
  | .prepeat .. => true
  | _ => false

/-- An allowed instruction whose destinations are s-registers or predicates (R401). -/
def prologueMay (i : Instr) (f : Form) : Bool :=
  prologueRuns i && f.dst.all fun r => match r with | .byte n => 0xC0 ≤ n | .p _ => true | _ => false

/-- Whether a register holds poison in a lane. -/
def Lane.poisoned (l : Lane) : Reg → Bool
  | .byte n => (l.w.reg l.tid n).poison
  | .k n => (l.w.kreg l.tid n).poison
  | .p n => l.w.pPoisoned l.tid n
  | .bound => (l.first.reg l.tid 0xFE).poison
  | _ => false

/-- The address word of a fault at a register that an instruction consumes (R232): the access address, or in a capability
instruction the cursor of the capability register. -/
def faultAddr (f : Form) (l : Lane) (r : Reg) : DWord :=
  match f.access, f.cursor, r with
  | some b, _, _ => addrWord (mAddress l b)
  | none, true, .k n => (l.w.kreg l.tid n).cap.cursor
  | _, _, _ => 0

/-- The registers that a lane consumes (R128): a member that does not take a transfer consumes only its guard (R191). -/
def consumedRegs (f : Form) (l : Lane) (h : Head) : List Reg :=
  (if f.transfer && !guardOf h l.w l.tid then [] else f.use) ++ (if h.guard = 7 then [] else [Reg.p h.guard.toNat])

/-- Decode faults, the scoreboard, then consumed poison (R171, R165, R128). -/
def State.laneFault (s : State) (l : Lane) (c : IssueCtx) (g : Group) : Option FaultInfo :=
  let f := c.form l.tid
  let ctx := formCtx l.w g l.tid
  let early := if l.w.prologue then f.fault { ctx with nv := 192 } c.h else none
  match if early.isNone && c.bar then some (illegalOp 0x39) else early.or (f.fault ctx c.h) with
  | some x => some x
  | none =>
    match if l.w.chk then s.checkLane l c.now c.h f else none with
    | some x => some { x with addr := c.site.pc }
    | none =>
      ((consumedRegs f l c.h).find? l.poisoned).map fun r => .of cPOISON r.ident 0 (faultAddr f l r)

/-- The group after its instruction has issued (R19, R22, R157). `done` is the completion time of a fixed-latency
instruction, 0 for another. -/
def Group.issued (g : Group) (now done : Nat) (next : DWord) (newBlock keepStarved : Bool) : Group :=
  { g with
    recent := (done :: g.recent).take 15
    older := ((done :: g.recent).drop 15).foldl max g.older
    executed := g.executed + 1
    lastIssue := now
    readySince := none
    starved := if keepStarved then g.starved else none
    yieldUntil := none
    yieldOthers := []
    pc := next
    entering := newBlock }

/-- The yielding groups of the bank of `w` have seen the group `grp` issue (R277). -/
def Workgroup.seen (x w : Workgroup) (grp : Nat) : Workgroup :=
  if x.core == w.core && x.bank == w.bank then
    { x with groups := x.groups.map fun y => { y with yieldOthers := y.yieldOthers.filter fun i => i != grp } }
  else x

/-- What issuing does to the group and the clock, whatever the instruction. The clock stands at the last chunk, in whose
ac the instruction has its effect; `finishIssue` moves it on. -/
def State.issued (s : State) (w : Workgroup) (g : Group) (now chunks done : Nat) (next : DWord) (newBlock keepStarved : Bool) :
    State :=
  let s := s.setWg (w.setGroup (g.issued now done next newBlock keepStarved))
  let s := { s with wgs := s.wgs.map fun (x : Workgroup) => x.seen w g.id }
  s.setClock w.core w.bank (now + chunks - 1)

/-- The group that issues, if one does. -/
def State.current (s : State) : Option (Workgroup × Group) :=
  match s.cur with
  | .group wg grp => (s.wg? wg).bind fun w => (w.group? grp).map fun g => (w, g)
  | _ => none

/-- One issue cycle passes in which the group does not issue. -/
def State.stall (s : State) (w : Workgroup) : State := s.setClock w.core w.bank (s.clockOf w + 1)

/-- The active lanes of an instruction that issues now (R19, R155). -/
def State.issueLanes (s : State) (w : Workgroup) (g : Group) (i : Instr) (h : Head) : List Lane :=
  lanesOf h (formOf (formCtx w g 0) i).transfer (readsOnce i) w (s.clockOf w) g.members 0

/-- Who issues instruction `i` now, when and where. -/
def State.issueCtx (s : State) (w : Workgroup) (g : Group) (i : Instr) (h : Head) : IssueCtx :=
  let now := s.clockOf w
  ⟨w.id, g.id, now, now + chunksOf (s.issueLanes w g i h).length - 1, h, fun tid => formOf (formCtx w g tid) i,
    ⟨g.pc, (g.blk.next g.pc).1, (g.blk.next g.pc).2, .instr⟩, w.prologue && !prologueMay i (formOf (formCtx w g 0) i)⟩

/-- The state after the instruction's issue, before its own effect: the threads of a group that leaves its block keep the
address they left it by (R139). -/
def State.issuedBy (s : State) (w : Workgroup) (g : Group) (i : Instr) (h : Head) : State :=
  let now := s.clockOf w
  let lat := (formOf (formCtx w g 0) i).lat
  let chunks := chunksOf (s.issueLanes w g i h).length
  let next := (g.blk.next g.pc).1
  let newBlock := (g.blk.next g.pc).2
  let w := if newBlock then g.tids.foldl (fun w t => w.modThread t fun th => { th with via := g.pc, midBlock := false }) w else w
  s.issued w g now chunks (if lat = 0 then 0 else now + chunks - 1 + lat) next newBlock (isYield i)

/-- Wait tags that stay pending are set, faults are taken in the order of the lanes, and the ac of the last chunk ends. -/
def finishIssue (w : Workgroup) (h : Head) (c : IssueCtx) (lanes : List Lane) (bad : List (Nat × FaultInfo)) (e : Effect) : State :=
  let pending := e.pending.filter fun t => !(e.faults.any fun f => f.1 == t)
  let s := if pending.isEmpty then e.s
    else e.s.modWg w.id fun w => pending.foldl (fun w t => w.setTag t h.talloc.toNat true) w
  let order := bad ++ e.faults
  let faults := lanes.filterMap fun l => (order.find? fun f => f.1 == l.tid)
  let s := if faults.isEmpty then s else s.runActs (faults.map fun f => .fault w.id f.1 f.2 c.site)
  s.setClock w.core w.bank (c.last + 1)

/-- The lanes with the faults that the common checks raise; the first stands for all where the instruction acts once (R320). -/
def State.judge (s : State) (i : Instr) (lanes : List Lane) (c : IssueCtx) (g : Group) : List (Lane × Option FaultInfo) :=
  let own := lanes.map fun l => (l, s.laneFault l c g)
  match own.findSome? Prod.snd with
  | some f => if sharesFault i then lanes.map fun l => (l, some f) else own
  | none => own

/-- Issues instruction `i` with head `h`; `eff` is its own effect in the lanes that no common check stopped. -/
def issue (i : Instr) (h : Head) (eff : State → IssueCtx → List Lane → Effect) (s : State) : State :=
  match s.current with
  | none => s
  | some (w, g) =>
    if !s.groupReady w g i h (formOf (formCtx w g 0) i).transfer then s.stall w
    else
      let lanes := s.issueLanes w g i h
      let c := s.issueCtx w g i h
      let judged := s.judge i lanes c g
      let good := (judged.filter fun x => x.2.isNone).map Prod.fst
      let bad := judged.filterMap fun x => x.2.map fun f => (x.1.tid, f)
      let s := s.issuedBy w g i h
      finishIssue w h c lanes bad (if good.isEmpty then ⟨s, [], []⟩ else eff s c good)

/-- A lane's result of a fixed-latency instruction. -/
abbrev LaneResult := Except FaultInfo (List Wr)

/-- Of writes to s-registers, those of the lowest lane stand (R49). -/
def Wr.isS : Wr → Bool
  | .s _ _ _ => true
  | _ => false

/-- What a lane instruction reads (R220): the active lanes, and every member with its registers as the first chunk finds
them. A thread that faults has left before. -/
structure Peers where
  lanes : List Lane
  members : List (Nat × Nat)
  w : Workgroup
  deriving Repr

def peersOf (w : Workgroup) (c : IssueCtx) (lanes : List Lane) : Peers :=
  let w := w.settle c.now
  let stays (m : Nat × Nat) : Bool :=
    lanes.any (fun l => l.tid == m.2) || !(guardOf c.h w m.2 || w.pPoisoned m.2 c.h.guard.toNat)
  ⟨lanes, match w.group? c.grp with | some g => g.members.filter stays | none => [], w⟩

/-- The member at a position, if there is one. -/
def Peers.at_ (ps : Peers) (pos : Int) : Option Nat := (ps.members.find? fun m => (m.1 : Int) = pos).map Prod.snd
/-- A register of a member. -/
def Peers.reg (ps : Peers) (tid : Nat) (n : BitVec 8) : VReg := ps.w.reg tid n.toNat

/-- A lane's results, unless it faults. -/
def okResult (x : Lane × LaneResult) : Option (Lane × List Wr) :=
  match x.2 with
  | .ok ws => some (x.1, ws)
  | .error _ => none
def faultResult (x : Lane × LaneResult) : Option (Nat × FaultInfo) :=
  match x.2 with
  | .ok _ => none
  | .error e => some (x.1.tid, e)

/-- Every lane's results go on their way, those to s-registers the lowest lane's alone (R49). -/
def Workgroup.addLanes (due : Nat) (tids : List Nat) (grp : Nat) : Bool → List (Lane × List Wr) → Workgroup → Workgroup
  | _, [], w => w
  | lowest, x :: rest, w => addLanes due tids grp false rest (w.addLane due tids x.1.tid grp lowest x.2)

/-- The effect of a fixed-latency instruction: every lane's results become due `lat` after the last chunk (R154). -/
def fixedEffect (lat : Nat) (f : Peers → Lane → LaneResult) (s : State) (c : IssueCtx) (lanes : List Lane) : Effect :=
  match s.wg? c.wg with
  | none => ⟨s, [], []⟩
  | some w =>
    let ps := peersOf w c lanes
    let rs := lanes.map fun l => (l, f ps l)
    let oks := rs.filterMap okResult
    let tids := oks.map fun x => x.1.tid
    ⟨s.setWg (w.addLanes (c.last + lat) tids c.grp true oks), rs.filterMap faultResult, []⟩

/-- A fixed-latency instruction. -/
def issueFixed (i : Instr) (h : Head) (f : Peers → Lane → LaneResult) (s : State) : Host.Outcome State Fault Refusal :=
  match s.current with
  | some (w, g) => .next (issue i h (fixedEffect (formOf (formCtx w g 0) i).lat f) s)
  | none => .next s

/-- The result that goes to register byte d. -/
def toByte (l : Lane) (d : BitVec 8) (x : Word) : LaneResult := .ok [wrByte l.tid d.toNat x]
/-- A result with floating-point flags, which reach fpflags at the same time (R80). -/
def toByteFl (l : Lane) (d : BitVec 8) (x : Word) (fl : FpFlags) : LaneResult :=
  .ok (wrByte l.tid d.toNat x :: if fl = 0 then [] else [.flags fl])
/-- A result with the poison of a source that is moved, not consumed (R128). -/
def toBytePoison (l : Lane) (d : BitVec 8) (x : Word) (po : Bool) : LaneResult := .ok [wrByte l.tid d.toNat x po]
def toPred {n : Nat} (l : Lane) (p : BitVec n) (b : Bool) : LaneResult := .ok [.p l.tid (p.toNat % 8) b]

end Sys2Proof.Machine
end

