-- ==== Sys2Proof/Machine/CapOps.lean ====
section
/-! DEFINITION. The seventeen capability instructions (spec/10_memory_and_capability_instructions.md R249-R256). -/

namespace Sys2Proof.Machine

/-- A 64-bit value through the register byte a at a width (R249). -/
def kWrite (l : Lane) (b : KBody) (x : DWord) : LaneResult :=
  if fld b.variant 1 0 = 2 then .ok (wrPair l.tid b.a.toNat x)
  else toByte l b.a (if fld b.variant 1 0 = 1 then x.extractLsb' 32 32 else x.extractLsb' 0 32)
/-- A length taken at a width (R249). -/
def kLength (l : Lane) (b : KBody) : Nat :=
  if fld b.variant 1 0 = 2 then (l.pair b.a.toNat).toNat
  else if fld b.variant 1 0 = 1 then (l.reg b.a).toNat * 2 ^ 32 else (l.reg b.a).toNat
/-- A capability result. -/
def toKreg (l : Lane) (k : BitVec 4) (c : Cap) (poison : Bool := false) : LaneResult := .ok [.k l.tid k.toNat c poison]
/-- A checking instruction's result or fault (R232, R250). -/
def kChecked (l : Lane) (b : KBody) (kb : Nat) (r : Except CapFault Cap) : LaneResult :=
  match r with
  | .ok c => toKreg l b.kd c
  | .error f => .error (f.info b.ka.toNat kb (l.cap b.ka) (l.cap b.kb))

/-- KADDR (R251). -/
def execKaddr (h : Head) (b : KBody) : State → Host.Outcome State Fault Refusal :=
  issueFixed (.kaddr h b) h fun _ l => kWrite l b (l.cap b.ka).cursor

/-- KBASE (R251). -/
def execKbase (h : Head) (b : KBody) : State → Host.Outcome State Fault Refusal :=
  issueFixed (.kbase h b) h fun _ l => kWrite l b (BitVec.ofNat 64 (capBaseRead (l.cap b.ka)))

/-- KLEN (R251). -/
def execKlen (h : Head) (b : KBody) : State → Host.Outcome State Fault Refusal :=
  issueFixed (.klen h b) h fun _ l => kWrite l b (BitVec.ofNat 64 (capLenRead (l.cap b.ka)))

/-- KPERM (R251). -/
def execKperm (h : Head) (b : KBody) : State → Host.Outcome State Fault Refusal :=
  issueFixed (.kperm h b) h fun _ l => toByte l b.a ((l.cap b.ka).perms.zeroExtend 32)

/-- KTYPE (R251). -/
def execKtype (h : Head) (b : KBody) : State → Host.Outcome State Fault Refusal :=
  issueFixed (.ktype h b) h fun _ l => toByte l b.a ((l.cap b.ka).otype.zeroExtend 32)

/-- KTAG: tagged and not malformed (R251). -/
def execKtag (h : Head) (b : KBody) : State → Host.Outcome State Fault Refusal :=
  issueFixed (.ktag h b) h fun _ l => toPred l b.a (l.cap b.ka).valid

/-- KSUB (R251). -/
def execKsub (h : Head) (b : KBody) : State → Host.Outcome State Fault Refusal :=
  issueFixed (.ksub h b) h fun _ l => kWrite l b ((l.cap b.ka).cursor - (l.cap b.kb).cursor)

/-- KSETA's new cursor (R252). -/
def setaCursor (l : Lane) (b : KBody) : DWord :=
  let c := (l.cap b.ka).cursor
  if fld b.variant 1 0 = 2 then l.pair b.a.toNat
  else if fld b.variant 1 0 = 1 then l.reg b.a ++ c.extractLsb' 0 32 else c.extractLsb' 32 32 ++ l.reg b.a

/-- KSETA (R252). -/
def execKseta (h : Head) (b : KBody) : State → Host.Outcome State Fault Refusal :=
  issueFixed (.kseta h b) h fun _ l => toKreg l b.kd ((l.cap b.ka).withCursor (setaCursor l b).toNat)

/-- KINC, with `.r` in variant<2> (R252). -/
def execKinc (h : Head) (b : KBody) : State → Host.Outcome State Fault Refusal :=
  issueFixed (.kinc h b) h fun _ l =>
    toKreg l b.kd (capInc (l.cap b.ka) (if b.variant.getLsbD 2 then (l.reg b.a).toInt else b.imm.toInt))

/-- KBND (R253). -/
def execKbnd (h : Head) (b : KBody) : State → Host.Outcome State Fault Refusal :=
  issueFixed (.kbnd h b) h fun _ l => toKreg l b.kd (capBnd (l.cap b.ka) (kLength l b))

/-- KBNDX (R253). -/
def execKbndx (h : Head) (b : KBody) : State → Host.Outcome State Fault Refusal :=
  issueFixed (.kbndx h b) h fun _ l => kChecked l b 0 (capBndx (l.cap b.ka) (kLength l b))

/-- KANDP (R254). -/
def execKandp (h : Head) (b : KBody) : State → Host.Outcome State Fault Refusal :=
  issueFixed (.kandp h b) h fun _ l => toKreg l b.kd (capAndp (l.cap b.ka) (b.imm.extractLsb' 0 12))

/-- KSEAL (R255). -/
def execKseal (h : Head) (b : KBody) : State → Host.Outcome State Fault Refusal :=
  issueFixed (.kseal h b) h fun _ l => kChecked l b b.kb.toNat (capSeal (l.cap b.ka) (l.cap b.kb))

/-- KUNSEAL (R255). -/
def execKunseal (h : Head) (b : KBody) : State → Host.Outcome State Fault Refusal :=
  issueFixed (.kunseal h b) h fun _ l => kChecked l b b.kb.toNat (capUnseal (l.cap b.ka) (l.cap b.kb))

/-- KCLR (R254). -/
def execKclr (h : Head) (b : KBody) : State → Host.Outcome State Fault Refusal :=
  issueFixed (.kclr h b) h fun _ l => toKreg l b.kd .null

/-- KMOV carries tag and poison (R254). -/
def execKmov (h : Head) (b : KBody) : State → Host.Outcome State Fault Refusal :=
  issueFixed (.kmov h b) h fun _ l =>
    let r := l.w.kreg l.tid b.ka.toNat
    toKreg l b.kd r.cap r.poison

/-- KENTRY (R256). -/
def execKentry (h : Head) (b : KBody) : State → Host.Outcome State Fault Refusal :=
  issueFixed (.kentry h b) h fun _ l => kChecked l b 0 (capEntry (l.cap b.ka))

end Sys2Proof.Machine
end

