-- ==== Sys2Proof/Machine/Control.lean ====
section
/-! DEFINITION. Control instructions (spec/08_control_and_integer.md R188-R200, R206). -/

namespace Sys2Proof.Machine

/-- NOP (R200). -/
def execNop (h : Head) (b : RBody) (s : State) : Host.Outcome State Fault Refusal :=
  .next (issue (.nop h b) h (fun s _ _ => ⟨s, [], []⟩) s)

/-! Transfers. -/

/-- Where a thread goes: its code capability, its destination, the link it writes, and whether it takes the transfer. -/
structure Move where
  lane : Lane
  pcc : Cap
  dest : DWord
  link : List Wr
  taken : Bool
  deriving Repr

/-- Span address of a transfer's target, exact (R189). -/
def targetOf (pc : DWord) (target : BitVec 24) : Int := ((spanOf pc).toNat : Int) + 128 * target.toInt
def fallOf (pc : DWord) : Int := ((spanOf pc).toNat : Int) + 128

def Lane.pcc (l : Lane) : Cap := match l.w.thread? l.tid with | some t => t.pcc | none => .null

/-- A move of pcc's cursor alone (R189, R59). -/
def moveTo (l : Lane) (x : Int) (link : List Wr) (taken : Bool) : Move :=
  ⟨l, l.pcc.moveTo x, BitVec.ofInt 64 x, link, taken⟩
/-- A move through a capability register (R191). -/
def moveVia (l : Lane) (k : BitVec 4) (link : List Wr) : Except FaultInfo Move :=
  match capTarget (l.cap k) with
  | .ok c => .ok ⟨l, c, c.cursor, link, true⟩
  | .error f => .error (f.info k.toNat 0 (l.cap k) .null)

/-- Whether REFORM may leave the group whole: it holds exactly the live threads of one home group (R190). -/
def oneHome (w : Workgroup) (tids : List Nat) : Bool :=
  match tids with
  | [] => false
  | t :: _ =>
    tids.all (fun x => x / w.w == t / w.w) && ((w.liveOf (t / w.w)).all fun x => tids.contains x.tid)

/-- Every thread takes its pcc and link; the group stays whole or its threads are filed in ascending pos (R190, R197). -/
def transferTo (reform : Bool) (s : State) (c : IssueCtx) (ms : List Move) : State :=
  let s := s.modWg c.wg fun w =>
    ms.foldl (fun w m =>
      (m.link.foldl (fun w x => w.addPend (c.last + 1) x [] c.grp) w).modThread m.lane.tid fun t => { t with pcc := m.pcc }) w
  match ms, s.wg? c.wg with
  | m :: _, some w =>
    let tids := ms.map fun x => x.lane.tid
    let same := ms.all fun x => x.dest == m.dest
    if same && (!reform || !(ms.any Move.taken) || oneHome w tids) then
      match w.group? c.grp with
      | some g => s.setWg (w.setGroup { g with pc := m.dest, entering := true, notBefore := max g.notBefore (c.last + 1) })
      | none => s
    else
      let s := s.setWg (w.leave c.grp tids)
      ms.foldl (fun s x =>
        s.file c.wg x.lane.tid x.dest (if reform && x.taken then some (x.lane.tid / w.w) else none)) s
  | _, _ => s

/-- A transfer's effect: threads that fail a check leave before any change (R191, R206). -/
def transferEffect (reform : Bool) (f : IssueCtx → Lane → Except FaultInfo Move) (s : State) (c : IssueCtx)
    (lanes : List Lane) : Effect :=
  let rs := lanes.map fun l =>
    (l.tid, if guardOf c.h l.w l.tid then f c l else .ok (moveTo l (fallOf c.site.pc) [] false))
  let oks := rs.filterMap fun x => match x.2 with | .ok m => some m | .error _ => none
  let bad := rs.filterMap fun x => match x.2 with | .ok _ => none | .error e => some (x.1, e)
  ⟨transferTo reform s c oks, bad, []⟩

def transfer (i : Instr) (h : Head) (reform : Bool) (f : IssueCtx → Lane → Except FaultInfo Move) (s : State) :
    Host.Outcome State Fault Refusal :=
  .next (issue i h (transferEffect reform f) s)

/-- BRA (R192). -/
def execBra (h : Head) (b : BBody) : State → Host.Outcome State Fault Refusal :=
  transfer (.bra h b) h false fun c l => .ok (moveTo l (targetOf c.site.pc b.target) [] true)

/-- BR (R193). -/
def execBr (h : Head) (b : BBody) : State → Host.Outcome State Fault Refusal :=
  transfer (.br h b) h false fun c l => .ok (moveTo l (targetOf c.site.pc b.target) [] true)

/-- BRX (R194). -/
def execBrx (h : Head) (b : BBody) : State → Host.Outcome State Fault Refusal :=
  transfer (.brx h b) h false fun _ l => moveVia l b.k []

/-- CALL: the link is pcc at the fall-through span (R195). -/
def execCall (h : Head) (b : BBody) : State → Host.Outcome State Fault Refusal :=
  transfer (.call h b) h false fun c l =>
    let link := [Wr.k l.tid (fld b.variant 3 0) (l.pcc.moveTo (fallOf c.site.pc)) false]
    if b.variant.getLsbD 4 then moveVia l b.k link else .ok (moveTo l (targetOf c.site.pc b.target) link true)

/-- RET (R196). -/
def execRet (h : Head) (b : BBody) : State → Host.Outcome State Fault Refusal :=
  transfer (.ret h b) h false fun _ l => moveVia l b.k []

/-- REFORM (R197). -/
def execReform (h : Head) (b : BBody) : State → Host.Outcome State Fault Refusal :=
  transfer (.reform h b) h true fun c l => .ok (moveTo l (targetOf c.site.pc b.target) [] true)

/-! Ending and trapping. -/

/-- EXIT: active threads end, the others go on as the group (R198, R33). -/
def execExit (h : Head) (b : RBody) (s : State) : Host.Outcome State Fault Refusal :=
  .next (issue (.exit h b) h (fun s c ls => ⟨s.runActs (ls.map fun l => .leave c.wg l.tid), [], []⟩) s)

/-- A deliberate fault with the immediate as auxiliary word 0 (R199). -/
def deliberate (code : BitVec 8) (b : IBody) (s : State) (_ : IssueCtx) (ls : List Lane) : Effect :=
  ⟨s, ls.map fun l => (l.tid, ⟨code, 0, b.imm, 0, 0⟩), []⟩

/-- TRAP (R199). -/
def execTrap (h : Head) (b : IBody) (s : State) : Host.Outcome State Fault Refusal :=
  .next (issue (.trap h b) h (deliberate 0x60 b) s)

/-- BRK (R199). -/
def execBrk (h : Head) (b : IBody) (s : State) : Host.Outcome State Fault Refusal :=
  .next (issue (.brk h b) h (deliberate 0x61 b) s)

/-- A word whose opcode no chapter assigns faults in every active lane (R171, R173). -/
def execUnassignedOpcode (op : BitVec 10) (h : Head) (body : BitVec 53) (s : State) : Host.Outcome State Fault Refusal :=
  .next (issue (.unassignedOpcode op h body) h (fun s _ _ => ⟨s, [], []⟩) s)

end Sys2Proof.Machine
end

