-- ==== Sys2Proof/WellFormed.lean ====
section
/-! DEFINITION. Well-formed instructions: what an assembler may emit. A compute word is well-formed when no lane of the
widest launch takes a decode fault from it (spec/07 R171 steps 1-6); a hart word when its fields are those of spec/18
Table 18.5. A step of the device is always well-formed. -/

namespace Sys2Proof

/-- The head of a compute word. -/
def headOf : Instr → Option Head := fun i => (encodeWord i).map Head.ofWord

/-- A standard access whose width and sign have an encoding: there is no unsigned load of 8 bytes. -/
def HartAccess.wellFormed : HartAccess → Bool
  | .load width unsigned _ _ _ => !(unsigned && width == 3)
  | _ => true

/-- The fields of an Xkcap word are in range (R371). -/
def hartFieldsOk : Instr → Bool
  | .kld d _ _ => isK d
  | .kst s _ _ => isK s
  | .kincHart d a _ => isK d && isK a
  | .kandpHart d a _ => isK d && isK a
  | .kbndHart d a _ => isK d && isK a
  | .kbndxHart d a _ => isK d && isK a
  | .kaddrHart _ a => isK a
  | .kaddrSet d a _ => isK d && isK a
  | .ksealHart d a b => isK d && isK a && isK b
  | .kunsealHart d a b => isK d && isK a && isK b
  | .kentryHart d a => isK d && isK a
  | .kmodeRd d s => isK d && decide (s.toNat < 8)
  | .kmodeWr s a => isK a && decide (s.toNat < 8)
  | .kmodeJmp d a => isK d && isK a
  | .ksend count x e y => decide (count.toNat ≤ 8) && isK x && isK e && isK y
  | .krecv _ count x e y => decide (count.toNat ≤ 8) && isK x && isK e && isK y
  | .kcall count x e y => decide (count.toNat ≤ 8) && isK x && isK e && isK y
  | .kreply count x y => decide (count.toNat ≤ 8) && isK x && isK y
  | .omake d u _ => isK d && isK u
  | .aspaceTeardown count x e y => decide (count.toNat ≤ 8) && isK x && isK e && isK y
  | .asidRelease count x e y => decide (count.toNat ≤ 8) && isK x && isK e && isK y
  | .sweepStart count x e y => decide (count.toNat ≤ 8) && isK x && isK e && isK y
  | .objectRevoke count x e y => decide (count.toNat ≤ 8) && isK x && isK e && isK y
  | .hartMemoryAccess a => a.wellFormed
  | .xkcapCsrAccess _ csr _ _ => isXkcapCsr csr
  | _ => true

/-- An instruction that an assembler may emit. -/
def wellFormed (i : Instr) : Bool :=
  match encodeWord i with
  | some w =>
    (opcodeMap.lookup (w.extractLsb' 70 10).toNat).isSome
      && ((formOf .widest i).fault .widest (.ofWord w)).isNone
  | none => hartFieldsOk i

end Sys2Proof
end

