-- ==== Sys2Proof/Machine/Fetch.lean ====
section
/-! DEFINITION. Spans, headers and fetching (spec/05 R131-R140), registers that a header does not declare live (R136),
and which groups are ready (spec/01 R22). -/

namespace Sys2Proof.Machine

def State.span? (s : State) (core asid : Nat) (span : DWord) : Option SpanEntry :=
  s.spans.find? fun e => e.core == core && e.asid == asid && e.span == span.toNat

/-- Translates a span for fetch and brings it into the core's span cache (R139, R140). A span that is there is not fetched
again, and none is evicted: of code that changes while its launch lives the model executes the old form, one of the two that
R140 allows (DESIGN CHOICE, log 76). -/
def State.fetchSpan (s : State) (w : Workgroup) (span : DWord) : State × Except FaultInfo (BitVec 1024) :=
  match s.translate w.seat { x := true } span.toNat with
  | (s, .error (code, d)) => (s, .error (.of code 0 d))
  | (s, .ok p) =>
    let pas := (List.range 128).map fun i => p.pa + span.toNat % 4096 + i
    if !s.allPopulated pas then (s, .error (.of cXLATE 0 (span.toNat / 4096 * 4096 % 2 ^ 32)))
    else match s.span? w.core w.asid span with
    | some e => (s, .ok e.data)
    | none =>
      let (s, bs) := s.weakRead w.seat.die (p.nc || p.io) pas
      if bs.any Prod.snd then (s, .error (.of cPOISON 0))
      else
        let data := BitVec.ofNat 1024 (natOfBytes (bs.map Prod.fst))
        ({ s with spans := s.spans ++ [⟨w.core, w.asid, span.toNat, data⟩] }, .ok data)

/-- A span's 64-bit header and its slot i (R131). -/
def spanHeader (d : BitVec 1024) : DWord := d.extractLsb' 0 64
def spanSlot (d : BitVec 1024) (i : Nat) : BitVec 80 := d.extractLsb' (64 + 80 * i) 80

/-- A block-open header read (Table 5.1). -/
def blockOf (span : DWord) (h : DWord) : Block where
  span := span
  len := (h.extractLsb' 54 8).toNat
  slots := (h.extractLsb' 50 4).toNat
  livev := (h.extractLsb' 42 8).toNat
  livek := (h.extractLsb' 38 4).toNat
  priv := h.getLsbD 7
  safe := h.getLsbD 6
  prol := h.getLsbD 5

/-- The continuation header of span j (R134). -/
def contHeader (j : Nat) : DWord := (1 : DWord) <<< 62 ||| BitVec.ofNat 64 (j * 2 ^ 54)

/-- The instruction word at a group's pc, when its span has been fetched. -/
def State.slotAt (s : State) (w : Workgroup) (pc : DWord) : Option (BitVec 80) :=
  (s.span? w.core w.asid (spanOf pc)).map fun e => spanSlot e.data (slotOf pc)

/-- Whether a group could issue its next instruction now (R22). -/
def State.isReady (s : State) (w : Workgroup) (g : Group) : Bool :=
  match s.slotAt w g.pc with
  | some x =>
    let i := decodeWord x
    s.groupReady w g i (Head.ofWord x) (formOf (formCtx w g 0) i).transfer
  | none => false

/-- A free capability register: bits that nothing constrains, tag clear (log 8). -/
def State.freshCap (s : State) : Cap × State :=
  let (a, s) := s.fresh
  let (b, s) := s.fresh
  (Cap.ofBits false (a ++ b), s)

/-- Replaces the registers from index `lo` on by free values. -/
def freeRegs (lo : Nat) : List VReg → Nat → State → List VReg × State
  | [], _, s => ([], s)
  | r :: rest, n, s =>
    let (r, s) := if lo ≤ n then let (x, s) := s.fresh; (⟨x.extractLsb' 0 32, false⟩, s) else (r, s)
    let (rest, s) := freeRegs lo rest (n + 1) s
    (r :: rest, s)
def freeKregs (lo : Nat) : List KReg → Nat → State → List KReg × State
  | [], _, s => ([], s)
  | r :: rest, n, s =>
    let (r, s) := if lo < n then let (c, s) := s.freshCap; (⟨c, false⟩, s) else (r, s)
    let (rest, s) := freeKregs lo rest (n + 1) s
    (r :: rest, s)

/-- v-registers at or above livev and k-registers above livek become undefined (R136). -/
def State.scramble (s : State) (wg tid livev livek : Nat) : State :=
  match (s.wg? wg).bind fun w => w.thread? tid with
  | none => s
  | some t =>
    let (v, s) := freeRegs livev t.v 0 s
    let (k, s) := freeKregs livek t.k 0 s
    s.modWg wg fun w => w.modThread tid fun t => { t with v := v, k := k, reformed := false }

end Sys2Proof.Machine
end

