-- ==== Sys2Proof/Machine/Requests.lean ====
section
/-! DEFINITION. Requests of variable-latency instructions: how a lane's request is made, the release steps and the order
in which requests may be performed (spec/04 R110-R119), how a lane that must wait registers and parks (spec/11 R260,
spec/01 R31), and the pre-checks of one access (spec/10 R231, R248). -/

namespace Sys2Proof.Machine

/-! Making requests. -/

/-- A lane's request before its instruction fills it in. -/
def baseRequest (c : IssueCtx) (l : Lane) (id batch : Nat) (lowest : Bool) : Request :=
  { id := id, batch := batch, who := .thread c.wg l.tid, launch := l.w.launch, name := threadIdentity l.w l.tid, core := l.w.core, grp := c.grp, pos := l.pos, op := .result,
    phase := .sent, x := 0, pas := [], obj := 0, size := 0, order := 0, scope := 0, strong := false, io := false,
    cw := false, via := [], chans := [], data := 0, kreg := 0, pred := 7, auth := 0, lowest := lowest, tag := c.h.talloc.toNat,
    dests := ((c.form l.tid).dst.map Reg.ident).filter fun n => !discards n, pc := c.site.pc, nextPc := c.site.skipPc, nextNew := c.site.skipNew,
    unresolved := false, remote := none, faultCall := false }

/-- Adds channels that a core uses to a launch's used set (R117). -/
def State.launchUses (s : State) (launch core : Nat) (cs : List Chan) : State :=
  match s.launch? launch with
  | some l => s.setLaunch { l with used := l.used ++ ((cs.map fun c => (c, core)).filter fun u => !l.used.contains u) }
  | none => s
/-- The channels that a finished launch probes: those whose destination lies within its release scope (R406). -/
def Launch.probes (l : Launch) : List Chan := ((l.used.filter fun u => u.1.within l.rscope u.2).map Prod.fst).eraseDups

/-- A thread's used set once request `id` has used the channel. -/
def markUsed (id : Nat) (used : List (Chan × Nat)) (c : Chan) : List (Chan × Nat) :=
  (used.filter fun u => u.1 != c) ++ [(c, id)]

/-- A request's channels enter the used sets of its thread and its launch (R117). -/
def State.useChans (s : State) (r : Request) : State :=
  match r.who with
  | .thread wg tid =>
    let s := s.modWg wg fun w => w.modThread tid fun t => { t with used := r.chans.foldl (markUsed r.id) t.used }
    match s.wg? wg with
    | some w => s.launchUses w.launch r.core r.chans
    | none => s
  | _ => s

/-- Sends a request: a release first sends its probes (R118). -/
def State.sendReq (s : State) (r : Request) : State :=
  let probes := if r.releases then (s.usedOf r.who).filter fun c => c.within r.scope r.core else []
  let phase := if r.phase == .sent && !probes.isEmpty then .releasing probes else r.phase
  let s := { s with reqs := s.reqs ++ [{ r with phase := phase }] }
  if r.chans.isEmpty then s else s.useChans r

/-- Makes one lane's request, or faults it, or makes none. -/
abbrev LaneRequest := State → IssueCtx → Lane → Request → State × Except FaultInfo (Option Request)

def requestsOf (f : LaneRequest) (c : IssueCtx) (batch : Nat) : List Lane → Bool → Effect → Effect
  | [], _, e => e
  | l :: rest, lowest, e =>
    let (id, s) := e.s.newId
    match f s c l (baseRequest c l id batch lowest) with
    | (s, .error x) => requestsOf f c batch rest lowest { e with s := s, faults := e.faults ++ [(l.tid, x)] }
    | (s, .ok none) => requestsOf f c batch rest lowest { e with s := s }
    | (s, .ok (some r)) =>
      requestsOf f c batch rest false { e with s := s.sendReq r, pending := e.pending ++ [l.tid] }

/-- A variable-latency instruction: one request of each active lane, in ascending pos (R234). -/
def issueRequests (i : Instr) (h : Head) (f : LaneRequest) (s : State) : Host.Outcome State Fault Refusal :=
  .next (issue i h (fun s c ls =>
    let (batch, s) := s.newId
    requestsOf f c batch ls true ⟨s, [], []⟩) s)

/-! Order of performance (R110, R113, R118, R119, R234). -/

def Request.overlaps (r q : Request) : Bool := r.pas.any fun a => q.pas.contains a

/-- Held back at the Hall by what is not the thread's: it writes nothing that a release could order. -/
def Request.atHall (r : Request) : Bool :=
  match r.op with
  | .sched _ => true
  | .follow => true
  | .spawn .. => true
  | .launch => true
  | .budget .. => true
  | _ => false
def Request.isFence (r : Request) : Bool := match r.op with | .fence .. => true | _ => false
/-- An access or a message, which its channel delivers in the order in which its thread sent it (R117). -/
def Request.isAccess (r : Request) : Bool :=
  match r.op with
  | .load _ => true
  | .store _ => true
  | .loadCap _ => true
  | .storeCap .. => true
  | .atom .. => true
  | .ldfe _ => true
  | .stfe .. => true
  | .lock => true
  | .unlock => true
  | .monitor .. => true
  | .send _ => true
  | .recv .. => true
  | .reply .. => true
  | .nsig _ => true
  | .nwait _ => true
  | _ => false
/-- Two requests travel on one channel. -/
def Request.shares (r q : Request) : Bool := r.chans.any fun c => q.chans.contains c

/-- Program order of one thread (R110, R119): a fence or a release follows everything before it (R118 asks for the channels
within the release's scope, R110 for every event: log 65), an acquire comes before everything after it, accesses to one
location and accesses on one channel keep their order (R117, R93), and so do LAUNCHes to one queue (R335). -/
def Request.follows (r q : Request) : Bool :=
  ((r.isFence || r.releases) && !q.atHall) || q.isFence || q.order == 2 || r.overlaps q
    || (r.isAccess && q.isAccess && q.phase != .travelling && r.shares q)
    || (r.op == .launch && q.op == .launch && r.obj == q.obj)

/-- Two accesses through remote authorities meet at a byte of their address space; the second is sent after the first. -/
def Request.meetsAway (r q : Request) : Bool :=
  r.remote.isSome && q.remote.isSome && q.phase != .travelling && decide (r.x < q.x + q.size) && decide (q.x < r.x + r.size)

/-- Lanes of one instruction that act in ascending position: at one location (R234), on one notification (R276), and as they
push tasks and launches (R328, R335). -/
def Request.lanesInOrder (r q : Request) : Bool :=
  r.overlaps q || r.meetsAway q || (match r.op with
    | .nsig _ => r.obj == q.obj
    | .spawn .. => true
    | .launch => true
    | _ => false)

/-- An earlier request that must be performed before this one. -/
def Request.blockedBy (r q : Request) : Bool :=
  q.id < r.id && q.unperformed && ((q.who == r.who && r.follows q) || (q.batch == r.batch && r.lanesInOrder q))

/-- The request has arrived, or its upper half has still to be performed (R105). -/
def Request.arrived (r : Request) : Bool := match r.phase with | .sent => true | .half _ => true | _ => false

def State.mayPerform (s : State) (r : Request) : Bool := r.arrived && !(s.reqs.any fun q => r.blockedBy q)

/-! Waiting. -/

/-- A blocking request that its object cannot satisfy registers (R260); that of a thread that has ended waits for nothing. -/
def State.mustWait (s : State) (r : Request) (kind obj qual : Nat) (h : Holders) : State :=
  let s := s.parkLast r
  if !s.alive r.who then s.dropReq r.id
  else match s.registerWait (s.tableDie r.who r.obj) kind obj qual r.batch r.who h false with
  | (s, some id) =>
    match s.wait? id with
    | some e => if e.walk.isSome then s.setReq { r with phase := .registering, unresolved := true } else s.beginWait r true
    | none => s.beginWait r true
  | (s, none) => s.beginWait r false

/-! One access of a lane. -/

def mBytes (b : MBody) : Nat := 2 ^ b.size.toNat
/-- Natural alignment for a strong access (R105). -/
def mAlign (b : MBody) : Nat := if b.order = 0 then 0 else mBytes b

/-- Channel of an access: a weak access to a remote-home line stays in its die's cache (R99, R117). -/
def accessChan (die order : Nat) (nc : Bool) (pa : Nat) : Chan :=
  if order = 0 ∧ !nc ∧ remoteHome die pa then .slice die (pa / 128 % 64) else chanOf pa

/-- An uncorrectable error found at issue: in the core's L1, its own scratchpad or its vault (R163). -/
def State.ownPoison (s : State) (core : Nat) (pas : List Nat) : Bool :=
  pas.any fun a =>
    ((spaceOf a == .scratch || spaceOf a == .vault) && coreOfPa a == core && s.poisonAt a)
      || (s.l1.contains (core, a / 128) && s.poisonOn (dieOfCore core) a)

/-- The checks of R231 on an access through the second capability operand: its TAG and SEALED carry 1 (Table 10.1), and a remote
one is sealed. -/
def checkSecond (s : State) (l : Lane) (k : BitVec 4) (x : Int) (sp : AccessSpec) : State × Except FaultInfo Placed :=
  let second (f : FaultInfo) : FaultInfo := if f.code = cTAG ∨ f.code = cSEALED then { f with aux1 := 1 } else f
  match checkAccess s l.w.seat (l.cap k) k.toNat x sp with
  | (s, .fault f) => (s, .error (second f))
  | (s, .remote) => (s, .error (.of cSEALED k.toNat 1 (addrWord x)))
  | (s, .ok p) => (s, .ok p)

/-- Fills a request with its checked access. -/
def Request.placed (r : Request) (die : Nat) (b : MBody) (x : Int) (p : Placed) : Request :=
  { r with
    x := (addrWord x).toNat
    pas := p.pas
    obj := p.pas.headD 0
    size := (mBytes b)
    order := b.order
    scope := b.scope.toNat
    strong := p.nc || p.io
    io := p.io
    cw := p.cw
    via := p.via
    chans := (p.pas.map fun a => accessChan die b.order.toNat (p.nc || p.io) a).eraseDups
    data := b.data.toNat
    auth := b.k.toNat
    pred := b.variant.toNat }

/-- An access travels with its remote authority (R248): alignment is checked here, and a tagged capability that it
stores needs TRANSFER. -/
def remoteRequest (l : Lane) (b : MBody) (x : Int) (align : Nat) (r : Request) : Except FaultInfo (Option Request) :=
  let k := l.cap b.k
  let noTransfer := match r.op with
    | .storeCap c _ => c.valid && !c.has pTRANSFER
    | _ => false
  if noTransfer then .error (.of cPERM (b.data.toNat % 16) 116 (addrWord x))
  else if align ≠ 0 ∧ x % align ≠ 0 then .error (.of cALIGN b.k.toNat (mBytes b) (addrWord x))
  else .ok (some { r with
    x := (addrWord x).toNat
    size := (mBytes b)
    order := b.order
    scope := b.scope.toNat
    chans := [.fabric (k.otype.extractLsb' 0 9).toNat]
    data := b.data.toNat
    auth := b.k.toNat
    pred := b.variant.toNat
    remote := some k
    unresolved := true })

/-- A load of data registers or of a capability register. -/
def ReqOp.reads : ReqOp → Bool
  | .load _ => true
  | .loadCap _ => true
  | _ => false

/-- One M-format access: the checks of R231, then its request. `travels` when a remote authority may carry it. On a page of
PBMT IO every access is strong and so naturally aligned (R93, R105); that is known when the page is (log 66). A strong load
can still fault POISON at its point (R257), so its thread issues nothing until it has been performed (log 69). -/
def accessRequest (b : MBody) (op : Lane → ReqOp) (spec : Lane → AccessSpec) (travels unresolved : Bool) : LaneRequest :=
  fun s _ l r =>
    let x := mAddress l b
    let sp := spec l
    let r := { r with op := op l, unresolved := unresolved }
    match checkAccess s l.w.seat (l.cap b.k) b.k.toNat x sp with
    | (s, .fault f) => (s, .error f)
    | (s, .remote) =>
      (s, if travels then remoteRequest l b x sp.align r else .error (.of cSEALED b.k.toNat 0 (addrWord x)))
    | (s, .ok p) =>
      let reads := r.op.reads
      if p.io && x % mBytes b ≠ 0 then (s, .error (.of cALIGN b.k.toNat (mBytes b) (addrWord x)))
      else if reads && s.ownPoison l.w.core p.pas then (s, .error (.of cPOISON b.k.toNat 0 (addrWord x)))
      else (s, .ok (some { r.placed l.w.seat.die b x p with
        unresolved := unresolved || (reads && (b.order != 0 || p.io)) }))

/-- Bytes of a store from its data registers, with their poison (R233). -/
def storeData (l : Lane) (b : MBody) : List (Byte × Bool) :=
  let regs := (sizeRegs b.size.toNat b.data.toNat).filterMap fun r => match r with | .byte n => some (l.w.reg l.tid n) | _ => none
  ((regs.map fun r => (bytesOfNat 4 r.val.toNat).map fun x => (x, r.poison)).flatten).take (mBytes b)

/-- A 32- or 64-bit operand of a run from byte n (R182). -/
def runValue (l : Lane) (b : MBody) (i : Nat) : Nat :=
  if b.size = 3 then (l.pair (b.data.toNat + 2 * i)).toNat else (l.regN (b.data.toNat + i)).toNat

end Sys2Proof.Machine
end

