-- ==== Sys2Proof/Machine/Waiting.lean ====
section
/-! DEFINITION. Waiting instructions at issue (spec/11_waiting_and_messages.md R266-R271, R277): BAR, MWAIT, LOCK, UNLOCK,
WREG, WDEREG, WHOLD, YIELD. -/

namespace Sys2Proof.Machine

/-- The barrier that BAR names (R267, Table 11.1). -/
def barKey (w : Workgroup) (b : IBody) : BarKey :=
  let level := fld b.imm 6 4
  ⟨w.launch, level, barInst level w.core, fld b.imm 3 0⟩

/-- The latest phase in which a thread was counted at a barrier. -/
def Thread.countedAt (t : Thread) (k : BarKey) : Option Nat := (t.counted.find? fun c => c.1 == k).map Prod.snd

/-- BAR's checks, and its request: 0 `.sync`, 1 `.arrive`, 2 `.wait` (R267). An arriving form releases first. -/
def barRequest (b : IBody) : LaneRequest := fun s _ l r =>
  let kind := fld b.variant 1 0
  let key := barKey l.w b
  let counted := (l.w.thread? l.tid).bind fun t => t.countedAt key
  let member := match s.launch? l.w.launch with
    | some la => !l.w.prologue && (la.mask key.level key.num).getLsbD (l.tid / l.w.w)
    | none => false
  if !member then (s, .error (illegalOp 0x23))
  else if kind = 2 ∧ counted.isNone then (s, .error (illegalOp 0x22))
  else (s, .ok (some { r with
    op := .barrier key (counted.getD 0) (kind != 2) (kind != 1)
    order := if kind = 2 then 2 else 3
    scope := key.level
    obj := key.inst
    size := match counted with | some p => p + 1 | none => 0
    pred := if kind = 1 then 7 else fld b.variant 4 2
    unresolved := true }))

/-- BAR (R267). -/
def execBar (h : Head) (b : IBody) : State → Host.Outcome State Fault Refusal :=
  issueRequests (.bar h b) h (barRequest b)

def monitorSpec (b : MBody) : AccessSpec := { perms := [pLOAD], n := mBytes b, align := mBytes b, noDevice := true }
def mwaitWith (i : Instr) (h : Head) (b : MBody) (eq : Bool) : State → Host.Outcome State Fault Refusal :=
  issueRequests i h (accessRequest b (fun l => .monitor eq (runValue l b 0)) (fun _ => monitorSpec b) false true)

/-- MWAIT: waits while the word equals d (R269). -/
def execMwait (h : Head) (b : MBody) : State → Host.Outcome State Fault Refusal := mwaitWith (.mwait h b) h b false
/-- MWAIT.eq: waits until the word equals d (R269). -/
def execMwaitEq (h : Head) (b : MBody) : State → Host.Outcome State Fault Refusal := mwaitWith (.mwaitEq h b) h b true

def lockSpec (b : MBody) : AccessSpec :=
  { perms := [pLOAD, pSTORE], n := mBytes b, align := mBytes b, need := { w := true }, noDevice := true }

/-- LOCK (R268). -/
def execLock (h : Head) (b : MBody) : State → Host.Outcome State Fault Refusal :=
  issueRequests (.lock h b) h (accessRequest b (fun _ => .lock) (fun _ => lockSpec b) false true)
/-- UNLOCK (R268). -/
def execUnlock (h : Head) (b : MBody) : State → Host.Outcome State Fault Refusal :=
  issueRequests (.unlock h b) h (accessRequest b (fun _ => .unlock) (fun _ => lockSpec b) false true)

/-! Declared waits (R270, R271). -/

/-- The object that kA names: a hardware object with a live header, or the physical address of the cursor. -/
def nameObject (s : State) (l : Lane) (ka : BitVec 4) : State × Except FaultInfo Nat :=
  let k := l.cap ka
  let ot := k.otype.toNat
  if k.valid && 2 ≤ ot && ot ≤ 10 then
    if !k.has pINVOKE then (s, .error (.of cPERM ka.toNat pINVOKE k.cursor))
    else if !s.objLive k.objPa ot then (s, .error (.of cTAG ka.toNat 0 k.cursor))
    else (s, .ok k.objPa)
  else
    match checkAccess s l.w.seat k ka.toNat k.cursor.toNat { perms := [pLOAD], n := 1 } with
    | (s, .ok p) => (s, .ok (p.pas.headD 0))
    | (s, .fault f) => (s, .error f)
    | (s, .remote) => (s, .error (.of cSEALED ka.toNat 0 k.cursor))

/-- WREG: an explicit entry, registered without parking (R270). -/
def wregRequest (b : KBody) : LaneRequest := fun s _ l r =>
  match nameObject s l b.ka with
  | (s, .error f) => (s, .error f)
  | (s, .ok obj) =>
    if s.waits.any fun e => e.kind == 11 && e.waiters.contains r.who then (s, .error (illegalOp 0x21))
    else
      let die := dieOfCore l.w.core % 4
      let r := { r with op := .result, batch := r.id, obj := obj, pred := fld b.variant 2 0, auth := b.ka.toNat }
      let holders := if (l.cap b.ka).valid && (l.cap b.ka).otype == 2 then Holders.server else .unknown
      match s.registerWait die 11 obj 0 r.batch r.who holders false with
      | (s, some id) =>
        let prio := min (fld (l.reg b.a) 3 0) (s.basePrio r.who)
        let s := match s.wait? id with | some e => s.setWait { e with state := .armed, prio := prio } | none => s
        (s, .ok (some { r with phase := .registering, unresolved := true }))
      | (s, none) => (s, .ok (some { r with phase := .done (r.report false) none }))

/-- WREG (R270). -/
def execWreg (h : Head) (b : KBody) : State → Host.Outcome State Fault Refusal :=
  issueRequests (.wreg h b) h (wregRequest b)

/-- WDEREG frees the thread's explicit entry for the object (R270). -/
def execWdereg (h : Head) (b : KBody) : State → Host.Outcome State Fault Refusal :=
  issueRequests (.wdereg h b) h fun s _ l r =>
    match nameObject s l b.ka with
    | (s, .error f) => (s, .error f)
    | (s, .ok obj) =>
      let mine (e : WaitEntry) : Bool := e.kind == 11 && e.obj == obj && e.waiters.contains r.who
      ({ s with waits := s.waits.filter fun e => !mine e }, .ok (some { r with phase := .done [] none }))

/-- Fills, replaces or removes a declaration (R271, Table 11.6). -/
def State.declare (s : State) (die obj batch : Nat) (declarer : Party) (holder : Option Party) : State :=
  let others := s.waits.filter fun e => !(e.kind == 12 && e.obj == obj)
  match holder with
  | none => { s with waits := others }
  | some p =>
    match s.waits.find? fun e => e.kind == 12 && e.obj == obj with
    | some e => s.setWait { e with holders := .parties [p], waiters := [declarer] }
    | none =>
      match s.registerWait die 12 obj 0 batch declarer (.parties [p]) false with
      | (s, some id) =>
        match s.wait? id with
        | some e => s.setWait { e with state := .declared, walk := none }
        | none => s
      | (s, none) => s

/-- WHOLD: an endpoint's declared server, else a declaration entry (R271). -/
def wholdRequest (b : KBody) : LaneRequest := fun s _ l r =>
  match nameObject s l b.ka with
  | (s, .error f) => (s, .error f)
  | (s, .ok obj) =>
    let clr := b.variant.getLsbD 0
    let a := (l.reg b.a).toNat
    if !clr && l.w.w * l.w.g ≤ a then (s, .error (illegalOp 0x24))
    else
      let p := Party.thread l.w.id a
      let s :=
        if (l.cap b.ka).otype == 2 then s.poke (obj + 20) 4 (if clr then 0 else (s.identity p).toNat)
        else s.declare (dieOfCore l.w.core % 4) obj r.id r.who (if clr then none else some p)
      (s, .ok (some { r with phase := .done [] none }))

/-- WHOLD (R271). -/
def execWhold (h : Head) (b : KBody) : State → Host.Outcome State Fault Refusal :=
  issueRequests (.whold h b) h (wholdRequest b)

/-! YIELD (R277). -/

/-- Workgroups of a bank that issues. -/
def State.issuing (s : State) (core bank : Nat) : List Workgroup :=
  s.wgs.filter fun w => w.core == core && w.bank == bank && w.life == .running && w.saved.isNone

/-- Other groups of the bank that are ready, as names. -/
def State.readyOthers (s : State) (core bank grp : Nat) : List Nat :=
  ((s.issuing core bank).map fun w =>
    (w.groups.filter fun g => g.id != grp && s.isReady w g).map Group.id).flatten

/-- YIELD: its group gives way; its tag completes at issue (R277). -/
def execYield (h : Head) (b : RBody) (s : State) : Host.Outcome State Fault Refusal :=
  .next (issue (.yield h b) h (fun s c ls =>
    let others := match ls with 
      | l :: _ => (s.setClock l.w.core l.w.bank c.now).readyOthers l.w.core l.w.bank c.grp
      | [] => []
    ⟨s.modWg c.wg fun w =>
      match w.group? c.grp with
      | some g => w.setGroup { g with yieldUntil := some (c.now + 64), yieldOthers := others }
      | none => w, [], []⟩) s)

end Sys2Proof.Machine
end

