-- ==== Sys2Proof/Machine/Place.lean ====
section
/-! DEFINITION. Placing a workgroup on a core: the budgets of a bank and of a core, offsets, and the start state
(spec/01 R42-R44, spec/02 R48, R67, spec/10 R239, spec/05 R140, spec/19 R401). -/

namespace Sys2Proof.Machine

/-- A workgroup's budgets (Table 2.2): accumulators in units of four tiles, storage in bytes. -/
structure Need where
  threads : Nat
  v : Nat
  k : Nat
  tiles : Nat
  acc : Nat
  scr : Nat
  vault : Nat
  deriving DecidableEq, Repr

def Launch.need (l : Launch) : Need :=
  let n := l.w * l.g
  ⟨n, n * l.nv, n * l.nk, l.ntiles, l.nacc, 2048 * l.nscr, 4096 * ((l.nvault + 3) / 4)⟩
def Workgroup.need (w : Workgroup) : Need :=
  let n := w.w * w.g
  ⟨n, n * w.nv, n * w.nk, w.tiles.length, w.accs.length / 4, w.scrLen, w.vaultLen⟩

/-- Workgroups that lie in a bank. -/
def State.residents (s : State) (core bank : Nat) : List Workgroup :=
  s.wgs.filter fun w => w.core == core && w.bank == bank && w.saved.isNone && w.life != .retired
/-- Workgroups of a core, in a bank or saved. -/
def State.onCore (s : State) (core : Nat) : List Workgroup := s.wgs.filter fun w => w.core == core && w.life != .retired

def sumOf {α : Type} (f : α → Nat) (l : List α) : Nat := (l.map f).foldl (· + ·) 0

/-- Room in the pools of a bank that already holds some workgroups (Table 2.2). -/
def poolsFit (ws : List Workgroup) (n : Need) : Bool :=
  let have_ (f : Need → Nat) : Nat := sumOf (fun w => f w.need) ws + f n
  ws.length < 64 && have_ Need.threads ≤ 512 && have_ Need.v ≤ 65536 && have_ Need.k ≤ 8192 && have_ Need.tiles ≤ 256

/-- Lowest offset at which `size` fits among used ranges (offset, length), which rise (log 21). -/
def firstFit (size limit : Nat) : List (Nat × Nat) → Nat → Option Nat
  | [], off => if off + size ≤ limit then some off else none
  | (o, n) :: r, off => if off + size ≤ o then some off else firstFit size limit r (max off (o + n))
def ranges (l : List (Nat × Nat)) : List (Nat × Nat) := sortBy (fun a b => a.1 ≤ b.1) (l.filter fun r => r.2 != 0)

/-- Offsets for a new workgroup in the core's pools: scratchpad, vault, accumulator units. -/
def State.findSpace (s : State) (core : Nat) (n : Need) : Option (Nat × Nat × Nat) :=
  let ws := s.onCore core
  let scr := ranges ((ws.filter fun w => w.spillScr.isNone).map fun w => (w.scrBase, w.scrLen))
  let vault := ranges (ws.map fun w => (w.vaultBase, w.vaultLen))
  let acc := ranges ((ws.filter fun w => !w.spillAcc).map fun w => (w.accBase / 4, w.accs.length / 4))
  match firstFit n.scr 0x80000 scr 0, firstFit n.vault 0x400000 vault 0, firstFit n.acc 128 acc 0 with
  | some a, some b, some c => some (a, b, c)
  | _, _, _ => none

/-- Lowest workgroup slot of a bank that none of the core's workgroups holds: identities do not change (R259). -/
def State.wgSlot? (s : State) (core bank : Nat) : Option Nat :=
  (List.range 64).find? fun i => !((s.onCore core).any fun w => w.bank == bank && w.slot == i)
def State.freeWgSlot (s : State) (core bank : Nat) : Nat := (s.wgSlot? core bank).getD 0

/-- Whether a workgroup of the launch fits in a bank of a core (R43): the package has cores 0 to 1,023 (R4), and a checkpoint
places nothing (R468). -/
def State.hasRoom (s : State) (core bank : Nat) (n : Need) : Bool :=
  core < 1024 && !s.frozen && !(s.core core).fenced && !s.th.fencePending.contains core && !s.th.fencedDies.contains (dieOfCore core) && poolsFit (s.residents core bank) n
    && (s.findSpace core n).isSome && (s.wgSlot? core bank).isSome

/-- The registers that a workgroup's threads begin with: pcc and k1-k15, and s-registers (Table 2.10, R331). -/
structure Start where
  pcc : Cap
  ks : List Cap
  s0 : Word
  s1 : Word
  deriving DecidableEq, Repr

/-- A capability with some of its permissions, and null for null (R67). -/
def Cap.only (c : Cap) (perms : List Nat) : Cap := { c with perms := c.perms &&& permSet perms }
def Cap.isNull (c : Cap) : Bool := c == Cap.null

/-- pcc from a sentry (Table 2.10). -/
def Cap.toPcc (c : Cap) : Cap := { c.only [pEXEC, pLOAD, pGLOBAL, pSYSTEM] with otype := 0 }

def dieWindow (die : Nat) : Nat := scratchBase + die * 0x8000000

/-- Table 2.10, for allocations at given places. -/
def startOf (l : Launch) (core scr vault : Nat) : Start :=
  let n := l.need
  let scrPa := scratchBase + core * 0x80000 + scr
  let vaultPa := vaultBase + core * 0x400000 + vault
  { pcc := l.entry.toPcc
    ks :=
      [.null, l.args.only [pLOAD, pLOADK, pGLOBAL],
       if n.scr = 0 then .null else Cap.make scrPa n.scr (permSet [pLOAD, pSTORE]) 0,
       if n.scr = 0 then .null else Cap.make (dieWindow (dieOfCore core)) 0x8000000 (permSet [pLOAD, pSTORE]) 0,
       if n.vault = 0 then .null
         else Cap.make vaultPa n.vault (permSet [pLOAD, pSTORE, pLOADK, pSTOREK, pSTORELOCAL]) 0,
       l.schedule.only [pLOAD, pINVOKE], l.fault.only [pINVOKE, pGLOBAL]]
    s0 := 0
    s1 := 0 }

/-- A thread in its start state (Table 1.6). No instruction has led it to its first block: the address word of a fault at that
entry is 0 (DESIGN CHOICE, log 75). -/
def Thread.start (tid nv nk : Nat) (st : Start) : Thread where
  tid := tid
  v := List.replicate nv ⟨0, false⟩
  k := (List.range nk).map fun i => ⟨st.ks.getD i .null, false⟩
  p := 0
  pPoison := 0
  pcc := st.pcc
  tags := 0
  status := .grouped
  used := []
  slot := none
  counted := []
  via := 0
  midBlock := false
  blk := .unknown
  reformed := false

/-- A group that enters a block at `pc`. -/
def Group.start (id : Nat) (members : List (Nat × Nat)) (pc : DWord) (now : Nat) : Group :=
  ⟨id, members, pc, .unknown, true, now, [], 0, 0, now, none, none, none, [], [], false⟩

/-- s0 and s1 as given, s62 the clamp bound, the others zero (Table 1.6). -/
def startSregs (st : Start) : List VReg :=
  (((List.replicate 64 (⟨0, false⟩ : VReg)).set 0 ⟨st.s0, false⟩).set 1 ⟨st.s1, false⟩).set 62 ⟨0x7F7FFFFF, false⟩

def freshIds : Nat → State → List Nat × State
  | 0, s => ([], s)
  | n + 1, s =>
    let (id, s) := s.newId
    let (r, s) := freshIds n s
    (id :: r, s)


/-- The words of a range become EMPTY (R239). -/
def State.emptyRange (s : State) (pa n : Nat) : State :=
  { s with fe := s.fe.filter fun x => !(pa ≤ 8 * x && 8 * x < pa + n) }

/-- Reserves a workgroup's budgets and loads its start state: it is LOADING (R42, R43). A launch's first workgroup finds the
core's span cache and codebook RAM empty (R140, R293). The write test applies to the
registers that the Hall sets (R433). -/
def State.placeWg (s : State) (l : Launch) (core bank wgid : Nat) (tweak : Start → Start) : State :=
  match s.findSpace core l.need with
  | none => s
  | some (scr, vault, acc) =>
    let n := l.need
    let st := tweak (startOf l core scr vault)
    let st := { st with pcc := s.sift st.pcc, ks := st.ks.map s.sift }
    let slot := s.freeWgSlot core bank
    let now := (s.core core).clock bank
    let (id, s) := s.newId
    let (ids, s) := freshIds l.g s
    let w : Workgroup :=
      { id := id
        launch := l.id
        core := core
        bank := bank
        slot := slot
        wgid := wgid
        w := l.w
        g := l.g
        nv := l.nv
        nk := l.nk
        life := .loading
        prologue := false
        asid := l.asid
        agelim := l.age
        chk := l.flags.getLsbD 0
        roles := l.roles
        threads := (List.range n.threads).map fun t => Thread.start t l.nv l.nk st
        s := startSregs st
        fpflags := 0
        pend := []
        groups := ids.zipIdx.map fun (id, h) =>
          Group.start id ((List.range l.w).map fun i => (i, h * l.w + i)) st.pcc.cursor now
        gangs := [0, 0, 0]
        latches := []
        tiles := List.replicate l.ntiles 0
        accs := List.replicate (4 * l.nacc) ⟨0, [], false⟩
        accBase := 4 * acc
        scrBase := scr
        scrLen := n.scr
        vaultBase := vault
        vaultLen := n.vault
        pools := []
        savedClock := 0
        saved := none
        spillScr := none
        spillAcc := false }
    let s := s.emptyRange (scratchBase + core * 0x80000 + scr) n.scr
    let s := s.emptyRange (vaultBase + core * 0x400000 + vault) n.vault
    let first := !(s.wgs.any fun x => x.launch == l.id && x.core == core)
    let s := if first then
        { s with spans := s.spans.filter (fun e => e.core != core), codebooks := s.codebooks.filter fun k => k.core != core }
      else s
    { s with wgs := s.wgs ++ [w] }

/-- The prologue's thread on a Hall's scalar unit (R401): width 1, no v-register, k1 and k5. -/
def State.placePrologue (s : State) (l : Launch) : State :=
  let st : Start :=
    { pcc := s.sift l.prologue.toPcc
      ks := [.null, s.sift (l.args.only [pLOAD, pLOADK, pGLOBAL]), .null, .null, .null,
             s.sift (l.schedule.only [pLOAD, pINVOKE])]
      s0 := 0
      s1 := 0 }
  let core := 1024 + l.die
  let now := (s.core core).clock 0
  let (id, s) := s.newId
  let (grp, s) := s.newId
  let w : Workgroup :=
    { id := id
      launch := l.id
      core := core
      bank := 0
      slot := 0
      wgid := 0
      w := 1
      g := 1
      nv := 0
      nk := 16
      life := .running
      prologue := true
      asid := l.asid
      agelim := if l.age = 0 then 256 else l.age
      chk := false
      roles := 0
      threads := [Thread.start 0 0 16 st]
      s := startSregs st
      fpflags := 0
      pend := []
      groups := [Group.start grp [(0, 0)] st.pcc.cursor now]
      gangs := [0, 0, 0]
      latches := []
      tiles := []
      accs := []
      accBase := 0
      scrBase := 0
      scrLen := 0
      vaultBase := 0
      vaultLen := 0
      pools := []
      savedClock := 0
      saved := none
      spillScr := none
      spillAcc := false }
  { s with wgs := s.wgs ++ [w], spans := s.spans.filter fun e => e.core != core }

/-- Issue of a loaded workgroup begins (R42); its first instruction acquires at a scope (Table 4.5, R331). -/
def State.beginWg (s : State) (w : Workgroup) (scope : Nat) : State :=
  let s := s.setWg { w with life := .running }
  if 3 ≤ scope then s.invalidateDie (dieOfCore w.core) else s

end Sys2Proof.Machine
end

