-- ==== Sys2Proof/Machine/Schedule.lean ====
section
/-! DEFINITION. Schedules (spec/13_schedules_and_work.md R308-R326): the schedule registers and the coverage map in object
memory, building parcels, claims, commits, and the schedule instructions at issue. -/

namespace Sys2Proof.Machine

/-! The object (R393): current values at 80, pending values at 144, the map at 256. -/

def State.schedCur (s : State) (pa n : Nat) : Nat := s.peek (pa + 80 + 4 * n) 4
def State.schedPend (s : State) (pa n : Nat) : Nat := s.peek (pa + 144 + 4 * n) 4
def State.setSchedCur (s : State) (pa n x : Nat) : State := s.poke (pa + 80 + 4 * n) 4 x
def State.setSchedPend (s : State) (pa n x : Nat) : State := s.poke (pa + 144 + 4 * n) 4 x

/-- Registers with a pending value (Table 13.1). -/
def stagedRegs : List Nat := [0, 2, 3, 4, 5, 14, 15]

/-- Loop level j's dimension, and the highest dimension in use (Table 13.2). -/
def orderLev (x j : Nat) : Nat := x / 4 ^ j % 4
def orderRank (x : Nat) : Nat := x / 2 ^ 8 % 4
/-- The levels are a permutation of 0-3. -/
def orderPerm (x : Nat) : Bool := (List.range 4).all fun d => (List.range 4).any fun j => orderLev x j == d

/-- Grains of dimension k (R310), from an ORDER, the extents per grain and the points. -/
def grainsOf (order gext dim k : Nat) : Nat := if orderRank order < k then 1 else (dim + gext - 1) / gext
def State.schedN (s : State) (pa k : Nat) : Nat :=
  grainsOf (s.schedCur pa 0) (s.schedCur pa (6 + k)) (s.schedCur pa (10 + k)) k
def State.schedDims (s : State) (pa : Nat) : List Nat := (List.range 4).map (s.schedN pa)
def product (l : List Nat) : Nat := l.foldl (· * ·) 1

/-- Linear index of a grain (R310). -/
def linearIndex (n i : List Nat) : Nat :=
  i.getD 0 0 + n.getD 0 0 * (i.getD 1 0 + n.getD 1 0 * (i.getD 2 0 + n.getD 2 0 * i.getD 3 0))
/-- Coordinates of the grain that comes t-th in loop order: lev0 fastest. -/
def loopGrain (order : Nat) (n : List Nat) (t : Nat) : List Nat :=
  let at_ (d : Nat) : Nat :=
    match (List.range 4).find? fun j => orderLev order j == d with
    | some j => t / product ((List.range j).map fun i => n.getD (orderLev order i) 1) % n.getD d 1
    | none => 0
  (List.range 4).map at_

/-- Whether the object's map has grain g: the map is as long as omake made it, whatever its registers say (R11, R314). -/
def State.hasGrain (s : State) (pa g : Nat) : Bool :=
  match s.grains.find? fun x => x.1 == pa with
  | some x => g < x.2
  | none => g < 4 * (s.objSize pa - 256)
/-- A grain's two bits (R314); one beyond the map counts as done. -/
def State.grain (s : State) (pa g : Nat) : Nat :=
  if s.hasGrain pa g then s.peek (pa + 256 + g / 4) 1 / 4 ^ (g % 4) % 4 else 3
def State.setGrain (s : State) (pa g x : Nat) : State :=
  if s.hasGrain pa g then
    let b := s.peek (pa + 256 + g / 4) 1
    s.poke (pa + 256 + g / 4) 1 (b - s.grain pa g * 4 ^ (g % 4) + x * 4 ^ (g % 4))
  else s
/-- Free for building (R315). -/
def State.grainFree (s : State) (pa g : Nat) : Bool := s.grain pa g % 2 == 0

/-- Coordinates of the box with origin f and extent e. -/
def boxCells (f e : List Nat) : List (List Nat) :=
  let at_ (k : Nat) : List Nat := (List.range (e.getD k 0)).map fun x => f.getD k 0 + x
  ((at_ 3).map fun d => ((at_ 2).map fun c => ((at_ 1).map fun b => (at_ 0).map fun a => [a, b, c, d]).flatten).flatten).flatten
def boxGrains (n f e : List Nat) : List Nat := (boxCells f e).map (linearIndex n)

/-- Grows dimension d of the box while every grain stays free, up to `c`. -/
def State.growBox (s : State) (pa : Nat) (n f : List Nat) (d : Nat) : Nat → List Nat → List Nat
  | 0, e => e
  | fuel + 1, e =>
    let e' := e.set d (e.getD d 1 + 1)
    if (boxGrains n f e').all (s.grainFree pa) then State.growBox s pa n f d fuel e' else e

/-- The first grain in loop order that is free for building, among the positions from `t`. -/
def State.firstFree (s : State) (pa order : Nat) (n : List Nat) : Nat → Nat → Option (List Nat)
  | 0, _ => none
  | fuel + 1, t =>
    let i := loopGrain order n t
    if s.grainFree pa (linearIndex n i) then some i else State.firstFree s pa order n fuel (t + 1)

def State.markBox (s : State) (pa : Nat) (gs : List Nat) (x : Nat) : State := gs.foldl (fun s g => s.setGrain pa g x) s

/-- build of R316. -/
def State.buildParcel (s : State) (pa : Nat) : Option (Parcel × State) :=
  let order := s.schedCur pa 0
  let n := s.schedDims pa
  match s.firstFree pa order n (product n) 0 with
  | none => none
  | some f =>
    let c := (List.range 4).map fun k => min (s.schedCur pa (2 + k)) (n.getD k 1 - f.getD k 0)
    let e := (List.range 4).foldl (fun e j =>
      let d := orderLev order j
      s.growBox pa n f d (c.getD d 1 - 1) e) [1, 1, 1, 1]
    some (⟨f, e, s.schedCur pa 1⟩, s.markBox pa (boxGrains n f e) 1)

/-- The parcel descriptor (Table 13.5). -/
def Parcel.words (p : Parcel) : List Word :=
  let two (l : List Nat) (i : Nat) : Word := BitVec.ofNat 32 (l.getD (i + 1) 0 % 65536 * 65536 + l.getD i 0 % 65536)
  [two p.org 0, two p.org 2, two p.ext 0, two p.ext 2, BitVec.ofNat 32 (p.gen % 65536)]
/-- No parcel; OUT when the quad is outside the placement. -/
def endWords (out : Bool) : List Word := [0, 0, 0, 0, if out then 0xC0000000 else 0x80000000]

/-! Placement and prefetched parcels (R312, R317, R318). -/

def schedDie (pa : Nat) : Nat := dieOfCore (coreOfPa pa)
def placedQuad (lo hi q : Nat) : Bool := if q < 32 then lo.testBit q else hi.testBit (q - 32)
def State.quadPlaced (s : State) (pa q : Nat) : Bool := placedQuad (s.schedCur pa 14) (s.schedCur pa 15) q
def State.corePlaced (s : State) (pa core : Nat) : Bool :=
  dieOfCore core == schedDie pa && s.quadPlaced pa (core % 256 / 4)

def State.prefetched (s : State) (pa core : Nat) : Option Prefetch :=
  s.prefetches.find? fun p => p.sched == pa && p.core == core

/-- Builds a core's next prefetched parcel. -/
def State.prefetch (s : State) (pa core : Nat) : State :=
  match s.buildParcel pa with
  | some (p, s) => { s with prefetches := s.prefetches ++ [⟨pa, core, p⟩] }
  | none => s

/-- The grains of a parcel become abandoned (Table 13.3). -/
def State.abandon (s : State) (pa : Nat) (p : Parcel) : State := s.markBox pa (boxGrains (s.schedDims pa) p.org p.ext) 2

/-- A claim of a core (R318): the parcel delivered, if any, and its descriptor. -/
def State.claimParcel (s : State) (pa core : Nat) : State × Option Parcel × List Word :=
  if !s.corePlaced pa core then (s, none, endWords true)
  else
    let served : Option (Parcel × State) :=
      match s.prefetched pa core with
      | some p => some (p.parcel, { s with prefetches := s.prefetches.filter fun x => !(x.sched == pa && x.core == core) })
      | none => s.buildParcel pa
    match served with
    | none => (s, none, endWords false)
    | some (p, s) => (s.prefetch pa core, some p, p.words)

/-! Writes (R311, R325). -/

/-- The value breaks ORDER's or PEXT's own rules (R325). -/
def State.schedRefuses (s : State) (pa reg x : Nat) : Bool :=
  if reg = 0 then !orderPerm x || orderRank x != orderRank (s.schedCur pa 0) || x / 2 ^ 10 != 0
  else if 2 ≤ reg ∧ reg ≤ 5 then x = 0 || 65535 < x
  else false

/-- Whether the pending values pass a commit's checks. -/
def State.pendingOk (s : State) (pa : Nat) : Bool :=
  !s.schedRefuses pa 0 (s.schedPend pa 0) && ([2, 3, 4, 5].all fun n => !s.schedRefuses pa n (s.schedPend pa n))
    && !(s.schedPend pa 14 == 0 && s.schedPend pa 15 == 0)

/-- Cores of a quad of the schedule die. -/
def quadCores (die q : Nat) : List Nat := (List.range 4).map fun c => die * 256 + 4 * q + c

/-- A commit that passed its checks: new values, GEN, prefetched parcels abandoned and rebuilt, workgroups for the added
quads (R311, R312, R317). Workgroups of a removed quad that have not been dealt are still dealt to it: R312 does not say (DESIGN
CHOICE, log 87). -/
def State.commit (s : State) (pa : Nat) : State :=
  let oldLo := s.schedCur pa 14
  let oldHi := s.schedCur pa 15
  let mine := sortBy (fun a b => a.core ≤ b.core) (s.prefetches.filter fun p => p.sched == pa)
  let s := mine.foldl (fun s p => s.abandon pa p.parcel) { s with prefetches := s.prefetches.filter fun p => p.sched != pa }
  let s := stagedRegs.foldl (fun s n => s.setSchedCur pa n (s.schedPend pa n)) s
  let s := s.setSchedCur pa 1 ((s.schedCur pa 1 + 1) % 2 ^ 32)
  let s := mine.foldl (fun s p => if s.corePlaced pa p.core then s.prefetch pa p.core else s) s
  let added := (List.range 64).filter fun q => s.quadPlaced pa q && !placedQuad oldLo oldHi q
  let cores := (added.map (quadCores (schedDie pa))).flatten
  match s.launches.find? fun l => l.sched == some pa && (l.state == .accepted || l.state == .distributed) with
  | some l =>
    s.setLaunch { l with
      undealt := l.undealt ++ cores.zipIdx.map fun (c, i) => (c, l.count, l.nextWgid + i * l.count)
      nextWgid := l.nextWgid + cores.length * l.count }
  | none => s

/-- SCHWR at the schedule point: false for the fault of R311 and R325. -/
def State.writeSched (s : State) (pa reg : Nat) (x : Word) : Except FaultInfo State :=
  let v := x.toNat
  if 6 ≤ reg ∧ reg ≤ 13 then .error (illegalOp 0x30)
  else if reg = 1 then
    if v = 0 then .ok (stagedRegs.foldl (fun s n => s.setSchedPend pa n (s.schedCur pa n)) s)
    else if v = 1 ∧ s.pendingOk pa then .ok (s.commit pa)
    else .error (illegalOp 0x31)
  else if s.schedRefuses pa reg v then .error (illegalOp 0x31)
  else .ok (s.setSchedPend pa reg v)

/-- PDONE at the schedule point (R324). -/
def State.markDone (s : State) (pa : Nat) (ws : List Word) : Except FaultInfo State :=
  let w (i : Nat) : Nat := (ws.getD i 0).toNat
  if (ws.getD 4 0).getLsbD 31 then .ok s
  else
    let org := [w 0 % 65536, w 0 / 65536, w 1 % 65536, w 1 / 65536]
    let ext := [w 2 % 65536, w 2 / 65536, w 3 % 65536, w 3 / 65536]
    let n := s.schedDims pa
    let inside := (List.range 4).all fun k => decide (1 ≤ ext.getD k 0) && decide (org.getD k 0 + ext.getD k 0 ≤ n.getD k 0)
    if !inside then .error (illegalOp 0x35)
    else
      let gs := boxGrains n org ext
      if gs.all fun g => s.grain pa g == 1 then .ok (s.markBox pa gs 3) else .error (illegalOp 0x35)

/-- Word `n` of the map: zero beyond the last grain (R326), and beyond the object's own map (R11). -/
def State.mapWord (s : State) (pa n : Nat) : Word :=
  if product (s.schedDims pa) ≤ 16 * n then 0
  else BitVec.ofNat 32 (natOfBytes ((List.range 4).map fun i =>
    if s.hasGrain pa (16 * n + 4 * i) then s.byteAt (pa + 256 + 4 * n + i) else 0))

/-! At the schedule point (R308): the acting lane's request, with its fellows. -/

def State.fellows (s : State) (r : Request) : List Request := s.reqs.filter fun q => q.batch == r.batch
def State.finishAll (s : State) (r : Request) (ws : Request → List Wr) : State :=
  (s.fellows r).foldl (fun s q => s.finish q (ws q) none) s
def State.failAll (s : State) (r : Request) (f : FaultInfo) : State := (s.fellows r).foldl (fun s q => s.fail q f) s

/-- A request's result register in its own lane; an s-register is written for the lowest lane. -/
def laneWrite (q : Request) (x : Word) : List Wr :=
  match q.who with
  | .thread _ tid => if q.data < 0xC0 || q.lowest then [wrByte tid q.data x] else []
  | _ => []

/-- An asynchronous claim is served: its delivery queues at the mailbox's third word (R323). -/
def State.queueMailbox (s : State) (r : Request) (p : Option Parcel) (ws : List Word) : State :=
  let wg := match r.who with | .thread wg _ => wg | _ => 0
  let asid := match s.wg? wg with | some w => w.asid | none => 0
  let (id, s) := s.newId
  let q := { r with id := id, batch := id, who := .hall (dieOfCore r.core), op := .mailbox ws, phase := .waiting,
                    obj := (r.pas.headD 0) + 16, order := 3, scope := 2, tag := 0, dests := [], unresolved := false }
  { s with reqs := s.reqs ++ [q], mailClaims := s.mailClaims ++ [⟨id, wg, r.core, asid, r.obj, p⟩] }

/-- A schedule request is performed (R308). -/
def State.performSched (s : State) (r : Request) (act : SchedAct) : State :=
  match act with
  | .claim =>
    let (s, _, ws) := s.claimParcel r.obj r.core
    s.finishAll r fun q =>
      match q.who with
      | .thread _ tid => if q.lowest then ws.zipIdx.map fun (x, i) => wrByte tid (q.data + i) x else []
      | _ => []
  | .asyncClaim =>
    let (s, p, ws) := s.claimParcel r.obj r.core
    (s.finishAll r fun _ => []).queueMailbox r p ws
  | .mark ws =>
    match s.markDone r.obj ws with
    | .ok s => s.finishAll r fun _ => []
    | .error f => s.failAll r f
  | .rd reg =>
    let x := BitVec.ofNat 32 (s.schedCur r.obj reg)
    s.finishAll r fun q => laneWrite q x
  | .wr reg x =>
    match s.writeSched r.obj reg x with
    | .ok s => s.finishAll r fun _ => []
    | .error f => s.failAll r f
  | .cov n =>
    let x := s.mapWord r.obj n
    s.finishAll r fun q => laneWrite q x

/-! At issue (R320). -/

/-- The checks of R320 and R387 on a schedule capability. -/
def schedCheck (s : State) (l : Lane) (k : BitVec 4) (need : Option Nat) : Except FaultInfo Nat :=
  let c := l.cap k
  let flt (code : BitVec 8) (detail : Nat) : Except FaultInfo Nat := .error (.of code k.toNat detail c.cursor)
  if !c.valid then flt cTAG 0
  else if c.remote then flt cSEALED 0
  else if c.otype ≠ 8 then flt cOTYPE c.otype.toNat
  else if !c.has pINVOKE then flt cPERM pINVOKE
  else match need.filter fun n => !c.has n with
    | some n => flt cPERM n
    | none => if s.objLive c.objPa 8 then .ok c.objPa else flt cTAG 0

/-- An instruction that acts once (R320): the lowest lane's operands decide, every lane shares the outcome. `use` are the
registers that the lowest lane consumes; `safe` asks for a schedule-safe block (R133). -/
def onceIssue (i : Instr) (h : Head) (use : List Reg) (safe : Bool)
    (f : State → Lane → Request → State × Except FaultInfo Request) (s : State) : Host.Outcome State Fault Refusal :=
  .next (issue i h (fun s c ls =>
    match ls with
    | [] => ⟨s, [], []⟩
    | l :: rest =>
      let blk := match (s.wg? c.wg).bind fun w => w.group? c.grp with | some g => g.blk | none => .unknown
      let early : Option FaultInfo :=
        match use.find? l.poisoned with
        | some r => some (.of cPOISON r.ident)
        | none => if safe && !blk.safe then some (illegalOp 0x3A) else none
      let (batch, s) := s.newId
      let (id, s) := s.newId
      let made : State × Except FaultInfo Request := match early with
        | some x => (s, .error x)
        | none => f s l (baseRequest c l id batch true)
      match made with
      | (s, .error x) => ⟨s, ls.map fun l => (l.tid, x), []⟩
      | (s, .ok r) =>
        let r := { r with unresolved := true }
        let s := rest.foldl (fun s q =>
          let (id, s) := s.newId
          s.sendReq { baseRequest c q id batch false with
            op := .follow
            order := r.order
            scope := r.scope
            data := r.data
            unresolved := true }) (s.sendReq r)
        ⟨s, [], ls.map Lane.tid⟩) s)

/-- A request to a schedule point. -/
def Request.toSched (r : Request) (k : BitVec 4) (pa : Nat) (act : SchedAct) (data : Nat) : Request :=
  { r with op := .sched act, obj := pa, data := data, auth := k.toNat }

/-- The mailbox as a 24-byte store aligned to 32 bytes on an FE page (R323). -/
def mailboxSpec : AccessSpec :=
  { perms := [pSTORE], n := 24, align := 32, need := { w := true, fe := true } }

/-- A workgroup's asynchronous claims that the Hall holds, and those on their way. -/
def State.asyncClaims (s : State) (wg : Nat) : Nat :=
  let going (r : Request) : Bool :=
    (match r.who with | .thread w _ => w == wg | _ => false) && r.unresolved &&
      (match r.op with | .sched .asyncClaim => true | _ => false)
  (s.mailClaims.filter fun m => m.wg == wg).length + (s.reqs.filter going).length

def pclaimRequest (b : MBody) (s : State) (l : Lane) (r : Request) : State × Except FaultInfo Request :=
  match schedCheck s l b.k none with
  | .error f => (s, .error f)
  | .ok pa =>
    if !b.variant.getLsbD 0 then (s, .ok (r.toSched b.k pa .claim b.data.toNat))
    else
      let m : BitVec 4 := b.data.extractLsb' 0 4
      let x := ((l.cap m).cursor.toNat : Int) + b.offset.toInt
      match checkSecond s l m x mailboxSpec with
      | (s, .error f) => (s, .error f)
      | (s, .ok p) => (s, .ok { r.toSched b.k pa .asyncClaim 0 with
          x := (addrWord x).toNat
          pas := p.pas
          size := 24 })

/-- PCLAIM (R322, R323): a fifth asynchronous claim of the workgroup is held back at issue. -/
def execPclaim (h : Head) (b : MBody) (s : State) : Host.Outcome State Fault Refusal :=
  let use := Reg.k b.k.toNat :: if b.variant.getLsbD 0 then [Reg.k (b.data.toNat % 16)] else []
  match s.current with
  | some (w, g) =>
    if b.variant.getLsbD 0 && 4 ≤ s.asyncClaims w.id && !(activeTids h false w g).isEmpty then .next (s.stall w)
    else onceIssue (.pclaim h b) h use true (pclaimRequest b) s
  | none => .next s

/-- PDONE: a release at `.die` (R324). -/
def execPdone (h : Head) (b : MBody) : State → Host.Outcome State Fault Refusal :=
  onceIssue (.pdone h b) h (Reg.k b.k.toNat :: rrun b.data.toNat 5) false fun s l r =>
    match schedCheck s l b.k none with
    | .error f => (s, .error f)
    | .ok pa =>
      let ws := (List.range 5).map fun i => l.regN (b.data.toNat + i)
      (s, .ok { r.toSched b.k pa (.mark ws) 0 with order := 3, scope := 2 })

/-- SCHRD (R325). -/
def execSchrd (h : Head) (b : KBody) : State → Host.Outcome State Fault Refusal :=
  onceIssue (.schrd h b) h [Reg.k b.ka.toNat] true fun s l r =>
    match schedCheck s l b.ka (some pLOAD) with
    | .error f => (s, .error f)
    | .ok pa => (s, .ok (r.toSched b.ka pa (.rd (fld b.imm 3 0)) b.a.toNat))

/-- SCHWR (R311, R325). -/
def execSchwr (h : Head) (b : KBody) : State → Host.Outcome State Fault Refusal :=
  onceIssue (.schwr h b) h [Reg.k b.ka.toNat, Reg.byte b.a.toNat] false fun s l r =>
    match schedCheck s l b.ka (some pSTORE) with
    | .error f => (s, .error f)
    | .ok pa => (s, .ok (r.toSched b.ka pa (.wr (fld b.imm 3 0) (l.reg b.a)) 0))

/-- COVRD: an acquire at `.die` (R326). -/
def execCovrd (h : Head) (b : KBody) : State → Host.Outcome State Fault Refusal :=
  onceIssue (.covrd h b) h [Reg.k b.ka.toNat] false fun s l r =>
    match schedCheck s l b.ka (some pLOAD) with
    | .error f => (s, .error f)
    | .ok pa => (s, .ok { r.toSched b.ka pa (.cov (fld b.imm 15 0)) b.a.toNat with order := 2, scope := 2 })

end Sys2Proof.Machine
end

