-- ==== Sys2Proof/Machine/Queues.lean ====
section
/-! DEFINITION. Queues and launch records (spec/19_objects_queues_launch.md R394-R399): the queue control block, entries,
appending, validation of a record, and rejection with its stamp and signals. -/

namespace Sys2Proof.Machine

/-! Queue control blocks (Table 19.6). -/

def qcbEntries (s : State) (pa : Nat) : Nat := (s.objSize pa - 256) / 256
def qcbReserve (s : State) (pa : Nat) : Nat := s.peek (pa + 56) 8
def qcbRead (s : State) (pa : Nat) : Nat := s.peek (pa + 64) 8
def qcbSeq (s : State) (pa : Nat) : Nat := s.peek (pa + 72) 8
/-- Address of entry i, modulo the ring. -/
def qcbEntry (s : State) (pa i : Nat) : Nat := pa + 256 + 256 * (i % max 1 (qcbEntries s pa))
/-- No room for another entry (R395). -/
def qcbFull (s : State) (pa : Nat) : Bool := qcbEntries s pa ≤ (qcbReserve s pa - qcbRead s pa)

/-- A queue as its home Hall knows it. -/
def State.queueOf (s : State) (pa : Nat) : QueueState :=
  (s.queue? pa).getD ⟨pa, s.peek (pa + 52) 4, homeOf pa % 4, false, .null, .null, 0, false, false, 0⟩
def State.putQueue (s : State) (q : QueueState) : State :=
  if (s.queue? q.pa).isSome then s.setQueue q else { s with queues := s.queues ++ [q] }

/-- The first operation reads schedctx, aspace and scope (R387, R394). A queue that is no longer live gets no record again. -/
def State.openQueue (s : State) (pa : Nat) : QueueState × State :=
  let q := s.queueOf pa
  if q.opened || !s.objLive pa 7 then (q, s)
  else
    let q := { q with opened := true, ctx := s.sift (s.capAt (pa + 16)), aspace := s.sift (s.capAt (pa + 32)),
                      scope := s.peek (pa + 48) 1 }
    (q, s.putQueue q)

/-- A doorbell: the queue's home Hall will read published entries (R395, R397). -/
def State.ring (s : State) (pa : Nat) : State :=
  let (q, s) := s.openQueue pa
  if q.rung || q.cached then s.putQueue { q with rung := true }
  else
    let (n, s) := s.newId
    s.putQueue { q with rung := true, use := n }
def State.ringNumber (s : State) (n : Nat) : State :=
  match s.queues.find? fun q => q.num == n && s.objLive q.pa 7 with
  | some q => s.ring q.pa
  | none => s

/-- A capability field that can name an object of a type (R394): tagged, of the otype, with INVOKE. -/
def namesType (c : Cap) (type : Nat) : Bool := c.valid && c.otype.toNat == type && c.has pINVOKE
/-- It names a usable object: one with a live header of the type (R387, R394). -/
def State.fieldOk (s : State) (c : Cap) (type : Nat) : Bool := namesType c type && s.objLive c.objPa type
/-- The object's header says that it has been revoked (R387). -/
def State.objRevoked (s : State) (pa type : Nat) : Bool := s.peek pa 1 == type && s.peek (pa + 1) 1 == 1

/-! Records (Table 19.8). -/

def recNat (b : List Byte) (off n : Nat) : Nat := natOfBytes ((b.drop off).take n)
def recCap (b : List Byte) (tags : BitVec 16) (i : Nat) : Cap :=
  Cap.ofBits (tags.getLsbD i) (BitVec.ofNat 128 (recNat b (16 * i) 16))

/-- The Hall's copy of a record. Fields of zero that the kernel descriptor supplies are filled by validation. -/
def launchOf (id queue die seq : Nat) (b : List Byte) (tags : BitVec 16) : Launch where
  id := id
  queue := queue
  die := die
  seq := seq
  state := .taken
  entry := recCap b tags 0
  args := recCap b tags 1
  schedule := recCap b tags 2
  fault := recCap b tags 3
  stamp := recCap b tags 4
  cnotify := recCap b tags 5
  prologue := recCap b tags 6
  work := recCap b tags 7
  masks := (List.range 40).map fun i => BitVec.ofNat 16 (recNat b (128 + 2 * i) 2)
  roles := BitVec.ofNat 64 (recNat b 208 8)
  dims := (List.range 4).map fun i => let d := recNat b (216 + 4 * i) 4; if d = 0 then 1 else d
  w := recNat b 232 1
  g := recNat b 233 1
  nv := recNat b 234 1
  nk := recNat b 235 1
  ntiles := recNat b 236 2
  nacc := recNat b 238 1
  flags := BitVec.ofNat 8 (recNat b 239 1)
  nscr := recNat b 240 2
  age := recNat b 242 2
  nvault := recNat b 244 2
  rscope := recNat b 246 1
  cbit := recNat b 247 1
  count := recNat b 248 4
  nfslot := recNat b 252 2
  record := b
  rtags := tags
  image := []
  asid := 0
  ctx := 0
  prio := 0
  scope := 0
  sched := none
  repeats := false
  cancelled := false
  prologueFault := false
  error := 0
  undealt := []
  nextWgid := 0
  used := []
  records := []

/-- Seat of a Hall's accesses for a launch (Table 20.1). -/
def Launch.seat (l : Launch) : Seat := ⟨1024 + l.die, l.die, l.asid, some l.id, dieTlbs l.die⟩

/-- The record's bytes with its tags, read at given addresses. -/
def State.readRecordAt (s : State) (die : Nat) (nc cw : Bool) (pas : List Nat) : State × List Byte × BitVec 16 :=
  let (s, bs) := s.readAs die nc nc pas
  (List.range 16).foldl (fun (acc : State × List Byte × BitVec 16) i =>
    let (s, b, tags) := acc
    let (s, c, _) := s.readCapAs die nc nc (pas.getD (16 * i) 0)
    (s, b, if (s.sift c).tag && cw then tags ||| ((1 : BitVec 16) <<< i) else tags)) (s, bs.map Prod.fst, 0)

/-- Appends a record to the ring and publishes it (R335, R395): the entry's valid field is set last. -/
def State.append (s : State) (pa : Nat) (b : List Byte) (tags : BitVec 16) : State :=
  let i := qcbReserve s pa
  let at_ := qcbEntry s pa i
  let s := (List.range 16).foldl (fun s j =>
    s.putCap (at_ + 16 * j) (recCap b tags j) false) s
  let s := s.putBytes [(at_ + 254, 1, false), (at_ + 255, 0, false)]
  (s.poke (pa + 56) 8 (i + 1)).ring pa

/-! Validation (R399). Field 4 is stamp, 5 cnotify. -/

/-- A capability field of the record: null, or tagged, well formed, of the otype, with permissions. -/
def fieldBad (c : Cap) (type : Nat) (perms : List Nat) (nullOk : Bool) : Bool :=
  if c.isNull then !nullOk else !(c.valid && c.otype.toNat == type && perms.all c.has)
def State.objFieldBad (s : State) (c : Cap) (type : Nat) (nullOk : Bool) : Bool :=
  fieldBad c type [] nullOk || (!c.isNull && !s.objLive c.objPa type)

def stampBad (c : Cap) : Bool :=
  fieldBad c 0 [pSTORE] true ||
    (!c.isNull && (c.cursor.toNat % 8 != 0 || c.cursor.toNat < c.base || c.top < c.cursor.toNat + 8))
def Launch.cnotifyBad (l : Launch) : Bool := fieldBad l.cnotify 3 [] true
/-- Table 19.8 lets the work field not be null (log 24). -/
def workBad (l : Launch) : Bool :=
  fieldBad l.work 0 [pLOAD, pSTORE] false || l.work.cursor.toNat < l.work.base
    || l.work.top < l.work.cursor.toNat + 512 * l.nfslot

/-- The kernel descriptor: the data span before the entry block (R398). -/
def State.descriptor (s : State) (l : Launch) : State × Option (List Byte) :=
  let x : Int := (l.entry.cursor.toNat : Int) - 128
  let c := { l.entry with otype := 0 }
  match checkAccess s l.seat c 0 x { perms := [], n := 128 } with
  | (s, .ok p) =>
    let (s, bs) := s.readAs l.die (p.nc || p.io) (p.nc || p.io) p.pas
    (s, some (bs.map Prod.fst))
  | (s, _) => (s, none)

/-- Fields of zero take the descriptor's values; registers are rounded to their granule (R48, R398). -/
def Launch.fill (l : Launch) (d : List Byte) : Launch :=
  let or_ (x off : Nat) : Nat := if x = 0 then recNat d off 1 else x
  { l with
    w := or_ l.w 8
    g := or_ l.g 9
    nv := or_ l.nv 10
    nk := or_ l.nk 11
    roles := if l.roles = 0 then BitVec.ofNat 64 (recNat d 12 8) else l.roles
    image := (List.range 16).map fun i => BitVec.ofNat 32 (recNat d (20 + 4 * i) 4)
    age := if l.age = 0 then 256 else l.age }
def Launch.rounded (l : Launch) : Launch := { l with nv := (l.nv + 7) / 8 * 8, nk := (l.nk + 7) / 8 * 8 }

/-- Initial schedule registers: the object's image where nonzero, else the descriptor's (R309, R393). -/
def State.initialReg (s : State) (l : Launch) (pa n : Nat) : Nat :=
  if 10 ≤ n ∧ n ≤ 13 then l.dims.getD (n - 10) 1
  else if n = 1 then 1
  else
    let x := s.peek (pa + 16 + 4 * n) 4
    if x = 0 then (l.image.getD n 0).toNat else x

/-- Errors of the schedule's initial values and grains: (0x04, 0x05, 0x0A) (R309, R310). -/
def State.scheduleErrors (s : State) (l : Launch) (pa : Nat) : List Nat :=
  let r := s.initialReg l pa
  let ns := (List.range 4).map fun k => grainsOf (r 0) (r (6 + k)) (r (10 + k)) k
  let total := product ns
  let g := match s.grains.find? fun x => x.1 == pa with | some x => x.2 | none => 0
  let low (m : Nat) : Bool := r m % 65536 == 0
  (if ns.any (fun x => 65535 < x) || 2 ^ 20 < total || g < total || l.dims.any (· == 0) then [4] else [])
    ++ (if r 0 / 2 ^ 10 != 0 || ([2, 3, 4, 5, 6, 7, 8, 9].any fun m => 65535 < r m) then [5] else [])
    ++ (if !orderPerm (r 0) || ([2, 3, 4, 5, 6, 7, 8, 9].any low) || (r 14 == 0 && r 15 == 0) then [10] else [])

/-- The queue's address space has been torn down (R425), its context revoked (R432). -/
def State.queueTorn (s : State) (q : QueueState) : Bool := s.fieldOk q.aspace 5 && s.peek (q.aspace.objPa + 26) 1 == 1
def State.ctxGone (s : State) (q : QueueState) : Bool := namesType q.ctx 4 && s.objRevoked q.ctx.objPa 4
/-- The queue's address space and context as a launch finds them: fields that are usable, a revoked context being none that
is unusable (R394), and whether either has ended. -/
def State.queueUsable (s : State) (q : QueueState) : Bool := s.fieldOk q.aspace 5 && (s.fieldOk q.ctx 4 || s.ctxGone q)
def State.queueEnded (s : State) (q : QueueState) : Bool := s.queueTorn q || s.ctxGone q
/-- A launch under its queue's address space, context and scope; ASID 1024, which no space has, where the field is unusable. -/
def State.underQueue (s : State) (q : QueueState) (l : Launch) : Launch :=
  { l with asid := if s.fieldOk q.aspace 5 then s.asidAt q.aspace.objPa else 1024, ctx := q.ctx.objPa, scope := q.scope }

def State.podConfigured (s : State) : Bool := s.th.pkgid.getLsbD 15

/-- Errors of a filled record, apart from its descriptor and its queue (Table 19.9). -/
def State.recordErrors (s : State) (l : Launch) : List Nat :=
  let n := l.rounded.need
  let scheduled := !l.schedule.isNull
  (if fieldBad l.entry 1 [pEXEC, pLOAD] false || fieldBad l.args 0 [] true || s.objFieldBad l.schedule 8 true
      || fieldBad l.fault 2 [] false || stampBad l.stamp || l.cnotifyBad || fieldBad l.prologue 1 [] true || workBad l
    then [1] else [])
    ++ (if !([8, 16, 32, 64].contains l.w) || l.g < 1 || 16 < l.g || 512 < l.w * l.g || l.nv < 1 || 192 < l.nv
      || l.nk < 1 || 16 < l.nk then [2] else [])
    ++ (if 256 < l.ntiles || 128 < l.nacc || 65536 < n.v || 8192 < n.k || l.count == 0 then [3] else [])
    ++ (if scheduled then s.scheduleErrors l l.schedule.objPa else [])
    ++ (if l.flags.toNat / 8 != 0 || l.masks.any (fun m => m.toNat / 2 ^ l.g != 0) then [5] else [])
    ++ (if (l.flags.getLsbD 1 && scheduled) || (!s.podConfigured && (l.masks.drop 36).any (· != 0)) then [6] else [])
    ++ (if l.prologueFault then [7] else [])
    ++ (if l.cancelled then [8] else [])
    ++ (if (1 ≤ l.age && l.age ≤ 15) || 4096 < l.age || 4 < l.rscope || 31 < l.cbit || 256 < l.nscr || 4096 < l.nvault
      || (!scheduled && 2 ^ 24 ≤ l.count) then [10] else [])

/-- The least of some error codes: the first applicable of Table 19.9. -/
def firstError (es : List Nat) : Option Nat :=
  es.foldl (fun acc e => match acc with | none => some e | some a => some (min a e)) none

/-- Validates a launch (R399): its error, or the launch with its fields filled. -/
def State.validate (s : State) (l : Launch) : State × Except Nat Launch :=
  let (q, s) := s.openQueue l.queue
  let l := s.underQueue q l
  let (s, d) := s.descriptor l
  let torn := s.queueTorn q
  let ended := s.queueEnded q || s.objRevoked l.queue 7
  let l' := match d with | some d => l.fill d | none => l
  let es := (if !s.queueUsable q || (d.isNone && !torn) then [1] else []) ++ s.recordErrors l' ++ (if ended then [9] else [])
  match firstError es with
  | some e => (s, .error e)
  | none => (s, .ok l'.rounded)

end Sys2Proof.Machine
end

