-- ==== Sys2Proof/Machine/Work.lean ====
section
/-! DEFINITION. Range tasks, register budgets, device-side launches and the prologue's own instructions
(spec/13_schedules_and_work.md R327-R335, spec/19_objects_queues_launch.md R403): at issue and at the Hall. -/

namespace Sys2Proof.Machine

/-! LAUNCH (R335). -/

/-- The queue capability's checks: the QUEUE's address. -/
def queueCheck (s : State) (l : Lane) (k : BitVec 4) : Except FaultInfo Nat :=
  let c := l.cap k
  let flt (code : BitVec 8) (detail : Nat) : Except FaultInfo Nat := .error (.of code k.toNat detail c.cursor)
  if !c.valid then flt cTAG 0
  else if c.remote then flt cSEALED 0
  else if c.otype ≠ 7 then flt cOTYPE c.otype.toNat
  else if !c.has pINVOKE then flt cPERM pINVOKE
  else if !s.objLive c.objPa 7 then flt cTAG 0
  else .ok c.objPa

/-- LAUNCH's checks and its request. R335 lets a store to the record after LAUNCH and before its tag completes be seen or not:
its thread issues nothing before the record has been read, so that none is (DESIGN CHOICE, log 87). -/
def launchRequest (b : KBody) : LaneRequest := fun s _ l r =>
  match queueCheck s l b.ka with
  | .error f => (s, .error f)
  | .ok pa =>
    let k := l.cap b.kb
    match checkSecond s l b.kb k.cursor.toNat { perms := [pLOAD], n := 256, align := 64 } with
    | (s, .error f) => (s, .error f)
    | (s, .ok p) =>
      if !k.has pLOADK then (s, .error (.of cPERM b.kb.toNat pLOADK k.cursor))
      else
      let (q, s) := s.openQueue pa
      (s, .ok (some { r with
        op := .launch
        unresolved := true
        obj := pa
        x := k.cursor.toNat
        pas := p.pas
        size := 256
        order := 3
        scope := q.scope
        strong := p.nc || p.io
        cw := p.cw
        via := p.via
        auth := b.kb.toNat }))

/-- LAUNCH (R335). -/
def execLaunch (h : Head) (b : KBody) : State → Host.Outcome State Fault Refusal :=
  issueRequests (.launch h b) h (launchRequest b)

/-- Whether a LAUNCH finds its queue cached and its ring not full (R335, R396). -/
def State.launchReady (s : State) (r : Request) : Bool := (s.queueOf r.obj).cached && !qcbFull s r.obj
/-- The Hall reads the record and appends it. -/
def State.performLaunch (s : State) (r : Request) : State :=
  let (s, b, tags) := s.readRecordAt (homeOf r.obj % 4) r.strong r.cw r.pas
  (s.append r.obj b tags).finish r [] none

/-! SPAWN (R328). -/

def spawnRequest (b : KBody) : LaneRequest := fun s _ l r =>
  let w := fld b.variant 2 0
  let ke := l.cap b.ka
  let ko := l.cap b.kb
  let flt (code : BitVec 8) (detail : Nat) : Except FaultInfo (Option Request) := .error (.of code b.ka.toNat detail ke.cursor)
  let tasks := match s.launch? l.w.launch with | some la => la.flags.getLsbD 1 | none => false
  if !tasks then (s, .error (illegalOp 0x37))
  else if !ke.valid then (s, flt cTAG 0)
  else if ke.remote then (s, flt cSEALED 0)
  else if ke.otype ≠ 1 then (s, flt cOTYPE ke.otype.toNat)
  else if !ke.has pEXEC then (s, flt cPERM pEXEC)
  else
    let words : State × Except FaultInfo (List Nat) :=
      if w = 0 then (s, .ok [])
      else match checkSecond s l b.kb (l.cap b.kb).cursor.toNat { perms := [pLOAD], n := 8 * w, align := 8, need := { fe := true } } with
        | (s, .error f) => (s, .error f)
        | (s, .ok p) => (s, .ok p.pas)
    match words with
    | (s, .error f) => (s, .error f)
    | (s, .ok pas) =>
      let lo := (l.regN b.a.toNat).toNat
      let hi := (l.regN (b.a.toNat + 1)).toNat
      if hi < lo then (s, .error (illegalOp 0x36))
      else if lo = hi then (s, .ok (some { r with phase := .done [] none }))
      else (s, .ok (some { r with op := .spawn ke ko lo hi, pas := pas, order := 3, scope := 3, unresolved := true }))

/-- SPAWN (R328). -/
def execSpawn (h : Head) (b : KBody) : State → Host.Outcome State Fault Refusal :=
  issueRequests (.spawn h b) h (spawnRequest b)

/-! The task store of a die (R327). -/

def Task.die (t : Task) : Nat := dieOfCore t.core
def Task.stored (t : Task) : Bool := t.place == .deque
/-- Tasks that the store of a die holds, of 4,096. -/
def State.stored (s : State) (die : Nat) : List Task := s.tasks.filter fun t => t.die == die && t.stored
def State.storeFull (s : State) (die : Nat) : Bool := 4096 ≤ (s.stored die).length

/-- Tasks that fit in a launch's spill area, after its fault record slots. -/
def Launch.spillRoom (l : Launch) : Nat :=
  if l.work.isNull then 0 else (l.work.top - (l.work.cursor.toNat + 512 * l.nfslot)) / 64
def State.spilledOf (s : State) (launch : Nat) : List Task := s.tasks.filter fun t => t.launch == launch && t.place == .spilled

/-- The oldest task of the largest deque of a die (R327); of two as large, that of the lower core (DESIGN CHOICE, log 61). -/
def State.spillCandidate (s : State) (die : Nat) : Option Task :=
  let all := s.stored die
  let size (t : Task) : Nat := (all.filter fun x => x.core == t.core).length
  all.foldl (fun acc t =>
    match acc with
    | none => some t
    | some a =>
      if size a < size t || (size a == size t && (t.core < a.core || (t.core == a.core && t.seq < a.seq))) then some t
      else acc) none

def State.setTask (s : State) (t : Task) : State := { s with tasks := putBy Task.id t s.tasks }

/-- `n` bytes that nothing constrains: a layout that the spec does not give (log 25). -/
def freshBytes : Nat → State → List Byte × State
  | 0, s => ([], s)
  | n + 1, s =>
    let (x, s) := s.fresh
    let (r, s) := freshBytes n s
    (x.extractLsb' 0 8 :: r, s)

/-- Moves the die's candidate into its launch's spill area, 64 bytes of memory; false when there is no room. -/
def State.spillOne (s : State) (die : Nat) : State × Bool :=
  match s.spillCandidate die with
  | none => (s, false)
  | some t =>
    match s.launch? t.launch with
    | none => (s, false)
    | some l =>
      let n := (s.spilledOf l.id).length
      if l.spillRoom ≤ n then (s, false)
      else
        match checkAccess s l.seat l.work 0 ((l.work.cursor.toNat : Int) + 512 * l.nfslot + 64 * n)
            { perms := [pSTORE], n := 64, need := { w := true } } with
        | (s, .ok p) =>
          let (bs, s) := freshBytes 64 s
          ((s.engineWrite die ((p.pas.zip bs).map fun (a, b) => (a, b, false))).setTask { t with place := .spilled }, true)
        | (s, _) => (s, false)

/-- The Hall accepts a task (R327, R328). -/
def State.performSpawn (s : State) (r : Request) (entry operands : Cap) (lo hi : Nat) : State :=
  let die := dieOfCore r.core
  let (s, room) := if s.storeFull die then s.spillOne die else (s, true)
  if !room then s.fail r (illegalOp 0x38)
  else
    let (id, s) := s.newId
    let words := (List.range (r.pas.length / 8)).map fun i => r.pas.getD (8 * i) 0
    let t : Task := ⟨id, id, r.launch, r.core, s.sift entry, s.sift operands, lo, hi, words, words, .deque⟩
    { s with tasks := s.tasks ++ [t] }.finish r [] none

/-- TASK_SPILL of die `who` (R327). -/
def execTaskSpill (s : State) : Host.Outcome State Fault Refusal :=
  let die := s.ev.who
  .next (if s.storeFull die then (s.spillOne die).1 else s)

/-- TASK_REFILL of die `who`: the earliest spawned of its spilled tasks returns (R327). -/
def execTaskRefill (s : State) : Host.Outcome State Fault Refusal :=
  let die := s.ev.who
  let first := (s.tasks.filter fun t => t.die == die && t.place == .spilled).foldl (fun (acc : Option Task) t =>
    match acc with | none => some t | some a => if t.seq < a.seq then some t else some a) none
  .next (match first with
    | some t => if s.storeFull die then s else s.setTask { t with place := .deque }
    | none => s)

/-- TASK_READY of task `who`: the Hall observes which operand words are FULL (R329). -/
def execTaskReady (s : State) : Host.Outcome State Fault Refusal :=
  .next (match s.tasks.find? fun t => t.id == s.ev.who with
    | some t => s.setTask { t with pending := t.pending.filter fun a => !s.feAt a }
    | none => s)

/-! Taking a task (R330-R332). -/

/-- The bank of a core that has room for a task's workgroup, the active one first (R330, R43; log 61). -/
def State.taskBank (s : State) (core : Nat) (t : Task) : Option Nat :=
  (s.launch? t.launch).bind fun l =>
    [(s.core core).active, 1 - (s.core core).active].find? fun bank => s.hasRoom core bank l.need

/-- Ready tasks that one of a core's banks has room for. -/
def State.takeable (s : State) (core : Nat) : List Task :=
  s.tasks.filter fun t => t.stored && t.pending.isEmpty && (s.taskBank core t).isSome

def longest (ts : List Task) : Option Task :=
  ts.foldl (fun (acc : Option Task) t =>
    match acc with
    | none => some t
    | some a => if a.hi - a.lo < t.hi - t.lo || (a.hi - a.lo == t.hi - t.lo && t.seq < a.seq) then some t else some a) none

/-- The Hall's choice for an asking core. -/
def State.chooseTask (s : State) (core : Nat) : Option Task :=
  let ts := s.takeable core
  let own := (ts.filter fun t => t.core == core).foldl (fun (acc : Option Task) t =>
    match acc with | none => some t | some a => if a.seq < t.seq then some t else some a) none
  own.or ((longest (ts.filter fun t => t.die == dieOfCore core)).or (longest ts))

/-- The next range-task workgroup number, modulo 2^24, that no live workgroup of the launch holds (R405). -/
def State.taskWgid (s : State) (launch : Nat) : Nat → Nat → Nat
  | 0, n => n % 2 ^ 24
  | fuel + 1, n =>
    if s.wgs.any fun w => w.launch == launch && w.wgid == n % 2 ^ 24 then State.taskWgid s launch fuel (n + 1) else n % 2 ^ 24

/-- A taken task's workgroup is placed (R331). -/
def State.placeTask (s : State) (t : Task) (core bank : Nat) : State :=
  match s.launch? t.launch with
  | none => s
  | some l =>
    let n := s.taskWgid l.id (s.wgs.length + 1) l.nextWgid
    let s := s.setLaunch { l with nextWgid := n + 1 }
    s.placeWg l core bank n fun st =>
      { st with pcc := { t.entry with otype := 0 }, ks := st.ks ++ [t.operands],
                s0 := BitVec.ofNat 32 t.lo, s1 := BitVec.ofNat 32 t.hi }

/-- The half [mid, hi) leaves the task (R330). -/
def splitTask (t : Task) : Option Task × Task :=
  if t.hi - t.lo ≤ 1 then (none, t)
  else
    let mid := t.lo + (t.hi - t.lo) / 2
    (some { t with hi := mid }, { t with lo := mid })

def State.dropTask (s : State) (id : Nat) : State := { s with tasks := s.tasks.filter fun t => t.id != id }

/-- TASK_TAKE by core `who` (R330, R331): a task of its own die is placed; one of another die becomes a transit. -/
def execTaskTake (s : State) : Host.Outcome State Fault Refusal :=
  let core := s.ev.who
  .next (match s.chooseTask core with
    | none => s
    | some t =>
      let bank := (s.taskBank core t).getD (s.core core).active
      let (stays, taken) := splitTask t
      let s := match stays with | some x => s.setTask x | none => s.dropTask t.id
      if t.die = dieOfCore core then s.placeTask taken core bank
      else
        let (id, s) := s.newId
        { s with tasks := s.tasks ++ [{ taken with id := id, place := .transit core }] })

/-- TRANSIT_ACK of task `who`: the thief's Hall reserves the budgets (Table 13.6). -/
def execTransitAck (s : State) : Host.Outcome State Fault Refusal :=
  .next (match s.tasks.find? fun t => t.id == s.ev.who with
    | none => s
    | some t =>
      match t.place with
      | .transit thief =>
        match s.taskBank thief t with
        | some bank => (s.dropTask t.id).placeTask t thief bank
        | none => s
      | _ => s)

/-- Halves held for a thief core return to their deques (Table 13.6). -/
def State.returnTransits (s : State) (thief : Nat) : State :=
  { s with tasks := s.tasks.map fun t => if t.place == .transit thief then { t with place := .deque } else t }

/-! REGGIVE and REGCLAIM (R334). -/

/-- A thread's allocation once its outstanding moves have been made. -/
def State.budgetOf (s : State) (l : Lane) : Nat :=
  let now := match l.w.thread? l.tid with | some t => t.v.length | none => 0
  s.reqs.foldl (fun n r =>
    if r.who == .thread l.w.id l.tid && r.phase == .sent then
      match r.op with | .budget give _ m => if give then n - m else n + m | _ => n
    else n) now

def budgetRequest (give : Bool) (b : IBody) : LaneRequest := fun s _ l r =>
  let m := fld b.imm 7 0
  let role := fld b.imm 11 8
  let n := s.budgetOf l
  if role = l.w.role (l.tid / l.w.w) then (s, .error (illegalOp 0x34))
  else if give ∧ n < m + 8 then (s, .error (illegalOp 0x32))
  else if !give ∧ 192 < n + m then (s, .error (illegalOp 0x33))
  else (s, .ok (some { r with op := .budget give role m }))

/-- REGGIVE (R334). -/
def execReggive (h : Head) (b : IBody) : State → Host.Outcome State Fault Refusal :=
  issueRequests (.reggive h b) h (budgetRequest true b)
/-- REGCLAIM (R334). -/
def execRegclaim (h : Head) (b : IBody) : State → Host.Outcome State Fault Refusal :=
  issueRequests (.regclaim h b) h (budgetRequest false b)

def Workgroup.pool (w : Workgroup) (frm taker : Nat) : Nat :=
  match w.pools.find? fun p => p.1 == frm && p.2.1 == taker with | some p => p.2.2 | none => 0
def Workgroup.setPool (w : Workgroup) (frm taker n : Nat) : Workgroup :=
  { w with pools := (w.pools.filter fun p => !(p.1 == frm && p.2.1 == taker)) ++ [(frm, taker, n)] }

/-- Whether a move of budget may be made: in program order; a give waits for pending writes, a claim for its pool. -/
def State.budgetReady (s : State) (r : Request) (give : Bool) (role m : Nat) : Bool :=
  let earlier := s.reqs.any fun q => q.who == r.who && q.id < r.id && q.phase == .sent &&
    (match q.op with | .budget .. => true | _ => false)
  match r.who with
  | .thread wg tid =>
    match s.wg? wg with
    | none => true
    | some w =>
      let own := w.role (tid / w.w)
      let n := match w.thread? tid with | some t => t.v.length | none => 0
      let goes (x : Nat) : Bool := n - m ≤ x && x < n
      let now := s.clockOf w
      let pending := w.pend.any fun p => decide (now < p.due) && (match p.wr with | .v t x _ _ => t == tid && goes x | _ => false)
      let later := s.reqs.any fun q => q.who == r.who && q.id != r.id && q.dests.any goes
      !earlier && (if give then !pending && !later else decide (m ≤ w.pool role own))
  | _ => true

/-- The budget moves. -/
def State.performBudget (s : State) (r : Request) (give : Bool) (role m : Nat) : State :=
  match r.who with
  | .thread wg tid =>
    let s := s.modWg wg fun w =>
      let own := w.role (tid / w.w)
      if give then
        (w.setPool own role (w.pool own role + m)).modThread tid fun t => { t with v := t.v.take (t.v.length - m) }
      else
        (w.setPool role own (w.pool role own - m)).modThread tid fun t => { t with v := t.v ++ List.replicate m ⟨0, false⟩ }
    s.finish r [] none
  | _ => s

/-! The prologue's own instructions (R402, R403). -/

/-- The launch that the prologue of a lane starts. -/
def State.prologueLaunch (s : State) (l : Lane) : Option Launch := if l.w.prologue then s.launch? l.w.launch else none

def pdimRequest (b : IBody) : LaneRequest := fun s _ l r =>
  match s.prologueLaunch l with
  | none => (s, .error (illegalOp 0x39))
  | some la =>
    let k := fld b.imm 1 0
    let x := (l.reg b.a).toNat
    if !la.schedule.isNull then (s.setLaunch { la with dims := la.dims.set k x }, .ok (some { r with phase := .done [] none }))
    else if k = 0 then (s.setLaunch { la with count := x }, .ok (some { r with phase := .done [] none }))
    else (s, .error (illegalOp 0x39))

/-- PDIM (R403). -/
def execPdim (h : Head) (b : IBody) : State → Host.Outcome State Fault Refusal :=
  issueRequests (.pdim h b) h (pdimRequest b)

/-- PREPEAT (R403). -/
def execPrepeat (h : Head) (b : RBody) : State → Host.Outcome State Fault Refusal :=
  issueRequests (.prepeat h b) h fun s _ l r =>
    match s.prologueLaunch l with
    | none => (s, .error (illegalOp 0x39))
    | some la => (s.setLaunch { la with repeats := true }, .ok (some { r with phase := .done [] none }))

/-- PCANCEL ends the prologue; its launch is rejected (R403). -/
def execPcancel (h : Head) (b : RBody) (s : State) : Host.Outcome State Fault Refusal :=
  .next (issue (.pcancel h b) h (fun s _ ls =>
    match ls with
    | [] => ⟨s, [], []⟩
    | l :: _ =>
      match s.prologueLaunch l with
      | none => ⟨s, ls.map fun l => (l.tid, illegalOp 0x39), []⟩
      | some la => ⟨(s.setLaunch { la with cancelled := true }).endThread l.w.id l.tid, [], []⟩) s)

end Sys2Proof.Machine
end

