-- ==== Sys2Proof/Machine/CoreEvents.lean ====
section
/-! DEFINITION. Steps of a compute core beside its instructions (spec/01 R22-R29, spec/05 R139, spec/06 R154, R162,
spec/11 R260-R267, R277, spec/20 R419): block entry, bins, starvation, replies of requests, barrier phases, the end of a
registration's walk. A step that finds nothing to do leaves the state as it is. -/

namespace Sys2Proof.Machine

/-! Block entry (R139). -/

/-- The checks of enter(X) that depend on pcc alone. pcc has no register number: word 0 of these faults, and of those of a
fetch, is 0 (DESIGN CHOICE, log 75). -/
def entryPcc (c : Cap) (x : DWord) : Option FaultInfo :=
  if !c.valid then some (.of cTAG 0)
  else if c.otype ≠ 0 then some (.of cSEALED 0)
  else if !c.has pEXEC then some (.of cPERM 0 pEXEC)
  else if x.toNat < c.base ∨ c.top < x.toNat + 128 then some (.of cBOUNDS 0)
  else if x.toNat % 128 ≠ 0 then some (.of cBADTARGET 1)
  else none

/-- The checks of enter(X) on the header. -/
def entryHeader (c : Cap) (h : DWord) (prologue : Bool) : Option FaultInfo :=
  let kind := (h.extractLsb' 62 2).toNat
  let b := blockOf 0 h
  if kind ≠ 0 then some (.of cBADTARGET (kind + 1))
  else if h.extractLsb' 0 5 ≠ 0 ∨ b.len = 0 ∨ b.slots = 0 ∨ 12 < b.slots ∨ 192 < b.livev ∨ h.extractLsb' 8 2 = 3 then
    some (.of cRESERVED 0)
  else if b.priv && !c.has pSYSTEM then some (.of cPERM 1 pSYSTEM)
  else if prologue && !b.prol then some (.of cBADTARGET 6)
  else none

/-- The site of an entry fault: a resume repeats the entry. Its PC is X, whose low bits are not of the form of R132 where X is
misaligned (BAD_TARGET 1; DESIGN CHOICE, log 75). -/
def entrySite (pc : DWord) : Site := ⟨pc, pc, true, .entry⟩

/-- The threads of a group enter the block at its pc (R139); those that fail a check leave held, with the registers that they
had: what a reform leaves undefined is what the header of the block says (R136), and they have not entered it. -/
def State.enterBlock (s : State) (w : Workgroup) (g : Group) : State :=
  let x := g.pc
  let early := g.members.map fun m => (m.2, match w.thread? m.2 with | some t => entryPcc t.pcc x | none => none)
  let (s, span) := if early.all fun e => e.2.isSome then (s, Except.ok 0) else s.fetchSpan w x
  let judge (tid : Nat) (f : Option FaultInfo) : Option FaultInfo :=
    f.or (match span with
      | .error e => some e
      | .ok d => entryHeader (match w.thread? tid with | some t => t.pcc | none => .null) (spanHeader d) w.prologue)
  let via (tid : Nat) : DWord := match w.thread? tid with | some t => t.via | none => 0
  let faults := early.filterMap fun (tid, f) => (judge tid f).map fun i =>
    Act.fault w.id tid { i with addr := via tid } (entrySite x)
  let blk := match span with | .ok d => blockOf x (spanHeader d) | .error _ => .unknown
  let s := s.modWg w.id fun w =>
    let w := w.setGroup { g with blk := blk, entering := false, recent := [], older := 0, executed := 0 }
    g.tids.foldl (fun w t => w.modThread t fun th => { th with blk := blk, midBlock := false }) w
  let enters (tid : Nat) : Bool := !(early.any fun e => e.1 == tid && (judge e.1 e.2).isSome)
  let s := (g.tids.filter enters).foldl (fun s tid =>
    match w.thread? tid with
    | some t => if t.reformed then s.scramble w.id tid blk.livev blk.livek else s
    | none => s) s
  s.runActs faults

/-- Whether a group waits to enter a block and its threads' results have been written (R29, R139); after a requested swap
none enters (R423). -/
def State.canEnter (s : State) (w : Workgroup) (g : Group) : Bool :=
  let now := s.clockOf w
  g.entering && g.parkedOn.isEmpty && !(s.core w.core).swapRequested && decide (g.notBefore ≤ now) && decide (w.quiet g.tids now ≤ now)
    && !s.unresolved w.id g.tids

/-- The group that a step names: workgroup `who`, group `arg`. -/
def State.evGroup (s : State) : Option (Workgroup × Group) :=
  (s.wg? s.ev.who).bind fun w => (w.group? s.ev.arg).map fun g => (w, g)

/-- BLOCK_ENTRY of group `arg` of workgroup `who`. -/
def execBlockEntry (s : State) : Host.Outcome State Fault Refusal :=
  .next (match s.evGroup with
    | some (w, g) => if w.life == .running && s.canEnter w g then s.enterBlock w g else s
    | none => s)

/-! Results, bins, starvation. -/

/-- Results due by the clock of a core's active bank are written (R154). -/
def State.landDue (s : State) (core : Nat) : State :=
  let c := s.core core
  let due (w : Workgroup) : Workgroup :=
    if w.core == core && w.bank == c.active && w.saved.isNone then w.settleAt (c.clock c.active) else w
  { s with wgs := s.wgs.map due }

/-- RESULT_WRITEBACK on core `who` (R154). -/
def execResultWriteback (s : State) : Host.Outcome State Fault Refusal := .next (s.landDue s.ev.who)

/-- The age limit of a bin's launch (R34). -/
def State.ageOf (s : State) (wg : Nat) : Nat := match s.wg? wg with | some w => w.agelim | none => 256
def State.binAged (s : State) (b : Bin) : Bool := b.since + s.ageOf b.wg ≤ (s.core b.core).clock b.bank

/-- BIN_AGE_EXPIRY of bin `arg` of core `who` (R24). -/
def execBinAgeExpiry (s : State) : Host.Outcome State Fault Refusal :=
  .next (match (s.binsOf s.ev.who (s.core s.ev.who).active).find? fun b => b.index == s.ev.arg with
    | some b => if s.binAged b then s.formBin b else s
    | none => s)

/-- Whether some group of the bank can issue or enter a block. -/
def State.anyReady (s : State) (core bank : Nat) : Bool :=
  (s.issuing core bank).any fun w => w.groups.any fun g => s.isReady w g || s.canEnter w g

/-- A bank without a ready group or an issuable bin forms its oldest bin (R25). -/
def State.idleForm (s : State) (core : Nat) : State :=
  let bank := (s.core core).active
  let bs := s.binsOf core bank
  if s.anyReady core bank || bs.any s.binAged then s
  else match oldestBin bs with
    | some b => s.formBin b
    | none => s

/-- BIN_IDLE_FORM on core `who` (R25). -/
def execBinIdleForm (s : State) : Host.Outcome State Fault Refusal := .next (s.idleForm s.ev.who)

/-- The first ac from `from_` to `now` in which the group is ready, when it is ready now (R22). -/
def State.readyFrom (s : State) (w : Workgroup) (g : Group) (from_ now : Nat) : Option Nat :=
  ((List.range (now + 1 - from_)).map (from_ + ·)).find? fun t => (s.setClock w.core w.bank t).isReady w g

/-- Since when each group of a bank has been ready is noted (R22): the clock has moved on from `seen` by the chunks of one
instruction, in which another group than its own may have become ready. -/
def State.observe (s : State) (core bank : Nat) : State :=
  let now := (s.core core).clock bank
  let seen := (s.core core).seen
  let since (w : Workgroup) (g : Group) : Option Nat :=
    if !s.isReady w g then none
    else g.readySince.or (s.readyFrom w g (if g.lastIssue < seen && seen < now then max (seen + 1) (now - 544) else now) now)
  let note (w : Workgroup) : Workgroup :=
    if w.core == core && w.bank == bank && w.life == .running then
      { w with groups := w.groups.map fun g => { g with readySince := since w g } }
    else w
  ({ s with wgs := s.wgs.map note } : State).setCore { s.core core with seen := now }

/-- A group that has been ready for its age limit becomes starved, and did when the limit was reached (R22). -/
def Group.starve (g : Group) (agelim now : Nat) : Group :=
  match g.readySince with
  | some t => if g.starved.isNone && t + agelim ≤ now then { g with starved := some (t + agelim) } else g
  | none => g

/-- GROUP_STARVED of group `arg` of workgroup `who` (R22). -/
def execGroupStarved (s : State) : Host.Outcome State Fault Refusal :=
  .next (match s.evGroup with
    | some (w, g) =>
      let s := s.observe w.core w.bank
      s.modWg w.id fun w => match w.group? g.id with
        | some g => w.setGroup (g.starve w.agelim (s.clockOf w))
        | none => w
    | none => s)

/-- YIELD_EXPIRY of group `arg` of workgroup `who` (R277). -/
def execYieldExpiry (s : State) : Host.Outcome State Fault Refusal :=
  .next (match s.evGroup with
    | some (w, g) =>
      match g.yieldUntil with
      | some t => if t ≤ s.clockOf w then s.setWg (w.setGroup { g with yieldUntil := none, yieldOthers := [] }) else s
      | none => s
    | none => s)

/-! Replies of requests (R162). -/

/-- Whether another lane of a request's instruction still waits at its object, so that the released lane cannot wait for
it (R35); the fragments of BAR, TWAIT and a rendezvous are released whole. -/
def State.othersWait (s : State) (r : Request) : Bool :=
  match r.op with
  | .barrier .. => false
  | .gangWait .. => false
  | .twait .. => false
  | _ => s.reqs.any fun q => q.batch == r.batch && q.id != r.id && (q.phase == .waiting || q.phase == .registering)

/-- The thread of a request continues after its instruction (R31): an intact group when its last waiter is released; a
thread parked alone, or whose group still waits for others, through its bin, the others then parking alone (log 27). -/
def State.unpark (s : State) (r : Request) (wg tid : Nat) : State :=
  match s.wg? wg with
  | none => s
  | some w =>
    match w.groupOf tid with
    | some g =>
      let still := g.parkedOn.filter fun t => t != tid
      if g.parkedOn.contains tid && s.othersWait r then
        let gone := g.tids.filter fun t => !still.contains t
        let s := s.setWg ((w.leave g.id g.tids).setStatus g.tids .parked)
        gone.foldl (fun s t => s.resumeAt wg t r.nextPc r.nextNew r.pc) s
      else s.setWg (w.setGroup { g with parkedOn := still })
    | none =>
      match w.thread? tid with
      | some t => if t.status = .parked then s.resumeAt wg tid r.nextPc r.nextNew r.pc else s
      | none => s

/-- The thread of a request is held, so that the request is its fault message (R416). -/
def State.heldFor (s : State) (wg tid : Nat) : Option HeldRec :=
  ((s.wg? wg).bind fun w => w.thread? tid).bind fun t => match t.status with | .held h => some h | _ => none

/-- The lanes of an instruction that acts once for all of them (R320). -/
def Request.actsOnce (r : Request) : Bool :=
  match r.op with
  | .sched _ => true
  | .follow => true
  | _ => false
def Wr.isScalar : Wr → Bool
  | .s .. => true
  | _ => false
/-- Its other lanes whose replies have not come. -/
def State.sharers (s : State) (r : Request) : List Request :=
  if r.actsOnce then s.reqs.filter fun q => q.batch == r.batch && q.id != r.id else []
/-- Scalar results of such an instruction that its other lanes hold: they are written with the first of its replies, whose
lane may use them (R322). -/
def State.sharedWrites (s : State) (r : Request) : List Wr :=
  ((s.sharers r).map fun q => match q.phase with | .done ws _ => ws.filter Wr.isScalar | _ => []).flatten
/-- They are held no more. -/
def State.takeShared (s : State) (r : Request) : State :=
  (s.sharers r).foldl (fun s q =>
    match q.phase with
    | .done ws m => s.setReq { q with phase := .done (ws.filter fun x => !x.isScalar) m }
    | _ => s) s
/-- Scalar results that a lane whose thread has ended leaves to the others of such an instruction. -/
def State.leftWrites (s : State) (r : Request) (ws : List Wr) : List Wr :=
  if (s.sharers r).any fun q => s.alive q.who then ws.filter Wr.isScalar else []

/-- A reply reaches a thread that has ended: results are discarded, and a fault is reported (R198). -/
def State.replyEnded (s : State) (r : Request) : State :=
  match r.phase with
  | .done ws _ =>
    match s.leftWrites r ws with
    | [] => s.dropReq r.id
    | left => (s.dropReq r.id).landNow r left
  | .failed code addr a0 a1 a2 => ((s.dropReq r.id).endedFault r ⟨code, addr, a0, a1, a2⟩).flushEvents
  | _ => s

/-- A REPLY that has been performed completes once the caller's registers are written, or the caller is gone (R274, Table
11.9): `x` is one more than the caller's request. A reply that an interrupted hart's slot holds is written at its kcall
(R379). -/
def State.callerPending (s : State) (r : Request) : Bool :=
  match r.op with
  | .reply (.hartSlot n i) _ =>
    (s.reqs.any fun q => q.id + 1 == r.x)
      || (r.x == 0 && match s.hart? n with | some h => (h.slots.getD i .reset).held.isSome | none => false)
  | .reply _ _ => s.reqs.any fun q => q.id + 1 == r.x
  | _ => false

/-- A request's reply reaches its lane: registers are written and the tag completes, or the lane faults (R161-R164). -/
def State.reply (s : State) (r : Request) : State :=
  match r.who with
  | .thread wg tid =>
    match s.wg? wg with
    | none => s.replyEnded r
    | some w =>
      if r.faultCall then s
      else if !s.alive r.who then s.replyEnded r
      else if w.life == .suspended || s.callerPending r || (s.reqs.any fun q => q.batch == r.batch && q.undecided) then s
      else
        match r.phase with
        | .done ws _ =>
          let mine := s.sharedWrites r ++ ws
          (((if r.actsOnce then s.takeShared r else s).dropReq r.id).complete wg tid r.tag mine).unpark r wg tid
        | .failed code addr a0 a1 a2 =>
          let s := (s.dropReq r.id).modWg wg fun w => w.setTag tid r.tag false
          s.runActs [.fault wg tid ⟨code, addr, a0, a1, a2⟩ (r.site .instr)]
        | _ => s
  | .hall _ => match r.phase with | .done _ _ => s.dropReq r.id | _ => s
  | _ => s

/-- ACCESS_REPLY of request `who`. -/
def execAccessReply (s : State) : Host.Outcome State Fault Refusal :=
  .next (match s.req? s.ev.who with | some r => s.reply r | none => s)

/-- FLUSH_PROBE_REPLY (R118, R406): of request `who`, or with `ok` of launch `who`, for the channel at place `arg` of its
probes; the reply follows every earlier request on the channel. -/
def execFlushProbeReply (s : State) : Host.Outcome State Fault Refusal :=
  .next (if s.ev.ok then
      match s.launch? s.ev.who with
      | none => s
      | some l =>
        match l.state with
        | .probing cs =>
          match cs[s.ev.arg]? with
          | none => s
          | some c =>
            let stranger (r : Request) : Bool :=
              match r.who with
              | .thread _ _ => r.launch == l.id
              | _ => false
            if s.reqs.any fun r => r.chans.contains c && r.unperformed && stranger r then s
            else s.setLaunch { l with state := .probing (cs.eraseIdx s.ev.arg) }
        | _ => s
    else
      match s.req? s.ev.who with
      | none => s
      | some r =>
        match r.phase with
        | .releasing cs =>
          match cs[s.ev.arg]? with
          | none => s
          | some c =>
            if s.reqs.any fun q => q.who == r.who && q.id < r.id && q.chans.contains c && q.unperformed then s
            else
              let rest := cs.eraseIdx s.ev.arg
              s.setReq { r with phase := if rest.isEmpty then .sent else .releasing rest }
        | _ => s)

/-- FAULT_REPLY of request `who`: the reply to a held thread's fault message (R419); recorded while its workgroup is
suspended. -/
def execFaultReply (s : State) : Host.Outcome State Fault Refusal :=
  .next (match s.req? s.ev.who with
    | none => s
    | some r =>
      match r.who, r.phase with
      | .thread wg tid, .done _ (some m) =>
        match s.wg? wg, s.heldFor wg tid with
        | some w, some h =>
          if !r.faultCall then s
          else if w.life == .suspended then
            (s.dropReq r.id).modWg wg fun w => w.setStatus [tid] (.held { h with reply := some (verdictOf m) })
          else (s.dropReq r.id).applyVerdict wg tid h (verdictOf m)
        | _, _ => if r.faultCall then s.dropReq r.id else s
      | _, _ => s)

/-! Barriers (R266, R267). -/

/-- The thread of a request is counted in the barrier's current phase. -/
def State.countIn (s : State) (k : BarKey) (wg tid : Nat) : State :=
  let b := s.bar k
  let s := s.setBar { b with counted := b.counted ++ [(wg, tid)] }
  s.modWg wg fun w => w.modThread tid fun t =>
    { t with counted := (t.counted.filter fun c => c.1 != k) ++ [(k, b.phase)] }

/-- A barrier's wait ends: it acquires at the level (Table 4.5). -/
def State.passBar (s : State) (r : Request) (wait : Bool) : State :=
  let ws := if r.phase == .waiting then [] else r.report true
  if wait then
    let r := { r with order := 2 }
    (s.setReq r).finish r ws none
  else s.finish r ws none

/-- A lane at its barrier (R267): it is counted, or waits to be counted, then waits for its phase. -/
def State.atBarrier (s : State) (r : Request) (k : BarKey) (phase : Nat) (count wait : Bool) : State :=
  match r.who with
  | .thread wg tid =>
    let cur := (s.bar k).phase
    if count && (s.bar k).counted.contains (wg, tid) then
      let r := { r with phase := .waiting, unresolved := false }
      (s.setReq r).settleBatch r
    else
      let s := if count then s.countIn k wg tid else s
      let phase := if count then cur else phase
      let r := { r with op := .barrier k phase false wait }
      let s := s.setReq r
      if !wait || phase < cur then s.passBar r wait
      else s.mustWait r 1 k.inst (k.level * 16 + k.num) .unknown
  | _ => s

/-- Every member of the barrier on this package has arrived, and its multicasts have been acknowledged (R14, R266, R300). -/
def State.barComplete (s : State) (b : Barrier) : Bool :=
  !b.counted.isEmpty && b.acks == 0 && (s.barLeft b.key).isEmpty && !s.barAwaits b.key

/-- The next phase begins: waits of the phase end, second arrivals are counted (R266, R267). -/
def State.nextPhase (s : State) (b : Barrier) : State :=
  let s := s.setBar { b with phase := b.phase + 1, counted := [], told := false }
  let mine := s.reqs.filter fun r =>
    (r.phase == .waiting || r.phase == .registering) && (match r.op with | .barrier k .. => k == b.key | _ => false)
  mine.foldl (fun s r =>
    match r.op with
    | .barrier k p count wait => if count || b.phase < p then s.atBarrier r k p count wait else s.passBar r wait
    | _ => s) s

/-! The end of a registration's walk (R260-R263). -/

/-- Requests whose lanes wait in an entry. -/
def State.requestsOfEntry (s : State) (e : WaitEntry) : List Request :=
  s.reqs.filter fun r => e.waiters.contains r.who && r.batch == e.batch

/-- A BAR that counted its thread counts it no more (R260); `size` keeps one more than the phase in which it was last counted. -/
def State.uncount (s : State) (r : Request) (k : BarKey) (wg tid : Nat) : State :=
  let b := s.bar k
  let s := s.setBar { b with counted := b.counted.filter fun x => x != (wg, tid) }
  s.modWg wg fun w => w.modThread tid fun t =>
    { t with counted := (t.counted.filter fun c => c.1 != k) ++ (if r.size = 0 then [] else [(k, r.size - 1)]) }

/-- An instruction whose wait closes a cycle has had no effect (R263): its arrival at a latch or a barrier is undone, and a call
that its endpoint has buffered is taken out (R378). -/
def State.undoWait (s : State) (r : Request) : State :=
  match r.op with
  | .gangWait .. =>
    match r.who with
    | .thread wg _ => s.modWg wg fun w => w.dropArrivals fun a => a.req == r.id
    | _ => s
  | .barrier k p _ _ =>
    match r.who with
    | .thread wg tid => if r.order = 3 && (s.bar k).phase == p then s.uncount r k wg tid else s
    | _ => s
  | .awaitReply .. =>
    let e := s.ep r.obj
    if e.order.any fun o => o.2 == r.who then
      let s := s.setEp { e with order := e.order.filter fun o => o.2 != r.who }
      State.refill r.obj (s.epSenders r.obj).length s
    else s
  | _ => s

/-- DEADLOCK: the record is written when the waiter has a launch, every lane of the entry faults, a hart's request fails
(R263). `pairs` is the cycle. -/
def State.deadlock (s : State) (e : WaitEntry) (path : List (Nat × Party)) : State :=
  let pairs := s.cyclePairs e path
  let n := pairs.length
  let hall := s.hall e.die
  let s := s.setHall e.die { hall with dlseq := hall.dlseq + 1 }
  let rs := s.requestsOfEntry e
  let launch := (e.waiters.head?.bind s.wgOf).bind fun w => (s.launch? w.launch).map fun l => (w, l)
  let (s, slot) := match launch with
    | some (w, l) => s.writeRecord l w.seat (recordBytes (hall.dlseq + 1) e.kind n (s.pairIdentity e) pairs)
    | none => (s, none)
  let f : FaultInfo := .of cDEADLOCK (match slot with | some i => 512 * i | none => 0xFFFFFFFF) n (BitVec.ofNat 64 e.obj) e.kind
  let s := s.freeWait e.id
  rs.foldl (fun s r => (s.undoWait r).fail r f) s

/-- REGISTRATION_WALK_END of entry `who`. -/
def execRegistrationWalkEnd (s : State) : Host.Outcome State Fault Refusal :=
  .next (match s.wait? s.ev.who with
    | none => s
    | some e =>
      match e.walk with
      | none => s
      | some w =>
        let lead := match e.waiters with | p :: _ => s.identity p | [] => 0
        match w.found with
        | some path =>
          if e.faultWait then
            (s.freeWait e.id).hallEvent e.die 5 [BitVec.ofNat 32 e.die, BitVec.ofNat 32 e.kind, lead, loWord e.obj, hiWord e.obj]
              |>.flushEvents
          else s.deadlock e path
        | none =>
          let s := s.setWait { e with walk := none }
          let s := if w.limited then
              s.hallEvent e.die 2 [BitVec.ofNat 32 e.die, BitVec.ofNat 32 w.visited, lead, loWord e.obj, hiWord e.obj]
            else s
          let rs := (s.requestsOfEntry e).filter fun r => r.phase == .registering
          let s := rs.foldl (fun s r =>
            if e.kind = 11 then s.setReq { r with phase := .done (r.report true) none, unresolved := false }
            else s.beginWait r true) s
          let s := rs.foldl (fun s r => s.settleBatch r) s
          s.flushEvents)

end Sys2Proof.Machine
end

