-- ==== Sys2Proof/Machine/Hart.lean ====
section
/-! DEFINITION. Control harts (spec/18_control_cores.md): registers, traps and returns (R367, R368, R370), interrupts and
timers (R380-R383), the Xkcap CSRs (R369), capability derivations (R373) and the kmode forms (R374). The privileged
architecture's own registers and steps are RISC-V's (log 5). -/

namespace Sys2Proof.Machine

def State.modHart (s : State) (n : Nat) (f : Hart → Hart) : State :=
  match s.hart? n with
  | some h => s.setHart (f h)
  | none => s

def Hart.xr (h : Hart) (n : BitVec 5) : DWord := if n = 0 then 0 else h.x.getD n.toNat 0
def Hart.setX (h : Hart) (n : BitVec 5) (v : DWord) : Hart := if n = 0 then h else { h with x := h.x.set n.toNat v }
/-- k0 reads null and discards writes, as on a core (R46, R373; log 30). -/
def Hart.kr (h : Hart) (n : BitVec 5) : Cap := if n = 0 then .null else h.k.getD n.toNat .null
def Hart.setK (h : Hart) (n : BitVec 5) (c : Cap) : Hart := if n = 0 then h else { h with k := h.k.set n.toNat c }

/-- The pc moves, and with it the cursor of kc (Table 18.2, R59). -/
def Hart.goto (h : Hart) (pc : DWord) : Hart := { h with pc := pc, kc := h.kc.moveTo pc.toNat }


def Mode.num : Mode → Nat
  | .u => 0
  | .s => 1
  | .m => 3
def Mode.ofNum (n : Nat) : Mode := if n = 0 then .u else if n = 1 then .s else .m

/-! Fields of mstatus. -/

def msSIE : Nat := 1
def msMIE : Nat := 3
def msSPIE : Nat := 5
def msMPIE : Nat := 7
def msSPP : Nat := 8
def msMPRV : Nat := 17
def msSUM : Nat := 18
def msMXR : Nat := 19
def msTVM : Nat := 20
def msTW : Nat := 21
def msTSR : Nat := 22
def msMPP (x : DWord) : Nat := (x.extractLsb' 11 2).toNat
def msSetMPP (x : DWord) (m : Nat) : DWord := setBit64 (setBit64 x 11 (m % 2 == 1)) 12 (m / 2 % 2 == 1)

/-! Traps. -/

/-- A trap: an exception or interrupt with its cause, `xtval` (none where RISC-V leaves the value open), and for cause 28
the value of the fault CSR (Table 18.4). -/
structure HTrap where
  intr : Bool
  cause : Nat
  tval : Option DWord
  detail : DWord
  deriving DecidableEq, Repr

def HTrap.exc (cause : Nat) (tval : DWord) : HTrap := ⟨false, cause, some tval, 0⟩
/-- Illegal instruction: RISC-V lets `xtval` be the instruction's bits or zero. -/
def HTrap.illegal : HTrap := ⟨false, 2, none, 0⟩

/-- Table 18.4. -/
def kfault (code : BitVec 8) (reg : Nat) (second : Bool) (detail : Nat) : DWord :=
  BitVec.ofNat 64 (detail % 2 ^ 18 * 2 ^ 32 + (if second then 2 ^ 13 else 0) + reg % 32 * 2 ^ 8 + code.toNat)
/-- Cause 28 (R370). -/
def HTrap.cap (code : BitVec 8) (reg : Nat) (second : Bool) (detail : Nat) (tval : DWord) : HTrap :=
  ⟨false, 28, some tval, kfault code reg second detail⟩
/-- A fault of an access or of a message as cause 28: word 0 names the register, word 1 the detail. -/
def HTrap.ofFault (f : FaultInfo) (reg : Nat) (second : Bool := false) : HTrap :=
  .cap f.code reg second (if f.code = cDEADLOCK then f.aux1.toNat % 32 * 2 ^ 8 + f.aux2.toNat % 256 else f.aux1.toNat) f.addr
/-- A capability fault of a derivation on registers a and b (R373). -/
def HTrap.ofCap (f : CapFault) (ra rb : BitVec 5) (a b : Cap) : HTrap :=
  .cap f.code (if f.second then rb else ra).toNat f.second f.detail (if f.second then b.cursor else a.cursor)

/-- Where a trap goes (RISC-V `xtvec`). -/
def trapVector (tvec : DWord) (t : HTrap) : DWord :=
  let base := tvec &&& ~~~(3 : DWord)
  if t.intr && tvec.getLsbD 0 then base + BitVec.ofNat 64 (4 * t.cause) else base
def HTrap.causeWord (t : HTrap) : DWord := setBit64 (BitVec.ofNat 64 t.cause) 63 t.intr

/-- The check of the trap capabilities (R368): the fault code, its detail, and whether the data capability is at fault. -/
def badTrapCaps (code data : Cap) (vector : DWord) : Option (BitVec 8 × Nat × Bool) :=
  if !code.valid then some (cTAG, 0, false)
  else if code.otype ≠ 0 then some (cSEALED, 0, false)
  else if !code.has pEXEC then some (cPERM, pEXEC, false)
  else if vector.toNat < code.base ∨ code.top ≤ vector.toNat then some (cBOUNDS, 0, false)
  else if !data.valid then some (cTAG, 1, true)
  else if data.otype ≠ 0 then some (cSEALED, 1, true)
  else none

/-- The RISC-V steps of a trap to M, then kmepc (R368). -/
def Hart.enterM (h : Hart) (t : HTrap) (tval : DWord) : Hart :=
  { h with
    mepc := h.pc
    kmepc := h.kc.moveTo h.pc.toNat
    mcause := t.causeWord
    mtval := tval
    mkfault := if !t.intr && t.cause == 28 then t.detail else h.mkfault
    mstatus := msSetMPP (setBit64 (setBit64 h.mstatus msMPIE (h.mstatus.getLsbD msMIE)) msMIE false) h.mode.num
    mode := .m }
/-- The RISC-V steps of a trap to S, then ksepc (R368). -/
def Hart.enterS (h : Hart) (t : HTrap) (tval : DWord) : Hart :=
  { h with
    sepc := h.pc
    ksepc := h.kc.moveTo h.pc.toNat
    scause := t.causeWord
    stval := tval
    skfault := if !t.intr && t.cause == 28 then t.detail else h.skfault
    mstatus := setBit64 (setBit64 (setBit64 h.mstatus msSPIE (h.mstatus.getLsbD msSIE)) msSIE false) msSPP (h.mode == .s)
    mode := .s }

/-- The Threshold's report of a halted hart to the management interface (R368). -/
def reportBadTrapCap : Nat := 1

/-- A trap to M: the hart halts when its trap capabilities are invalid (R368). -/
def State.trapM (s : State) (h : Hart) (t : HTrap) (tval : DWord) : State :=
  let vector := trapVector h.mtvec t
  let bad := badTrapCaps h.kmtc h.kmtd vector
  let cm := h.cm
  let h := h.enterM t tval
  match bad with
  | some _ =>
    let s := s.setHart { h with run := .halted }
    { s with th := { s.th with outbox := s.th.outbox ++ [.report reportBadTrapCap h.id] } }
  | none =>
    s.setHart { h with
      pc := vector
      kc := h.kmtc.moveTo vector.toNat
      kd := h.kmtd
      kmtd := h.kd
      mpcm := cm
      cm := false
      run := .running }

/-- A trap to S; with invalid trap capabilities cause 28 is taken into M instead, after the steps that come before the check:
RISC-V's, which leave the hart in S at the vector, and ksepc (R368; log 31). -/
def State.trapS (s : State) (h : Hart) (t : HTrap) (tval : DWord) : State :=
  let vector := trapVector h.stvec t
  match badTrapCaps h.kstc h.kstd vector with
  | some (code, detail, second) =>
    let addr := if code = cBOUNDS then vector else if second then h.kstd.cursor else h.kstc.cursor
    s.trapM { h.enterS t tval with pc := vector } (.cap code 18 second detail addr) addr
  | none =>
    let cm := h.cm
    let h := h.enterS t tval
    s.setHart { h with
      pc := vector
      kc := h.kstc.moveTo vector.toNat
      kd := h.kstd
      kstd := h.kd
      spcm := cm
      cm := false
      run := .running }

/-- Whether a trap is delegated to S (RISC-V `medeleg`, `mideleg`; R370). -/
def Hart.delegates (h : Hart) (t : HTrap) : Bool :=
  h.mode != .m && (if t.intr then h.mideleg.getLsbD t.cause else h.medeleg.getLsbD t.cause)

/-- Hart n takes a trap (R368). A POISON fault is counted for die 0, since the harts' die has no counter (Table 24.6; log 84). -/
def State.takeTrap (s : State) (n : Nat) (t : HTrap) : State :=
  match s.hart? n with
  | none => s
  | some h =>
    let (tval, s) := match t.tval with
      | some v => (v, s)
      | none => s.fresh
    let s := if !t.intr && t.cause == 28 && t.detail.extractLsb' 0 8 == cPOISON then s.count (hPoison 0) else s
    if h.delegates t then s.trapS h t tval else s.trapM h t tval

/-! Interrupts (R380). -/

/-- The identity that a file reports: the lowest pending and enabled one below the threshold. -/
def IntFile.top (f : IntFile) : Option Nat :=
  (List.range 256).find? fun i => i != 0 && f.pending.getLsbD i && f.enable.getLsbD i
    && (f.threshold == 0 || decide (i < f.threshold.toNat))
/-- A file signals its hart while it delivers. -/
def IntFile.signals (f : IntFile) : Bool := f.delivery == 1 && f.top.isSome

/-- `mip` with the external interrupts of the two files. -/
def Hart.pendingInts (h : Hart) : DWord :=
  setBit64 (setBit64 h.mip 11 h.mfile.signals) 9 (h.mip.getLsbD 9 || h.sfile.signals)

/-- Causes in RISC-V's order of priority. -/
def intOrder : List Nat := [11, 3, 7, 9, 1, 5]

/-- The interrupt that is pending and enabled. -/
def Hart.interrupt? (h : Hart) : Option Nat :=
  let p := h.pendingInts &&& h.mie
  let toM := p &&& ~~~h.mideleg
  let toS := p &&& h.mideleg
  let mOn := h.mode != .m || h.mstatus.getLsbD msMIE
  let sOn := h.mode == .u || (h.mode == .s && h.mstatus.getLsbD msSIE)
  match if mOn then intOrder.find? toM.getLsbD else none with
  | some c => some c
  | none => if sOn then intOrder.find? toS.getLsbD else none

/-- An enabled interrupt, delivered or not, ends a WFI. -/
def Hart.wakes (h : Hart) : Bool := (h.pendingInts &&& h.mie) != 0

/-! Timers (R383). -/

def Hart.time (h : Hart) : Nat := h.hc / 32
/-- MTIP follows the comparison when `mtimecmp` is written or `time` reaches it. -/
def Hart.matchM (h : Hart) : Hart := { h with mip := setBit64 h.mip 7 (decide (h.mtimecmp.toNat ≤ h.time)) }
/-- STIP follows `stimecmp` while menvcfg.STCE is set. -/
def Hart.matchS (h : Hart) : Hart :=
  if h.menvcfg.getLsbD 63 then { h with mip := setBit64 h.mip 5 (decide (h.stimecmp.toNat ≤ h.time)) } else h

/-- MTIMECMP_MATCH of hart `who`. -/
def execMtimecmpMatch (s : State) : Host.Outcome State Fault Refusal := .next (s.modHart s.ev.who Hart.matchM)
/-- STIMECMP_MATCH of hart `who`. -/
def execStimecmpMatch (s : State) : Host.Outcome State Fault Refusal := .next (s.modHart s.ev.who Hart.matchS)

/-! The wait of a stalled hart (R378, R379). -/

/-- A wait of a message form. -/
def Request.hartWait (r : Request) : Bool :=
  match r.op with
  | .send _ => true
  | .recv .. => true
  | .awaitReply .. => true
  | .nwait _ => true
  | .result => true
  | _ => false

/-- A kcall whose message has left for another package: its slot stays pending (R379). -/
def Request.callAway (r : Request) : Bool :=
  r.phase == .travelling && (match r.op, r.who with | .send _, .hartSlot _ _ => true | _, _ => false)

/-- A ksend whose message has left for another package. -/
def Request.sendAway (r : Request) : Bool :=
  r.phase == .travelling && (match r.op, r.who with | .send _, .hart _ => true | _, _ => false)

/-- A message that an endpoint has taken completes the instruction first, and so does an access that has left for another
package. A ksend that has left is first asked back (log 72). -/
def State.stallEnds (s : State) (h : Hart) : Bool :=
  match h.run with
  | .stalled id =>
    match s.req? id with
    | none => true
    | some r => r.callAway || (r.hartWait &&
        (match r.phase with | .done _ _ => false | .failed .. => false | .travelling => false | _ => true))
  | .reset => false
  | .halted => false
  | _ => true

/-- The wait is withdrawn; a call whose message was taken stays pending in its slot, and a reply is held there. -/
def State.withdraw (s : State) (n : Nat) : State :=
  match s.hart? n with
  | none => s
  | some h =>
    match h.run with
    | .stalled id =>
      match s.req? id with
      | none => s.setHart { h with run := .running }
      | some r =>
        let s := if r.callAway then s else (s.leaveWaits r.who r.batch).dropReq id
        let h := { h with run := .running }
        match r.op, r.who with
        | .send _, .hartSlot _ i =>
          s.setHart (if r.callAway then h.setSlot i { h.slots.getD i .reset with pending := some r.obj } else h)
        | .awaitReply .., .hartSlot _ i => s.setHart (h.setSlot i { h.slots.getD i .reset with pending := some r.obj })
        | _, _ => s.setHart h
    | .wfi => s.setHart { h with run := .running }
    | _ => s

/-- An interrupt asks a ksend back that has left for another package, in case its endpoint has not accepted it (R386). -/
def State.askBack (s : State) (h : Hart) : State :=
  match h.run with
  | .stalled id =>
    match s.req? id with
    | some r =>
      match r.remote, r.sendAway with
      | some c, true => s.fabric (c.otype.extractLsb' 0 9).toNat 0 0 (.remoteWithdraw (c.otype.extractLsb' 0 9).toNat r.id)
      | _, _ => s
    | none => s
  | _ => s

/-- Hart n takes a pending and enabled interrupt, unless it completes its instruction first (R368, R378). -/
def State.interruptHart (s : State) (n : Nat) : State :=
  match s.hart? n with
  | none => s
  | some h =>
    match h.interrupt? with
    | some c => if s.stallEnds h then (s.withdraw h.id).takeTrap h.id ⟨true, c, some 0, 0⟩ else s.askBack h
    | none => s

/-- TRAP_ENTRY of hart `who` (R368). -/
def execTrapEntry (s : State) : Host.Outcome State Fault Refusal := .next (s.interruptHart s.ev.who)

/-- INTERRUPT_FILE_WRITE: identity `arg` to the file of `level` of hart `who` (R380). -/
def execInterruptFileWrite (s : State) : Host.Outcome State Fault Refusal := .next (s.raiseInt s.ev.who s.ev.level s.ev.arg)

/-! Instructions of a hart. -/

/-- How an instruction ends: at the next instruction, with its pc set, waiting, or in a trap. -/
inductive HartEnd where
  | next
  | moved
  | waits
  | trap (t : HTrap)
  deriving DecidableEq, Repr

/-- An instruction retires: `instret` counts it. -/
def Hart.retire (h : Hart) : Hart := if h.mcountinhibit.getLsbD 2 then h else { h with instret := h.instret + 1 }

/-- Ends an instruction of `len` bytes of hart n. -/
def State.endHart (s : State) (n len : Nat) : HartEnd → State
  | .next => s.modHart n fun h => (h.goto (h.pc + BitVec.ofNat 64 len)).retire
  | .moved => s.modHart n Hart.retire
  | .waits => s
  | .trap t => s.takeTrap n t

/-- Runs an instruction of the hart that issues. -/
def onHart (f : State → Hart → State × HartEnd) (s : State) : Host.Outcome State Fault Refusal :=
  .next (match s.cur with
    | .hart n len =>
      match s.hart? n with
      | some h => match f s h with | (s, e) => s.endHart n len e
      | none => s
    | _ => s)

/-- An instruction that only changes its hart, or traps. -/
def onHartOnly (f : Hart → Except HTrap Hart) : State → Host.Outcome State Fault Refusal :=
  onHart fun s h => match f h with
    | .ok h => (s.setHart h, .next)
    | .error t => (s, .trap t)

/-! Derivations (R373). -/

/-- KINC_HART (R373). -/
def execKincHart (d a : BitVec 5) (imm : BitVec 12) : State → Host.Outcome State Fault Refusal :=
  onHartOnly fun h => .ok (h.setK d (capInc (h.kr a) imm.toInt))
/-- KANDP_HART (R373). -/
def execKandpHart (d a : BitVec 5) (mask : BitVec 12) : State → Host.Outcome State Fault Refusal :=
  onHartOnly fun h => .ok (h.setK d (capAndp (h.kr a) mask))
/-- KBND_HART (R373). -/
def execKbndHart (d a l : BitVec 5) : State → Host.Outcome State Fault Refusal :=
  onHartOnly fun h => .ok (h.setK d (capBnd (h.kr a) (h.xr l).toNat))
/-- KBNDX_HART (R373). -/
def execKbndxHart (d a l : BitVec 5) : State → Host.Outcome State Fault Refusal :=
  onHartOnly fun h => match capBndx (h.kr a) (h.xr l).toNat with
    | .ok c => .ok (h.setK d c)
    | .error f => .error (.ofCap f a a (h.kr a) (h.kr a))
/-- KADDR_HART (R373). -/
def execKaddrHart (d a : BitVec 5) : State → Host.Outcome State Fault Refusal :=
  onHartOnly fun h => .ok (h.setX d (h.kr a).cursor)
/-- KADDR_SET (R373). -/
def execKaddrSet (d a x : BitVec 5) : State → Host.Outcome State Fault Refusal :=
  onHartOnly fun h => .ok (h.setK d ((h.kr a).withCursor (h.xr x).toNat))
/-- KSEAL_HART (R373). -/
def execKsealHart (d a b : BitVec 5) : State → Host.Outcome State Fault Refusal :=
  onHartOnly fun h => match capSeal (h.kr a) (h.kr b) with
    | .ok c => .ok (h.setK d c)
    | .error f => .error (.ofCap f a b (h.kr a) (h.kr b))
/-- KUNSEAL_HART (R373). -/
def execKunsealHart (d a b : BitVec 5) : State → Host.Outcome State Fault Refusal :=
  onHartOnly fun h => match capUnseal (h.kr a) (h.kr b) with
    | .ok c => .ok (h.setK d c)
    | .error f => .error (.ofCap f a b (h.kr a) (h.kr b))
/-- KENTRY_HART (R373). -/
def execKentryHart (d a : BitVec 5) : State → Host.Outcome State Fault Refusal :=
  onHartOnly fun h => match capEntry (h.kr a) with
    | .ok c => .ok (h.setK d c)
    | .error f => .error (.ofCap f a a (h.kr a) (h.kr a))

/-! The kmode forms (R374, Table 18.2). -/

/-- KMODE_CAP (R374). -/
def execKmodeCap : State → Host.Outcome State Fault Refusal :=
  onHartOnly fun h => if h.mode = .u ∧ !h.kc.has pSYSTEM then .error .illegal else .ok { h with cm := true }
/-- KMODE_INT (R374). -/
def execKmodeInt : State → Host.Outcome State Fault Refusal := onHartOnly fun h => .ok { h with cm := false }

/-- A special capability register (Table 18.2). -/
def Hart.scr (h : Hart) (n : Nat) : Cap :=
  match n with
  | 0 => h.kd
  | 1 => h.kc
  | 2 => h.kmtc
  | 3 => h.kmtd
  | 4 => h.kmepc
  | 5 => h.kstc
  | 6 => h.kstd
  | _ => h.ksepc
def Hart.setScr (h : Hart) (n : Nat) (c : Cap) : Hart :=
  match n with
  | 0 => { h with kd := c }
  | 1 => h
  | 2 => { h with kmtc := c }
  | 3 => { h with kmtd := c }
  | 4 => { h with kmepc := c }
  | 5 => { h with kstc := c }
  | 6 => { h with kstd := c }
  | _ => { h with ksepc := c }
def Hart.scrReadable (h : Hart) (n : Nat) : Bool := n < 2 || h.mode == .m || (5 ≤ n && h.mode == .s)
def Hart.scrWritable (h : Hart) (n : Nat) : Bool :=
  if n = 0 then h.mode != .u || h.kc.has pSYSTEM
  else n != 1 && h.scrReadable n

/-- KMODE_RD (R374). -/
def execKmodeRd (d r : BitVec 5) : State → Host.Outcome State Fault Refusal :=
  onHartOnly fun h => if h.scrReadable r.toNat then .ok (h.setK d (h.scr r.toNat)) else .error .illegal
/-- KMODE_WR (R374). -/
def execKmodeWr (r a : BitVec 5) : State → Host.Outcome State Fault Refusal :=
  onHartOnly fun h => if h.scrWritable r.toNat then .ok (h.setScr r.toNat (h.kr a)) else .error .illegal

/-- KMODE_JMP (R374): an odd target raises cause 0. -/
def execKmodeJmp (d a : BitVec 5) : State → Host.Outcome State Fault Refusal :=
  onHart fun s h =>
    match capTarget (h.kr a) with
    | .error f => (s, .trap (.ofCap f a a (h.kr a) (h.kr a)))
    | .ok c =>
      if c.cursor.getLsbD 0 then (s, .trap (.exc 0 c.cursor))
      else
        let h := h.setK d (h.kc.moveTo ((h.pc.toNat : Int) + 4))
        (s.setHart { h with kc := c, pc := c.cursor }, .moved)

/-! The Xkcap CSRs (R369, Table 18.3). -/

def Hart.slot (h : Hart) : MsgSlot := h.slots.getD h.kslot.toNat .reset

/-- Whether the mode may use a CSR number: bits [9:8] give the lowest mode. -/
def Hart.csrAllowed (h : Hart) (csr : BitVec 12) : Bool := (csr.extractLsb' 8 2).toNat ≤ h.mode.num

def Hart.xkcapRead (h : Hart) (csr : BitVec 12) : DWord :=
  if csr = 0x7C0 then h.mkfault
  else if csr = 0x7C1 then setBit64 0 0 h.mpcm
  else if csr = 0x5C0 then h.skfault
  else if csr = 0x5C1 then h.kprio.zeroExtend 64
  else if csr = 0x5C2 then h.kslot.zeroExtend 64
  else setBit64 (setBit64 (setBit64 0 0 h.cm) 1 h.spcm) 2 h.slot.pending.isSome

/-- The fields that Table 18.4 gives. -/
def kfaultMask : DWord := 0x0003FFFF00003FFF

def Hart.xkcapWrite (h : Hart) (csr : BitVec 12) (v : DWord) : Hart :=
  if csr = 0x7C0 then { h with mkfault := v &&& kfaultMask }
  else if csr = 0x7C1 then { h with mpcm := v.getLsbD 0 }
  else if csr = 0x5C0 then { h with skfault := v &&& kfaultMask }
  else if csr = 0x5C1 then { h with kprio := v.extractLsb' 0 4 }
  else if csr = 0x5C2 then { h with kslot := v.extractLsb' 0 2 }
  else { h with spcm := v.getLsbD 1 }

/-- The value that a CSR instruction writes, if it writes (Zicsr). -/
def csrNew (op : CsrOp) (rs1 : BitVec 5) (x old : DWord) : Option DWord :=
  let imm : DWord := rs1.zeroExtend 64
  match op with
  | .rw => some x
  | .rwi => some imm
  | .rs => if rs1 = 0 then none else some (old ||| x)
  | .rsi => if rs1 = 0 then none else some (old ||| imm)
  | .rc => if rs1 = 0 then none else some (old &&& ~~~x)
  | .rci => if rs1 = 0 then none else some (old &&& ~~~imm)

/-- XKCAP_CSR_ACCESS (R369). -/
def execXkcapCsrAccess (op : CsrOp) (csr : BitVec 12) (rd rs1 : BitVec 5) : State → Host.Outcome State Fault Refusal :=
  onHartOnly fun h =>
    if !h.csrAllowed csr then .error .illegal
    else
      let old := h.xkcapRead csr
      let h := match csrNew op rs1 (h.xr rs1) old with
        | some v => h.xkcapWrite csr v
        | none => h
      .ok (h.setX rd old)

/-! Returns (R368). -/

/-- MRET: RISC-V's steps, then kc, kd and cm from what the trap to M saved; a sealed kmepc gives an untagged kc (R56). -/
def Hart.mret (h : Hart) : Hart :=
  let mpp := msMPP h.mstatus
  let st := setBit64 (setBit64 h.mstatus msMIE (h.mstatus.getLsbD msMPIE)) msMPIE true
  let st := msSetMPP (if mpp = 3 then st else setBit64 st msMPRV false) 0
  { h with
    mode := .ofNum mpp
    mstatus := st
    pc := h.mepc
    kc := h.kmepc.withCursor h.mepc.toNat
    kd := h.kmtd
    kmtd := h.kd
    cm := h.mpcm }
/-- SRET. -/
def Hart.sret (h : Hart) : Hart :=
  let st := setBit64 (setBit64 h.mstatus msSIE (h.mstatus.getLsbD msSPIE)) msSPIE true
  { h with
    mode := if h.mstatus.getLsbD msSPP then .s else .u
    mstatus := setBit64 (setBit64 st msSPP false) msMPRV false
    pc := h.sepc
    kc := h.ksepc.withCursor h.sepc.toNat
    kd := h.kstd
    kstd := h.kd
    cm := h.spcm }

/-- MRET (R368): illegal below M. -/
def execMret : State → Host.Outcome State Fault Refusal :=
  onHart fun s h => if h.mode = .m then (s.setHart h.mret, .moved) else (s, .trap .illegal)
/-- SRET (R368): illegal in U, and in S with TSR. -/
def execSret : State → Host.Outcome State Fault Refusal :=
  onHart fun s h =>
    if h.mode = .u ∨ (h.mode = .s ∧ h.mstatus.getLsbD msTSR) then (s, .trap .illegal) else (s.setHart h.sret, .moved)

end Sys2Proof.Machine
end

