-- ==== Sys2Proof/Machine/Threshold.lean ====
section
/-! DEFINITION. The Threshold (spec/23_boot_firmware_ports.md R443-R450): boot flash and its markers, the choice of an
image, the boot-step log and the boot steps, power, and the firmware commands of the mailbox. -/

namespace Sys2Proof.Machine

/-! CRC-32 (IEEE 802.3). -/

def crcBit (c : BitVec 32) : BitVec 32 := if c.getLsbD 0 then (c >>> 1) ^^^ 0xEDB88320 else c >>> 1
def crcByte (c : BitVec 32) (b : Byte) : BitVec 32 := (List.range 8).foldl (fun c _ => crcBit c) (c ^^^ b.zeroExtend 32)
def crc32 (bs : List Byte) : BitVec 32 := ~~~(bs.foldl crcByte 0xFFFFFFFF)
/-- The CRC over bits [95:0] of a record. -/
def crcOf (x : BitVec 128) : BitVec 32 := crc32 (bytesOfNat 12 (x.extractLsb' 0 96).toNat)

/-! Marker copies (R444, Table 23.2). -/

def markerMagic : BitVec 32 := 0x4B58_4D4B
def markerSlot (m : BitVec 128) : Nat := (m.extractLsb' 0 1).toNat
def markerSvn (m : BitVec 128) : Nat := (m.extractLsb' 16 16).toNat
def markerSeq (m : BitVec 128) : Nat := (m.extractLsb' 32 32).toNat
/-- A valid copy: its magic, its CRC and its slot field (bits [15:1] zero) are correct. -/
def markerValid (m : BitVec 128) : Bool :=
  m.extractLsb' 64 32 == markerMagic && m.extractLsb' 96 32 == crcOf m && m.extractLsb' 1 15 == 0
def makeMarker (seq svn slot : Nat) : BitVec 128 :=
  let x : BitVec 128 := BitVec.ofNat 128 (markerMagic.toNat * 2 ^ 64 + seq % 2 ^ 32 * 2 ^ 32 + svn % 2 ^ 16 * 2 ^ 16 + slot % 2)
  (crcOf x).zeroExtend 128 <<< 96 ||| x

/-- The copy that boot and updates follow: the valid one with the higher seq, copy 0 when equal (R445). -/
def Threshold.followed (t : Threshold) : Option Nat :=
  let ok (i : Nat) : Bool := markerValid (t.markers.getD i (BitVec.allOnes 128))
  let seq (i : Nat) : Nat := markerSeq (t.markers.getD i 0)
  if ok 0 && ok 1 then some (if seq 0 < seq 1 then 1 else 0)
  else if ok 0 then some 0
  else if ok 1 then some 1
  else none
/-- The marker M. -/
def Threshold.marker (t : Threshold) : Option (BitVec 128) := t.followed.bind fun i => t.markers[i]?

def slotSize (slot : Nat) : Nat := if slot = 0 then 0x1F00000 else 0x2000000
/-- A slot's content verifies (R445), with the least security version of the marker that is followed. -/
def imageVerifies (slot svn : Nat) (b : List Byte) : Bool :=
  !b.isEmpty && decide (b.length ≤ slotSize slot) && Config.imageSigned b && decide (Config.fusedSvn ≤ Config.imageSvn b)
    && decide (svn ≤ Config.imageSvn b)
def Threshold.slot (t : Threshold) (i : Nat) : List Byte := t.slots.getD i []
/-- The image of a slot; 2 is the ROM recovery image (R445). -/
def Threshold.image (t : Threshold) (i : Nat) : List Byte := if i < 2 then t.slot i else Config.recoveryImage
/-- The image that booted. -/
def Threshold.bootImage (t : Threshold) : List Byte := match t.booted with | some i => t.image i | none => []
def Threshold.verifies (t : Threshold) (i : Nat) : Bool :=
  imageVerifies i (match t.marker with | some m => markerSvn m | none => 0) (t.slot i)

/-- choose() of R445; 2 is the ROM recovery image. -/
def Threshold.choose (t : Threshold) : Nat :=
  match t.marker with
  | some m =>
    let a := markerSlot m
    if t.verifies a then a else if t.verifies (1 - a) then 1 - a else 2
  | none => if t.verifies 0 then 0 else 2

/-- The slot that an update writes: the one M does not name (R446). -/
def Threshold.target (t : Threshold) : Nat :=
  match t.marker with
  | some m => 1 - markerSlot m
  | none => if t.booted = some 0 then 1 else 0
/-- The copy that a flip erases: the invalid one, else that of the lower seq. -/
def Threshold.flipCopy (t : Threshold) : Nat := match t.followed with | some i => 1 - i | none => 0
def Threshold.flipSeq (t : Threshold) : Nat := match t.marker with | some m => markerSeq m + 1 | none => 1

/-! The boot-step log (R447, R448, Table 23.5). -/

def logRing : Nat := 65024
def logRecord (boot step outcome detail : Nat) : BitVec 128 :=
  let x : BitVec 128 := BitVec.ofNat 128 (boot % 2 ^ 16 * 2 ^ 48 + step % 256 * 2 ^ 40 + outcome % 256 * 2 ^ 32 + detail % 2 ^ 32)
  (crcOf x).zeroExtend 128 <<< 96 ||| x
def logBoot (r : BitVec 128) : Nat := (r.extractLsb' 48 16).toNat
def logStep (r : BitVec 128) : Nat := (r.extractLsb' 40 8).toNat
def logOutcome (r : BitVec 128) : Nat := (r.extractLsb' 32 8).toNat
def logValid (r : BitVec 128) : Bool := r.extractLsb' 96 32 == crcOf r

/-- Valid records of the flash, newest first: a list is written in ring order. -/
def Threshold.records (t : Threshold) : List (Nat × BitVec 128) := (t.log.filter fun r => logValid r.2).reverse
/-- The newest record: the highest boot number, then the latest written. -/
def Threshold.newest (t : Threshold) : Option (Nat × BitVec 128) :=
  t.records.foldl (fun acc r =>
    match acc with
    | none => some r
    | some a => if logBoot a.2 < logBoot r.2 then some r else some a) none
/-- The last outcome of each step in a boot's records, as (step, outcome). -/
def Threshold.outcomes (t : Threshold) (boot : Nat) : List (Nat × Nat) :=
  (List.range 10).filterMap fun st =>
    ((t.records.find? fun r => logBoot r.2 == boot && logStep r.2 == st)).map fun r => (st, logOutcome r.2)

/-- Appends a record to the ring. -/
def Threshold.append (t : Threshold) (step outcome detail : Nat) : Threshold :=
  let at_ := match t.log.getLast? with | some r => (r.1 + 1) % logRing | none => 0
  { t with log := (t.log.filter fun r => r.1 != at_) ++ [(at_, logRecord t.boot step outcome detail)] }

/-- A step that a boot left begun or failed. -/
def troubledIn (os : List (Nat × Nat)) (step : Nat) : Bool := os.any fun o => o.1 == step && (o.2 == 0 || o.2 == 2)
/-- Whether the previous boot left a step begun or failed (Table 23.4); a boot that ended with step 9 done left none. -/
def Threshold.troubled (t : Threshold) (step : Nat) : Bool := !t.prior.contains (9, 1) && troubledIn t.prior step

/-! Reports, measurements, fences. -/

def reportBootHeld : Nat := 2
def reportNumber : Nat := 3
def reportReplace : Nat := 4
def reportRefused : Nat := 5
def reportDone : Nat := 6

/-- Extends measurement i (R462). -/
def State.extend (s : State) (i : Nat) (digest : BitVec 384) : State :=
  let old := s.th.meas.getD i 0
  { s with th := { s.th with meas := s.th.meas.set i (Config.sha384 (bytesOfNat 48 old.toNat ++ bytesOfNat 48 digest.toNat)) } }

/-- The fence map: cores, pseudo-channels and dies, in the numbers of Table 24.1. -/
def State.fenceMap (s : State) : List Nat :=
  ((s.cores.filter Core.fenced).map Core.id) ++ s.th.fencePending ++ (s.th.fencedPcs.map (0x10000 + ·))
    ++ (s.th.fencedDies.map (0x20000 + ·))
/-- What measurement 3 is extended with (Table 24.2). -/
def State.fenceDigest (s : State) : BitVec 384 := Config.digest (3 :: s.th.rootPorts :: s.fenceMap)

/-- The conditions of R472. -/
def State.needsReplace (s : State) : Bool :=
  !s.th.fencedPcs.isEmpty || !s.th.fencedDies.isEmpty
    || (List.range 4).any fun d =>
      decide (16 < (s.cores.filter fun c => c.fenced && dieOfCore c.id == d).length)
        || decide (64 < (s.th.health.getD (hEccUncorrectable d) 0).toNat)
/-- Entering replace requested is reported to the management interface and on line 16 (R472). -/
def State.checkReplace (s : State) : State :=
  if s.needsReplace && !s.th.replace then
    (({ s with th := { s.th with replace := true } } : State).outbox (.report reportReplace 1)).assertLine 16
  else s

def State.fenceCore (s : State) (c : Nat) : State :=
  if (s.core c).fenced then s
  else ((s.setCore { s.core c with fenced := true }).count (hFenced (dieOfCore c))).checkReplace
def State.fencePc (s : State) (n : Nat) : State :=
  if s.th.fencedPcs.contains n then s
  else (({ s with th := { s.th with fencedPcs := s.th.fencedPcs ++ [n] } } : State).count (hFenced (n / 256 % 4))).checkReplace
def State.fenceDie (s : State) (d : Nat) : State :=
  if s.th.fencedDies.contains d then s
  else ({ s with th := { s.th with fencedDies := s.th.fencedDies ++ [d] } } : State).checkReplace
/-- A FENCE of a core takes effect when the core holds no workgroup (R471). -/
def State.settleFences (s : State) : State :=
  s.th.fencePending.foldl (fun s c =>
    if s.wgs.any fun w => w.core == c then s
    else (({ s with th := { s.th with fencePending := s.th.fencePending.filter (· != c) } } : State).fenceCore c)) s

/-! Power and restart. -/

/-- What a start keeps: the flash, the fences (R470), and the memory bytes and poison given. -/
def State.restart (s : State) (mem : List Host.Cell) (poison : List Nat) : State :=
  let t := s.th
  let boot := match t.newest with | some r => (logBoot r.2 + 1) % 2 ^ 16 | none => 0
  let prior := match t.newest with | some r => t.outcomes (logBoot r.2) | none => []
  let prior2 := match t.newest with | some r => t.outcomes ((logBoot r.2 + 2 ^ 16 - 1) % 2 ^ 16) | none => []
  let twice (st : Nat) : Bool := troubledIn prior st && troubledIn prior2 st
  let cores := (s.cores.filter Core.fenced).map fun c => { Core.fresh c.id with fenced := true }
  let s : State := { State.reset with
    agenda := s.agenda
    freeCtr := s.freeCtr
    nextId := s.nextId
    mem := mem
    poison := poison
    cores := cores
    th := { Threshold.reset with
      markers := t.markers
      log := t.log
      slots := t.slots
      boot := boot
      prior := prior
      prior2 := prior2
      recovery := !prior.contains (9, 1) && [1, 5, 6, 9].any twice
      fencedPcs := t.fencedPcs
      fencedDies := t.fencedDies
      fencePending := t.fencePending } }
  { s with th := { s.th with replace := t.replace && !s.fenceMap.isEmpty } }

/-- POWER_ON (R66, R447): memory begins as log 1 says. -/
def execPowerOn (s : State) : Host.Outcome State Fault Refusal := .next (s.restart [] [])

/-- POWER_LOSS (R446, Table 23.3): everything but the flash is lost; a flash write under way leaves what `bytes` says of
the slot, and the marker complete with `ok` and else erased. -/
def execPowerLoss (s : State) : Host.Outcome State Fault Refusal :=
  let t := s.th
  let t :=
    if t.stage = 1 then { t with slots := t.slots.set t.target s.ev.bytes }
    else if t.stage = 4 ∧ s.ev.ok then { t with markers := t.markers.set t.flipCopy (makeMarker t.flipSeq s.ev.arg t.target) }
    else t
  let t := if t.stage = 3 ∧ !s.ev.ok then { t with markers := t.markers.set t.flipCopy (BitVec.allOnes 128) } else t
  let s := ({ s with th := t } : State).restart [] []
  .next { s with th := { s.th with powered := false } }

/-! Boot steps (R447, Table 23.4). -/

def State.logStep (s : State) (outcome detail : Nat) : State := { s with th := s.th.append s.th.step outcome detail }

/-- Units of sixteen bits that a step found bad. -/
def unitsOf : List Byte → List Nat
  | a :: b :: r => (a.toNat + 256 * b.toNat) :: unitsOf r
  | _ => []

/-- The keys of a pair, one for each direction, as the exchange with the other package gives them (R466). -/
def State.keyPair (s : State) (pkg : Nat) : State :=
  let dir (i : Nat) : PairDir := { PairDir.fresh with key := some (Config.exchangedKey (s.freeCtr + i)) }
  { s.setPair { Pair.fresh pkg with out := dir 0, inn := dir 1 } with freeCtr := s.freeCtr + 2 }

/-- PKGID of a member of a pod (R458); of another module it is 0. -/
def pkgidOf (num count : Nat) : DWord := BitVec.ofNat 64 (num + 0x8000 + min count 288 * 0x10000)

/-- Step 7 (R458): the number and the pod of the booted image's configuration, sent to every switch and peer; `bytes` are the
ports that trained, `arg` 1 that another package holds the number. A bad number leaves every port down and the module
outside a pod. -/
def State.trainPorts (s : State) : State :=
  let cfg := Config.imagePackage s.th.bootImage
  let bad := cfg.2.1 && (decide (288 ≤ cfg.1) || s.ev.arg == 1)
  let s := if cfg.2.1 then s.outbox (.number cfg.1) else s
  let s := { s with th := { s.th with
    pkgid := if cfg.2.1 && !bad then pkgidOf cfg.1 cfg.2.2 else 0
    portsUp := (List.range 36).map fun i => !bad && s.ev.bytes.getD i 0 != 0 } }
  if bad then (s.outbox (.report reportNumber cfg.1)).assertLine 16 else s.podOthers.foldl State.keyPair s

/-- A selective stream of a root port: the Threshold programs its key, through IDE_KM over DOE; a port holds 8 at most, and
one whose link is down holds none (R454). -/
def State.ideStream (s : State) (port : Nat) : State :=
  if s.th.rootPorts ≤ port || !s.th.links.getD port false || 8 ≤ (s.th.ideStreams.filter fun x => x.port == port).length then s
  else { s with
    freeCtr := s.freeCtr + 1
    th := { s.th with ideStreams := s.th.ideStreams ++ [⟨port, Config.exchangedKey s.freeCtr⟩] } }

/-- Root-port training, the HDM decoders and the IOMMU (Table 23.4 step 8, R453, R455): `arg` ports after bifurcation, the first four of `bytes` the links that came up,
and then the port of each stream that the devices behind it agreed to (log 79). -/
def State.trainRootPorts (s : State) : State :=
  let s := { s with th := { s.th with
    rootPorts := if s.ev.arg = 2 ∨ s.ev.arg = 4 then s.ev.arg else 1
    links := (List.range 4).map fun i => s.ev.bytes.getD i 0 != 0
    ideStreams := []
    hdm := (min (Config.imageHdm s.th.bootImage).1 0x20000000000, max 1 (min (Config.imageHdm s.th.bootImage).2 4))
    iommu := ⟨(Config.imageIommu s.th.bootImage).1, (Config.imageIommu s.th.bootImage).2, 0, 0, false⟩ } }
  (s.ev.bytes.drop 4).foldl (fun s b => s.ideStream b.toNat) s

/-- An UNTYPED root that the Threshold seals for firmware (Table 2.6, R55): `arg2` bytes from `arg`, and its capability in the
granule `value`, as the booted image's configuration asks; none when it asks for none. The spec says neither where the first
UNTYPED lies nor what it permits: it lies in HBM4E and has the permissions of kd (R363; log 80). -/
def State.issueUntyped (s : State) : State :=
  let at_ := s.ev.arg
  let size := s.ev.arg2
  let slot := s.ev.value.toNat
  let inside (a n : Nat) : Bool := spaceOf a == .hbm && spaceOf (a + n - 1) == .hbm
  let clear := slot + 16 ≤ at_ ∨ at_ + 64 ≤ slot
  if size < 8192 ∨ size % 4096 ≠ 0 ∨ at_ % 4096 ≠ 0 ∨ slot % 16 ≠ 0 ∨ !inside at_ size ∨ !inside slot 16 ∨ !clear then s
  else
    let header := bytesOfNat 8 (11 + size * 2 ^ 16) ++ bytesOfNat 8 0 ++ bytesOfNat 8 64 ++ bytesOfNat 40 0
    let s := s.putBytes (header.zipIdx.map fun (x, i) => (at_ + i, x, false))
    let c := Cap.make at_ size Cap.rootData.perms 11
    let s := s.putCap slot c false
    { s with th := { s.th with roots := s.th.roots ++ [c] } }
/-- Step 9: hart 0 runs with the root capabilities, which the Threshold has issued (R363, R447). The others leave reset at
their turns from then on (log 43). -/
def State.releaseHart (s : State) : State :=
  { s with
    th := { s.th with roots := [.rootData, .rootCode resetVector] }
    harts := s.harts.map fun h => if h.id = 0 then { h with run := .running } else h }

/-- What a step does when it succeeds: the state and the detail of its record. -/
def State.bootAction (s : State) (step : Nat) (troubled : Bool) : State :=
  let units := unitsOf s.ev.bytes
  match step with
  | 0 => s.extend 0 (Config.digest [0, Config.fusedSvn])
  | 1 => { s with tags := [], summary := [], fe := [] }
  | 2 => if troubled then units.foldl State.fencePc s else s
  | 3 => if troubled then (units.foldl State.fenceCore s) else s
  | 4 => units.foldl State.fenceDie s
  | 5 =>
    let i := if s.th.recovery then 2 else s.th.choose
    { s with th := { s.th with booted := some i, banks := s.th.banks.set s.th.bank (s.th.image i) } }
  | 6 => (s.extend 1 (Config.sha384 s.th.bootImage)).extend 2 (Config.sha384 (s.th.banks.getD s.th.bank []))
  | 7 => if troubled then s else s.trainPorts
  | 8 =>
    if troubled then s
    else s.trainRootPorts
  | _ => (s.extend 3 s.fenceDigest).releaseHart.issueUntyped

/-- The outcome that a step which does not fail logs: 1 done, 3 skipped, 4 alt. -/
def bootOutcome (step : Nat) (troubled : Bool) : Nat :=
  if troubled && 2 ≤ step && step ≤ 4 then 4 else if troubled && (step == 7 || step == 8) then 3 else 1

/-- BOOT_STEP: the step begins, or ends with the outcome that its own work gives. -/
def execBootStep (s : State) : Host.Outcome State Fault Refusal :=
  let t := s.th
  let step := t.step
  .next (if !t.powered || t.held || 10 ≤ step then s
    else if !t.begun then
      let s := s.logStep 0 0
      { s with th := { s.th with begun := true } }
    else
      let troubled := t.troubled step
      let detail := s.ev.value2.toNat % 2 ^ 32
      match s.ev.outcome with
      | .failed =>
        let s := s.logStep 2 detail
        if step = 0 ∧ troubled then ({ s with th := { s.th with held := true } } : State).outbox (.report reportBootHeld 0)
        else s.restart s.mem s.poison
      | .ok =>
        let s := s.bootAction step troubled
        let s := s.logStep (bootOutcome step troubled) detail
        { s with th := { s.th with begun := false, step := step + 1 } })

/-- BOOT_WATCHDOG_EXPIRY: failed is logged and the package starts again. -/
def execBootWatchdogExpiry (s : State) : Host.Outcome State Fault Refusal :=
  .next (if !s.th.powered || s.th.held || !s.th.begun then s
    else
      let held := s.th.step = 0 ∧ s.th.troubled 0
      let s := s.logStep 2 0
      if held then ({ s with th := { s.th with held := true } } : State).outbox (.report reportBootHeld 0)
      else s.restart s.mem s.poison)

/-! The mailbox (R449). -/

/-- The codes of STATUS. -/
def stDone : Nat := 0
def stSignature : Nat := 2
def stVersion : Nat := 3
def stFlash : Nat := 4
def stState : Nat := 5
def stRefused : Nat := 6

def mailboxCommands : List Nat := [0x01, 0x02, 0x03, 0x10, 0x11, 0x12, 0x13, 0x14, 0x15, 0x16, 0x17]

/-- The command ends with a status. -/
def State.endCommand (s : State) (status : Nat) : State := { s with th := { s.th with stage := 100, result := status } }
def State.atStage (s : State) (n : Nat) : State := { s with th := { s.th with stage := n } }

/-- A write to CMD (R449): ignored while STATUS is 1; refused while a PLDM update runs (R459). -/
def State.writeCmd (s : State) (v : DWord) : State :=
  if s.th.status = 1 then s
  else
    let s := { s with th := { s.th with cmd := v, status := 1 } }
    if s.th.pldm || !mailboxCommands.contains v.toNat then { s with th := { s.th with status := BitVec.ofNat 64 stRefused } } |>.assertLine 17
    else s.atStage 0

/-- The command `n` runs and has not ended. -/
def Threshold.runs (t : Threshold) (n : Nat) : Bool := t.powered && t.status == 1 && t.cmd.toNat == n && t.stage != 100

/-- MAILBOX_COMMAND_COMPLETE: STATUS is written and line 17 asserted; a PLDM update is answered on its own interface. -/
def execMailboxCommandComplete (s : State) : Host.Outcome State Fault Refusal :=
  .next (if s.th.stage ≠ 100 then s
    else if s.th.pldm then
      ({ s with th := { s.th with pldm := false, stage := 0 } } : State).outbox (.report reportDone s.th.result)
    else (({ s with th := { s.th with status := BitVec.ofNat 64 s.th.result, stage := 0 } } : State).assertLine 17).flushEvents)

/-- A region that lies in HBM4E. -/
def inHbm (a n : Nat) : Bool := decide (a + n ≤ 0x8000000000)
/-- Bytes at the home. -/
def State.bytesAt (s : State) (a n : Nat) : List Byte := (List.range n).map fun i => s.byteAt (a + i)
/-- The Threshold writes bytes at the home (R63, R101). -/
def State.writeOut (s : State) (a : Nat) (b : List Byte) : State := s.putBytes (b.zipIdx.map fun (x, i) => (a + i, x, false))

/-- The image that an update writes: a PLDM update's own, or that of the region at ARG0 of length ARG1. -/
def State.updateImage (s : State) : List Byte := if s.th.pldm then s.th.pldmImage else s.bytesAt s.th.arg0.toNat s.th.arg1.toNat

/-- Steps 1 to 3 of R446 by stage: verify, write the slot, read back. The flash fails when `outcome` says so. `next` is the
stage after step 3. -/
def State.updateStep (s : State) (next : Nat) : State :=
  let t := s.th
  let n := if t.pldm then t.pldmImage.length else t.arg1.toNat
  let svn := match t.marker with | some m => markerSvn m | none => 0
  let flash := s.ev.outcome = .failed
  match t.stage with
  | 0 =>
    if t.flipSeq = 0xFFFFFFFF ∨ n = 0 ∨ (!t.pldm && !inHbm t.arg0.toNat n) ∨ slotSize t.target < n then s.endCommand stRefused
    else if !Config.imageSigned s.updateImage then s.endCommand stSignature
    else if Config.imageSvn s.updateImage < Config.fusedSvn ∨ Config.imageSvn s.updateImage < svn then s.endCommand stVersion
    else s.atStage 1
  | 1 =>
    if flash then s.endCommand stFlash
    else ({ s with th := { t with slots := t.slots.set t.target s.updateImage } } : State).atStage 2
  | 2 => if flash || !t.verifies t.target then s.endCommand stFlash else s.atStage next
  | _ => s

/-- Step 4 of R446: the copy is erased (stage 3), then written (stage 4). The svn of the new marker is a free value: the
rule gives none (log 3). -/
def State.flipStep (s : State) : State :=
  let t := s.th
  let flash := s.ev.outcome = .failed
  if flash then s.endCommand stFlash
  else if t.stage = 3 then ({ s with th := { t with markers := t.markers.set t.flipCopy (BitVec.allOnes 128) } } : State).atStage 4
  else
    let (svn, s) := s.fresh
    let m := makeMarker t.flipSeq svn.toNat t.target
    ({ s with th := { s.th with markers := t.markers.set t.flipCopy m } } : State).endCommand stDone

/-- UPDATE (R446), of the mailbox or of a PLDM update: one stage of the command. -/
def execUpdate (s : State) : Host.Outcome State Fault Refusal :=
  .next (if s.th.runs 1 || (s.th.powered && s.th.pldm && s.th.stage != 100) then
      if s.th.stage < 3 then s.updateStep 3 else s.flipStep
    else s)

/-- The Halls go on after a quiescent point: latched doorbells are served (R450, R468). -/
def State.resumeHalls (s : State) : State :=
  let doorbells := s.th.latched
  doorbells.foldl State.ringNumber { s with th := { s.th with quiescent := false, latched := [] } }

/-- The old image's state: the configuration registers of each Hall, the key handles and epochs of each pair, the health
counters and the log position. The order is the model's (log 41). -/
def State.blockBody (s : State) : List Byte :=
  (s.halls.map fun h => bytesOfNat 8 h.tblep.toNat ++ bytesOfNat 8 h.savebase.toNat ++ bytesOfNat 8 h.saveslots.toNat).flatten
    ++ (s.th.pairs.map fun p => bytesOfNat 4 p.pkg ++ bytesOfNat 4 p.out.epoch.toNat ++ bytesOfNat 4 p.inn.epoch.toNat).flatten
    ++ (s.th.health.map fun x => bytesOfNat 4 x.toNat).flatten
    ++ bytesOfNat 4 (match s.th.log.getLast? with | some r => (r.1 + 1) % logRing | none => 0)
/-- The state block (R450): major and minor version, length and CRC-32 of 4 bytes each, and the state. -/
def State.stateBlock (s : State) : List Byte :=
  let v := Config.stateVersion (s.th.banks.getD s.th.bank [])
  bytesOfNat 4 v.1 ++ bytesOfNat 4 v.2 ++ bytesOfNat 4 s.blockBody.length ++ bytesOfNat 4 (crc32 s.blockBody).toNat ++ s.blockBody
/-- The major version of a state block. -/
def blockMajor (b : List Byte) : Nat := natOfBytes (b.take 4)

/-- HANDOVER (R450): stages 0-2 as UPDATE, 10 the idle bank, 11 the quiescent point and the state block, 12 the new image's
answer, 3 and 4 the flip. -/
def execHandover (s : State) : Host.Outcome State Fault Refusal :=
  .next (if !s.th.runs 2 then s
    else
      match s.th.stage with
      | 3 => s.flipStep
      | 4 => s.flipStep
      | 10 => { s with th := { s.th with
          stage := 11, quiescent := true, banks := s.th.banks.set (1 - s.th.bank) (s.th.slot s.th.target) } }
      | 11 => { s with th := { s.th with stage := 12, stateBlock := s.stateBlock } }
      | 12 =>
        let image := s.th.slot s.th.target
        if Config.imageAccepts image (blockMajor s.th.stateBlock) then
          let s := s.extend 2 (Config.sha384 image)
          let s := { s with th := { s.th with bank := 1 - s.th.bank, stage := 3 } }
          s.resumeHalls
        else s.resumeHalls.endCommand stState
      | _ => s.updateStep 10)

/-- The log region of the flash: erased positions read ones. -/
def Threshold.logBytes (t : Threshold) : List Byte :=
  ((List.range logRing).map fun i =>
    bytesOfNat 16 (match t.log.find? (fun (r : Nat × BitVec 128) => r.1 == i) with | some r => r.2 | none => BitVec.allOnes 128).toNat).flatten

/-- LOGREAD (R449): copies the log region to a buffer of 1 MiB in HBM4E. -/
def execLogread (s : State) : Host.Outcome State Fault Refusal :=
  .next (if !s.th.runs 3 then s
    else if !inHbm s.th.arg0.toNat 0x100000 then s.endCommand stRefused
    else (s.writeOut s.th.arg0.toNat s.th.logBytes).endCommand stDone)

end Sys2Proof.Machine
end

