-- ==== Sys2Proof/Machine/Device.lean ====
section
/-! DEFINITION. Device registers: the Halls' (spec/19 R397, R400, spec/20 R415), the harts' (spec/18 R380, R383), the
Threshold mailbox (spec/23 R449, R458), and what reads and writes of device register space and of PCI Express windows
do (spec/04 Table 4.1). -/

namespace Sys2Proof.Machine

/-- A device register by its physical address. -/
inductive DevReg where
  | hall (die off : Nat)
  | file (hart : Nat) (level : IntLevel) (off : Nat)
  | mtimecmp (hart : Nat)
  | mailbox (off : Nat)
  | none
  deriving DecidableEq, Repr

def devReg (pa : Nat) : DevReg :=
  if pa < 0x9000000000 then .none
  else if pa < 0x9000400000 then .hall ((pa - 0x9000000000) / 0x100000) ((pa - 0x9000000000) % 0x100000 / 8 * 8)
  else if 0x9001000000 ≤ pa ∧ pa < 0x9001018000 then
    .file ((pa - 0x9001000000) / 0x1000) .m ((pa - 0x9001000000) % 0x1000 / 4 * 4)
  else if 0x9002000000 ≤ pa ∧ pa < 0x9002018000 then
    .file ((pa - 0x9002000000) / 0x1000) .s ((pa - 0x9002000000) % 0x1000 / 4 * 4)
  else if 0x9003000000 ≤ pa ∧ pa < 0x90030000C0 then .mtimecmp ((pa - 0x9003000000) / 8)
  else if 0x9004000000 ≤ pa ∧ pa < 0x9004000028 then .mailbox ((pa - 0x9004000000) / 8 * 8)
  else .none

/-! The Hall registers. -/

/-- A doorbell write: latched at a quiescent point (R395, R397, R450). -/
def State.doorbell (s : State) (n : Nat) : State :=
  if s.th.quiescent then { s with th := { s.th with latched := s.th.latched ++ [n % 4096] } } else s.ringNumber (n % 4096)

/-- CTXUPD: every launch under the context takes its priority as it stands now; queues that name it, or named it, read
their schedctx field again (R400). -/
def State.ctxupd (s : State) (pa : Nat) : State :=
  let prio := s.peek (pa + 16) 1 % 16
  let refresh (q : QueueState) : QueueState :=
    if !q.opened then q
    else
      let c := s.sift (s.capAt (q.pa + 16))
      if q.ctx.objPa = pa ∨ c.objPa = pa then { q with ctx := c } else q
  { s with
    launches := s.launches.map fun (l : Launch) => if l.ctx = pa then { l with prio := prio } else l
    queues := s.queues.map refresh }

/-- Writing 0 re-arms event 1; another value is ignored (Table 19.7). -/
def State.writeWfovf (s : State) (die : Nat) (v : DWord) : State :=
  if v = 0 then s.setHall die { s.hall die with wfovf := 0 } else s

/-- Whether an XINV value names an entry: its page lies in the entry's page, of whatever size (Table 20.4). -/
def TlbEntry.hitBy (e : TlbEntry) (v : DWord) : Bool :=
  (v.getLsbD 10 || pteG e.pte.toNat || (v.extractLsb' 0 10).toNat == e.asid)
    && (v.getLsbD 11 || e.holds (v.extractLsb' 12 36).toNat)

/-- XINV removes matching translations on every die, and waits to be counted (R415). -/
def State.writeXinv (s : State) (die : Nat) (v : DWord) : State :=
  let h := s.hall die
  { s with tlb := s.tlb.filter fun e => !e.hitBy v }.setHall die { h with xinv := h.xinv ++ [v] }

/-- The ASID of a requester. -/
def State.asidOf (s : State) (p : Party) : Option Nat := (s.wgOf p).map Workgroup.asid

/-- An access translated through a removed entry has not been performed. -/
def State.xinvBusy (s : State) (v : DWord) : Bool := s.reqs.any fun r => r.unperformed && r.via.any fun e => e.hitBy v

/-- XINV_COMPLETE at the Hall of die `who`: XDONE counts the oldest write (R415). -/
def execXinvComplete (s : State) : Host.Outcome State Fault Refusal :=
  let h := s.hall s.ev.who
  .next (match h.xinv with
    | [] => s
    | v :: r => if s.xinvBusy v then s else s.setHall s.ev.who { h with xinv := r, xdone := h.xdone + 1 })

/-- A context of the die is saved (R415, R420). -/
def State.anySaved (s : State) (die : Nat) : Bool := s.wgs.any fun w => w.saved.isSome && dieOfCore w.core == die

/-- A write to a Hall register. -/
def State.writeHall (s : State) (die off : Nat) (v : DWord) : State :=
  let h := s.hall die
  match off with
  | 0x00 => s.doorbell (v.toNat % 4096)
  | 0x08 => s.ctxupd v.toNat
  | 0x10 => s.writeWfovf die v
  | 0x18 => (s.setHall die { h with tblep := v }).flushEvents
  | 0x28 => s.writeXinv die v
  | 0x38 => if s.anySaved die then s else s.setHall die { h with savebase := v &&& 0xFFFFFFFFFFF00000 }
  | 0x40 => if s.anySaved die then s else s.setHall die { h with saveslots := v.extractLsb' 0 4 }
  | _ => s

/-- A readable Hall register; none where the table gives no read. -/
def State.readHall (s : State) (die off : Nat) : Option DWord :=
  let h := s.hall die
  match off with
  | 0x10 => some (h.wfovf.zeroExtend 64)
  | 0x18 => some h.tblep
  | 0x20 => some h.dlseq
  | 0x30 => some h.xdone
  | 0x38 => some h.savebase
  | 0x40 => some (h.saveslots.zeroExtend 64)
  | _ => none

/-! The mailbox. -/

/-- A write while STATUS is 1 is ignored, to ARG0 and ARG1 as to CMD (R449). -/
def State.writeMailbox (s : State) (off : Nat) (v : DWord) : State :=
  match off with
  | 0x00 => s.writeCmd v
  | 0x08 => if s.th.status = 1 then s else { s with th := { s.th with arg0 := v } }
  | 0x10 => if s.th.status = 1 then s else { s with th := { s.th with arg1 := v } }
  | _ => s
def State.readMailbox (s : State) (off : Nat) : DWord :=
  match off with
  | 0x00 => s.th.cmd
  | 0x08 => s.th.arg0
  | 0x10 => s.th.arg1
  | 0x18 => s.th.status
  | _ => s.th.pkgid

/-! Reads and writes. -/

/-- A write of `v` to the register at `pa`; a write to an address of no register does nothing. -/
def State.devWrite (s : State) (pa : Nat) (v : DWord) : State :=
  match devReg pa with
  | .hall d off => s.writeHall d off v
  | .file n level off => if off = 0 then s.raiseInt n level (v.extractLsb' 0 32).toNat else s
  | .mtimecmp n => s.modHart n fun h => { h with mtimecmp := v }.matchM
  | .mailbox off => s.writeMailbox off v
  | .none => s

/-- A read of the register at `pa`: what no rule states is a free value; an interrupt file reads zero (log 5). -/
def State.devRead (s : State) (pa : Nat) : DWord × State :=
  match devReg pa with
  | .hall d off => match s.readHall d off with | some v => (v, s) | none => s.fresh
  | .file _ _ _ => (0, s)
  | .mtimecmp n => (match s.hart? n with | some h => h.mtimecmp | none => 0, s)
  | .mailbox off => (s.readMailbox off, s)
  | .none => s.fresh

/-- Address of the device register that holds an address: 4 bytes in an interrupt file, else 8. -/
def regBase (a : Nat) : Nat := if (match devReg a with | .file .. => true | _ => false) then a / 4 * 4 else a / 8 * 8

/-- Device registers read one after another, lowest first (R105). -/
def devReads : List Nat → State → State × List (Nat × DWord)
  | [], s => (s, [])
  | a :: rest, s =>
    let (v, s) := s.devRead a
    let (s, vs) := devReads rest s
    (s, (a, v) :: vs)

/-- Bytes read from device registers or from a PCI Express window, whose device answers from outside. -/
def State.outsideRead (s : State) (pas : List Nat) : State × List PByte :=
  match pas.head? with
  | none => (s, [])
  | some a =>
    if spaceOf a = .device then
      let (s, vs) := devReads (pas.map regBase).eraseDups s
      (s, pas.map fun p =>
        let v := match vs.find? fun x => x.1 == regBase p with | some x => x.2 | none => 0
        (v.extractLsb' (8 * (p - regBase p)) 8, false))
    else
      let (bs, s) := freshBytes pas.length s
      (s, bs.map fun b => (b, false))

/-- Bytes written there: a register takes its value, the bytes not written as zero; a window write leaves the package. -/
def State.outsideWrite (s : State) (ws : List (Nat × PByte)) : State :=
  match ws with
  | [] => s
  | (a, _) :: _ =>
    if spaceOf a = .device then
      (ws.map fun w => regBase w.1).eraseDups.foldl (fun s base =>
        let v := (ws.filter fun w => regBase w.1 == base).foldl (fun (v : Nat) w => v + w.2.1.toNat * 2 ^ (8 * (w.1 - base))) 0
        s.devWrite base (BitVec.ofNat 64 v)) s
    else s.outbox (.pcieWrite a (ws.map fun w => w.2.1))

def isOutside (pas : List Nat) : Bool :=
  match pas.head? with
  | some a => spaceOf a == .device || spaceOf a == .pcie
  | none => false

/-! The rows of device registers: `value` is written to the register of die `who`. -/

/-- DOORBELL (R395). -/
def execDoorbell (s : State) : Host.Outcome State Fault Refusal := .next (s.doorbell (s.ev.value.toNat % 4096))
/-- CTXUPD (R400). -/
def execCtxupd (s : State) : Host.Outcome State Fault Refusal := .next (s.ctxupd s.ev.value.toNat)
/-- WFOVF (R397). -/
def execWfovf (s : State) : Host.Outcome State Fault Refusal := .next (s.writeWfovf s.ev.who s.ev.value)
/-- XINV (R415). -/
def execXinv (s : State) : Host.Outcome State Fault Refusal := .next (s.writeXinv s.ev.who s.ev.value)
/-- REGISTER_WRITE of `value` to the register at address `arg` (R397). -/
def execRegisterWrite (s : State) : Host.Outcome State Fault Refusal := .next (s.devWrite s.ev.arg s.ev.value)

end Sys2Proof.Machine
end

