-- ==== Sys2Proof/Machine/Tiles.lean ====
section
/-! DEFINITION. Tile instructions, GANG, and the gang instructions at issue (spec/12_matrix_tiles_copies.md R287 stages 1
and 2, R294-R305; spec/01 R37-R41). -/

namespace Sys2Proof.Machine

def cTile (cause index : Nat) : FaultInfo := .of cTILESTATE cause index
/-! Reading the word of an operation. -/

def opcodeOf (w : BitVec 80) : Nat := (w.extractLsb' 70 10).toNat
/-- What R39 compares: opcode and body, without the register operand of a copy's descriptor. -/
def wordKey (w : BitVec 80) : BitVec 10 × BitVec 53 :=
  let body := w.extractLsb' 0 53
  (w.extractLsb' 70 10,
    if opcodeOf w = 0x1C5 ∨ opcodeOf w = 0x1C6 then body &&& ~~~((0xFF : BitVec 53) <<< 41) else body)

/-- 0 array, 1 scale unit, 2 drain engine, 3 copy engine (R288). -/
def unitOf (w : BitVec 80) : Nat :=
  match opcodeOf w with
  | 0x1C7 => 0
  | 0x1C8 => 0
  | 0x1C9 => 1
  | 0x1C5 => 3
  | 0x1C6 => 3
  | _ => 2

def EngineOp.body (o : EngineOp) : XBody := XBody.ofWord o.word
def EngineOp.code (o : EngineOp) : Nat := opcodeOf o.word
/-- Bit 12 of the word: MMA's `.a`, ADRAIN's `.mem`. -/
def EngineOp.bit12 (o : EngineOp) : Bool := o.word.getLsbD 12
def EngineOp.copyKind (o : EngineOp) : Nat := o.body.op.toNat
def EngineOp.biased (o : EngineOp) : Bool := o.body.flags.getLsbD 0
def EngineOp.adds (o : EngineOp) : Bool := o.body.flags.getLsbD 1
def EngineOp.accIndex (o : EngineOp) : Nat := o.body.acc.toNat
/-- The source accumulator of MMA `.a` and SCACC. -/
def EngineOp.srcAcc (o : EngineOp) : Nat :=
  if o.code = 0x1C9 then fld o.body.flags 8 0 else fld o.body.flags 8 8 * 256 + o.body.ta.toNat

/-- Tiles that an operation names: index, and whether it writes the tile (R282). -/
def EngineOp.tiles (o : EngineOp) : List (Nat × Bool) :=
  let b := o.body
  let a := b.ta.toNat
  let t := b.tb.toNat
  match o.code with
  | 0x1C5 => if o.copyKind = 0 then [(a, true)] else if o.copyKind = 1 then [(a, false)] else []
  | 0x1C7 => if o.bit12 then [(t, false)] else [(a, false), (t, false)]
  | 0x1C8 => [(a, false), (t, false)]
  | 0x1C9 => [(a, false), (t, false)]
  | 0x1CB => [(a, false)]
  | 0x1CC => (if o.bit12 then [] else [(a, true)]) ++ (if o.biased then [(t, false)] else [])
  | _ => []

/-- How an operation uses an accumulator tile (Table 12.10). -/
inductive AccUse where
  | init | update | read | drain
  deriving DecidableEq, Repr

def EngineOp.accs (o : EngineOp) : List (Nat × AccUse) :=
  match o.code with
  | 0x1C7 => (o.accIndex, .update) :: (if o.bit12 then [(o.srcAcc, .read)] else [])
  | 0x1C8 => [(o.accIndex, .init)]
  | 0x1C9 => [(o.accIndex, .update), (o.srcAcc, .read)]
  | 0x1CA => [(o.accIndex, .init)]
  | 0x1CB => [(o.accIndex, .init)]
  | 0x1CC => [(o.accIndex, .drain)]
  | _ => []

/-! Readiness and waits for tiles. -/

/-- Readiness of an operation (R287 stage 3): what it waits for is named by the object and qualifier of a wait of kind 9. -/
inductive Readiness where
  | ready
  | wait (obj qual : Nat)
  | broken (f : FaultInfo)
  deriving DecidableEq, Repr

def cDrain (n : Nat) : FaultInfo := .of cDRAIN n

/-- Stage 3 of R287. -/
def EngineOp.readiness (o : EngineOp) (w : Workgroup) : Readiness :=
  let broken := (o.tiles.findSome? fun (n, _) =>
      let e := w.tile n
      if tState e = tFAULTED then some (cTile 1 n) else if tRows e = 0 then some (cTile 7 n) else none).or
    (o.accs.findSome? fun (n, _) => if (w.accTile n).state = aFAULTED then some (cDrain n) else none)
  match broken with
  | some f => .broken f
  | none =>
    let late := (o.tiles.findSome? fun (n, wr) =>
        let e := w.tile n
        let ok := if wr then tState e == tEMPTY else tState e == tREADY && decide (tReaders e < 31)
        if ok then none else some (Readiness.wait w.core (w.bank * 256 + n))).or
      (o.accs.findSome? fun (n, _) =>
        if (w.accTile n).state = aDRAINING then some (.wait w.core (0x1000 + n)) else none)
    late.getD .ready

def State.opRequests (s : State) (o : EngineOp) : List Request := s.reqs.filter fun r => o.arrivals.contains r.id

/-- The parked fragments of an operation that is not ready share one wait of kind 9, on the first tile or accumulator that
keeps it; the wait moves when another does, and ends with the readiness. Their requests keep in `x` one more than the
qualifier of what they wait for. -/
def State.awaitReady (s : State) (o : EngineOp) : State :=
  match s.wg? o.wg with
  | none => s
  | some w =>
    let rs := s.opRequests o
    match o.readiness w with
    | .wait obj qual =>
      if rs.all fun r => r.x == qual + 1 then s
      else rs.foldl (fun s r => (s.leaveWaits r.who r.batch).mustWait { r with x := qual + 1, obj := obj } 9 obj qual .unknown) s
    | _ => rs.foldl (fun s r => (s.leaveWaits r.who r.batch).setReq { r with phase := .waiting, unresolved := false, x := 0 }) s

/-- Waits for tiles look again after an entry changed (R296). -/
def State.twaitsLook (s : State) (wg : Nat) : State :=
  s.reqs.foldl (fun s r =>
    match r.who, r.op, r.phase == .waiting || r.phase == .registering, s.wg? wg with
    | .thread g _, .twait n empty, true, some w =>
      if g != wg then s
      else
        let st := tState (w.tile n)
        if st = tFAULTED then s.fail r (cTile 1 n)
        else if st = (if empty then tEMPTY else tREADY) then
          s.finish r (if r.phase == .registering then r.report true else []) none
        else s
    | _, _, _, _ => s) s

/-- Tile-table entries or accumulators of a workgroup have changed: waits for tiles, and operations that wait for their
readiness, look again (R287, R296). -/
def State.pollTwait (s : State) (wg : Nat) : State :=
  ((s.twaitsLook wg).ops.filter fun o => o.wg == wg && o.phase == .waiting).foldl State.awaitReady (s.twaitsLook wg)

/-- Changes an entry and lets its waits look again. -/
def State.putTile (s : State) (wg n : Nat) (e : DWord) : State := (s.modWg wg fun w => w.setTile n e).pollTwait wg

/-! Tile instructions act once, with the operands of the lowest-pos active lane. -/

/-- A tile instruction: one action, then a completed request in every active lane, whose tag completes with its reply once the
entry has been written or read (Table 6.3, R294). -/
def tileIssue (i : Instr) (h : Head) (act : State → Lane → Except FaultInfo (State × (Lane → List Wr))) (s : State) :
    Host.Outcome State Fault Refusal :=
  .next (issue i h (fun s c ls =>
    match ls with
    | [] => ⟨s, [], []⟩
    | l :: _ =>
      match act s l with
      | .error f => ⟨s, ls.map fun x => (x.tid, f), []⟩
      | .ok (s, ws) =>
        let (batch, s) := s.newId
        requestsOf (fun s _ x r => (s, .ok (some { r with phase := .done (ws x) none }))) c batch ls true ⟨s, [], []⟩) s)

/-- TDEF (R294). -/
def tdefAct (b : RBody) (s : State) (l : Lane) : Except FaultInfo (State × (Lane → List Wr)) :=
  let n := b.d.toNat
  let e := l.w.tile n
  let off := (l.reg b.a).toNat
  let rows := fld (l.reg b.b) 15 0
  let cols := fld (l.reg b.b) 31 16
  let fmt := fld b.variant 3 0
  let bad := [b.a, b.b].find? fun r => (l.w.reg l.tid r.toNat).poison
  match bad with
  | some r => .error (.of cPOISON r.toNat)
  | none =>
    if tState e = tFAULTED then .error (cTile 1 n)
    else if tState e = tFILLING || tState e = tDRAINING || (tState e = tREADY && 0 < tReaders e) then .error (cTile 3 n)
    else if rows < 1 || 256 < rows || cols < 1 || 256 < cols || off % 128 != 0
        || l.w.scrLen < off + footprint rows cols fmt then .error (cTile 4 n)
    else
      let e := BitVec.ofNat 64 (tREADY * 2 ^ 61 + cols * 2 ^ 47 + rows * 2 ^ 38 + fld b.variant 7 4 * 2 ^ 34 + fmt * 2 ^ 30
        + cols * 2 ^ 21 + rows * 2 ^ 12 + off / 128)
      .ok (s.putTile l.w.id n e, fun _ => [])

/-- TDEF (R294). -/
def execTdef (h : Head) (b : RBody) : State → Host.Outcome State Fault Refusal := tileIssue (.tdef h b) h (tdefAct b)

/-- The value of TSTAT (Table 12.11). -/
def tstatValue (e : DWord) : Word :=
  BitVec.ofNat 32 (tVcols e * 2 ^ 17 + tVrows e * 2 ^ 8 + tReaders e * 2 ^ 3 + tState e)

/-- TSTAT (R295). -/
def execTstat (h : Head) (b : RBody) : State → Host.Outcome State Fault Refusal :=
  tileIssue (.tstat h b) h fun s l =>
    let v := tstatValue (l.w.tile b.a.toNat)
    .ok (s, fun x => [wrByte x.tid b.d.toNat v])

/-- TREL's new state of an entry (Table 12.4). -/
def trelEntry (e : DWord) : DWord :=
  if tState e = tREADY then setState e (if tReaders e = 0 then tEMPTY else tDRAINING) else e

/-- TREL (R297). -/
def execTrel (h : Head) (b : RBody) : State → Host.Outcome State Fault Refusal :=
  tileIssue (.trel h b) h fun s l =>
    let n := b.a.toNat
    let e := l.w.tile n
    if tState e = tFAULTED then .error (cTile 1 n)
    else if tState e = tFILLING then .error (cTile 3 n)
    else .ok (s.putTile l.w.id n (trelEntry e), fun _ => [])

/-- TWAIT: faults at issue on a FAULTED entry; its wait is decided at the tile table (R296). -/
def execTwait (h : Head) (b : RBody) : State → Host.Outcome State Fault Refusal :=
  issueRequests (.twait h b) h fun s _ l r =>
    let n := b.a.toNat
    if tState (l.w.tile n) = tFAULTED then (s, .error (cTile 1 n))
    else (s, .ok (some { r with
      op := .twait n (b.variant.getLsbD 3)
      obj := l.w.core
      pred := fld b.variant 2 0
      unresolved := true }))

/-! Gangs. -/

/-- GANG: writes a gang register whose latch is empty (R298, R41). -/
def execGang (h : Head) (b : IBody) : State → Host.Outcome State Fault Refusal :=
  tileIssue (.gang h b) h fun s l =>
    let n := fld b.imm 17 16
    if !(l.w.latch n).arrivals.isEmpty then .error (illegalOp 3)
    else .ok (s.modWg l.w.id fun w => { w with gangs := w.gangs.set (n - 1) (b.imm.extractLsb' 0 16) }, fun _ => [])

/-- What a gang form reads at issue: a tensor register, and descriptor or origin registers. -/
structure GangNeeds where
  tk : Option (BitVec 4)
  first : Nat
  count : Nat
  deriving Repr

/-! Requests of the parked fragments. -/

/-- Threads fault with their requests: the requests end, their tags complete (R161). -/
def State.faultRequests (s : State) (place : FaultAt) (rs : List (Request × FaultInfo)) : State :=
  match s.endRequests rs place with | (s, acts) => s.runActs acts

/-! Rendezvous (R38, R39). -/

/-- Arrivals as one operation; its lead is the lowest-tid live thread of the lowest listed home group. -/
def makeOp (w : Workgroup) (id latch : Nat) (as : List Arrival) (a : Arrival) : EngineOp :=
  let groups := if 256 ≤ latch then sortBy (fun x y => x ≤ y) (as.map fun x => x.tid / w.w).eraseDups else w.gangGroups latch
  let lowest (xs : List Arrival) : Option Arrival := xs.foldl (fun m x =>
    match m with
    | none => some x
    | some y => if x.tid < y.tid then some x else some y) none
  let lead := (if 256 ≤ latch then lowest as else (groups.head?.bind fun g => lowest (as.filter fun x => x.tid / w.w == g))).getD a
  let slices := if 256 ≤ latch then [lead.slice]
    else groups.filterMap fun g => (lowest (as.filter fun x => x.tid / w.w == g)).map Arrival.slice
  { id := id, wg := w.id, launch := w.launch, asid := w.asid, core := w.core, unit := unitOf lead.word, word := lead.word,
    gang := if 256 ≤ latch then 0 else latch, groups := groups, pc := lead.pc, lead := lead.tid, slices := slices,
    record := none, phase := .waiting, arrivals := as.map Arrival.req, todo := [], fault := none, table := [], bad := [],
    acked := [], begun := [], source := none }

/-- A latch becomes empty: its operation has been accepted or has failed (R287). -/
def Workgroup.emptyLatch (w : Workgroup) (op : Nat) : Workgroup :=
  { w with latches := w.latches.filter fun l => l.op != some op }

/-- The rendezvous at a latch completes when every listed home group has arrived (R38): the words are compared (R39), and one
operation waits for its readiness. The latch keeps its arrivals until the operation is accepted or fails (R287, R307). -/
def State.rendezvous (s : State) (wg id : Nat) : State :=
  match s.wg? wg with
  | none => s
  | some w =>
    let as := (w.latch id).arrivals
    match as with
    | [] => s
    | a :: _ =>
      if (w.latch id).op.isSome || (id < 256 && !(w.latchLeft id).isEmpty) then s
      else
        let rs := as.filterMap fun x => s.req? x.req
        if as.any fun x => wordKey x.word != wordKey a.word then
          (s.setWg { w with latches := w.latches.filter fun l => l.gang != id }).faultRequests .instr
            (rs.map fun r => (r, illegalOp 1))
        else
          let (oid, s) := s.newId
          let o := makeOp w oid id as a
          let s := { s.setWg (w.setLatch { w.latch id with op := some oid }) with ops := s.ops ++ [o] }
          let s := rs.foldl (fun s r =>
            (s.leaveWaits r.who r.batch).setReq
              { r with op := .gangWait id (some oid), batch := oid, phase := .waiting, unresolved := false }) s
          s.awaitReady o

/-- The latch of a gang register. gang0 names the issuing group alone, so each instruction that names it has a latch of its
own, by its batch (R37, R41). -/
def latchOf (gang batch : Nat) : Nat := if gang = 0 then 256 + batch else gang

/-- Checks of R37 and R40. A gang that is empty or excludes the thread faults with the cause 0x13 of R172 (log 9). -/
def gangCheck (l : Lane) (gang : Nat) : Option FaultInfo :=
  if gang = 0 then none
  else
    let listed := l.w.gangGroups gang
    if !listed.contains (l.tid / l.w.w) then some (illegalOp 0x13)
    else if listed.any fun g => (l.w.liveOf g).isEmpty then some (illegalOp 2)
    else none

/-- The tensor capability's checks (R287). -/
def tensorCheck (s : State) (l : Lane) (tk : BitVec 4) : Option FaultInfo :=
  let k := l.cap tk
  let f (code : BitVec 8) (d : Nat) : Option FaultInfo := some (.of code tk.toNat d k.cursor)
  if !k.valid then f cTAG 0
  else if k.otype ≠ 9 then f cOTYPE k.otype.toNat
  else if !k.has pINVOKE then f cPERM pINVOKE
  else if !s.objLive k.objPa 9 then f cTAG 0
  else none

/-- Descriptor registers within the allocation (R287), and their poison in the lane that supplies them (R307): the lowest live
thread of a listed home group, and under gang0 the lowest thread that arrives. -/
def descriptorCheck (l : Lane) (gang : Nat) (lowest : Bool) (n count : Nat) : Option FaultInfo :=
  let nv := match l.w.thread? l.tid with | some t => t.v.length | none => 0
  if (n < 0xC0 ∧ 0xC0 < n + count) ∨ 256 < n + count then some (.of 0x04 n nv)
  else if n < 0xC0 ∧ nv < n + count then some (.of 0x04 (max n nv) nv)
  else
    let supplies := if gang = 0 then lowest else match (l.w.liveOf (l.tid / l.w.w)).map Thread.tid with | t :: _ => t == l.tid | [] => false
    if supplies then ((List.range count).find? fun i => (l.w.reg l.tid (n + i)).poison).map fun i => .of cPOISON (n + i)
    else none

/-- A lane arrives at its latch (R38). -/
def gangRequest (word : BitVec 80) (gang : Nat) (needs : GangNeeds) : LaneRequest := fun s c l r =>
  match (gangCheck l gang).or ((needs.tk.bind (tensorCheck s l)).or
      (if needs.count = 0 then none else descriptorCheck l gang r.lowest needs.first needs.count)) with
  | some f => (s, .error f)
  | none =>
    let id := latchOf gang r.batch
    let a : Arrival :=
      { tid := l.tid, grp := c.grp, word := word, pc := c.site.pc
        slice := (List.range needs.count).map fun i => l.regN (needs.first + i)
        kreg := match needs.tk with | some k => l.cap k | none => .null
        req := r.id }
    let s := s.modWg l.w.id fun w => w.setLatch { w.latch id with arrivals := (w.latch id).arrivals ++ [a] }
    (s, .ok (some { r with op := .gangWait id none, obj := l.w.core, phase := .waiting }))

/-- The fragment that has arrived parks, without the threads whose guard is false (R38); while the rendezvous is incomplete
its wait is registered (Table 11.1). -/
def State.awaitGang (s : State) (wg latch batch : Nat) : State :=
  let rs := s.reqs.filter fun r => r.batch == batch
  let s := match rs with | r :: _ => s.settleBatch r | [] => s
  match s.wg? wg with
  | none => s
  | some w =>
    if 256 ≤ latch || (w.latchLeft latch).isEmpty then s
    else rs.foldl (fun s r => s.mustWait r 10 w.core (w.bank * 256 + w.slot * 4 + latch) .unknown) s

/-- A gang instruction at issue: stages 1 and 2 of R287. One that names gang0 completes its rendezvous (R41). -/
def gangIssue (i : Instr) (h : Head) (b : XBody) (needs : GangNeeds) (s : State) : Host.Outcome State Fault Refusal :=
  .next (issue i h (fun s c ls =>
    let (batch, s) := s.newId
    let gang := b.gang.toNat
    let e := requestsOf (gangRequest ((encodeWord i).getD 0) gang needs) c batch ls true ⟨s, [], []⟩
    let s := e.s.awaitGang c.wg (latchOf gang batch) batch
    { e with s := if gang = 0 then s.rendezvous c.wg (latchOf gang batch) else s }) s)

/-- COPY (R299). -/
def execCopy (h : Head) (b : XBody) : State → Host.Outcome State Fault Refusal :=
  gangIssue (.copy h b) h b ⟨some b.tk, fld b.acc 7 0, 4⟩
/-- COPYM (R300). -/
def execCopym (h : Head) (b : XBody) : State → Host.Outcome State Fault Refusal :=
  gangIssue (.copym h b) h b ⟨some b.tk, fld b.acc 7 0, 5⟩
/-- MMA (R301): `.a` names a record. -/
def execMma (h : Head) (b : XBody) : State → Host.Outcome State Fault Refusal :=
  gangIssue (.mma h b) h b ⟨if b.op.getLsbD 0 then some b.tk else none, 0, 0⟩
/-- MMAK (R302). -/
def execMmak (h : Head) (b : XBody) : State → Host.Outcome State Fault Refusal :=
  gangIssue (.mmak h b) h b ⟨some b.tk, 0, 0⟩
/-- SCACC (R303). -/
def execScacc (h : Head) (b : XBody) : State → Host.Outcome State Fault Refusal :=
  gangIssue (.scacc h b) h b ⟨none, 0, 0⟩
/-- ACLR (R304). -/
def execAclr (h : Head) (b : XBody) : State → Host.Outcome State Fault Refusal :=
  gangIssue (.aclr h b) h b ⟨none, 0, 0⟩
/-- AINIT (R304). -/
def execAinit (h : Head) (b : XBody) : State → Host.Outcome State Fault Refusal :=
  gangIssue (.ainit h b) h b ⟨none, 0, 0⟩
/-- ADRAIN (R305): `.mem` names a record and three origin registers. -/
def execAdrain (h : Head) (b : XBody) : State → Host.Outcome State Fault Refusal :=
  gangIssue (.adrain h b) h b (if b.op.getLsbD 0 then ⟨some b.tk, b.ta.toNat, 3⟩ else ⟨none, 0, 0⟩)

end Sys2Proof.Machine
end

