-- ==== Sys2Proof/Machine/Points.lean ====
section
/-! DEFINITION. Requests at their execution points (spec/04 R99-R122, spec/10 R231-R248, spec/11 R266-R276, spec/13): what
performing each kind does, who waits and who is served, and the steps ACCESS_AT_EXECUTION_POINT and MAILBOX_DELIVERY. -/

namespace Sys2Proof.Machine

/-- Source package of a remote capability (R57). -/
def Cap.source (c : Cap) : Nat := (c.otype.extractLsb' 0 9).toNat

/-! Reads and writes at a point. -/

def State.pointRead (s : State) (d : Nat) (strong : Bool) (pas : List Nat) : State × List PByte :=
  if isOutside pas then s.outsideRead pas else s.readAs d strong strong pas
def State.pointWrite (s : State) (d : Nat) (strong : Bool) (ws : List (Nat × PByte)) : State :=
  if isOutside (ws.map Prod.fst) then s.outsideWrite ws else s.writeAs d strong strong ws

/-- A read that is no thread's, by die d (R101): weak, through the die's cache; strong on a page of PBMT IO (R93); at the block
or the root port outside memory (Table 4.4). -/
def State.engineRead (s : State) (d : Nat) (p : Placed) : State × List PByte :=
  if p.io || isOutside p.pas then s.pointRead d true p.pas else s.weakRead d p.nc p.pas

/-- Addresses of a granule's bytes. -/
def granuleAt (pa : Nat) : List Nat := (List.range 16).map (pa + ·)
/-- A granule read as a capability; a device register or window has no tag (R237). -/
def State.pointReadCap (s : State) (d : Nat) (strong : Bool) (pa : Nat) : State × Cap × Bool :=
  if isOutside [pa] then
    let (s, bs) := s.outsideRead (granuleAt pa)
    (s, Cap.ofBits false (BitVec.ofNat 128 (natOfBytes (bs.map Prod.fst))), false)
  else s.readCapAs d strong strong pa
/-- A capability written as a granule; a device register or window takes its bytes (R238). -/
def State.pointWriteCap (s : State) (d : Nat) (strong : Bool) (pa : Nat) (c : Cap) (poison : Bool) : State :=
  if isOutside [pa] then s.outsideWrite ((granuleAt pa).zip ((bytesOfNat 16 c.bits.toNat).map fun b => (b, false)))
  else s.writeCapAs d strong strong pa c poison

/-- Bytes to the addresses, without poison. -/
def plainBytes (pas : List Nat) (n x : Nat) : List (Nat × PByte) := (pas.zip (bytesOfNat n x)).map fun (a, b) => (a, b, false)

/-- The words of a read, of 4 bytes each, with poison. -/
def readWords : List PByte → List (Word × Bool)
  | a :: b :: c :: d :: r =>
    (BitVec.ofNat 32 (natOfBytes [a.1, b.1, c.1, d.1]), a.2 || b.2 || c.2 || d.2) :: readWords r
  | [] => []
  | l => [(BitVec.ofNat 32 (natOfBytes (l.map Prod.fst)), l.any Prod.snd)]

/-- Sign extension of a value of n bytes below 4. -/
def extendSmall (n : Nat) (sx : Bool) (x : Word) : Word :=
  if !sx then x
  else if n = 1 then (x.extractLsb' 0 8).signExtend 32
  else if n = 2 then (x.extractLsb' 0 16).signExtend 32
  else x

/-- Register writes of a read value (R233): an s-register takes the lowest lane's. -/
def Request.dataWrites (r : Request) (sx : Bool) (bs : List PByte) : List Wr :=
  match r.who with
  | .thread _ tid =>
    if 0xC0 ≤ r.data ∧ !r.lowest then []
    else ((readWords bs).zipIdx.map fun (x, i) => wrByte tid (r.data + i) (extendSmall r.size sx x.1) x.2)
  | _ => []

def poisonFault (r : Request) : FaultInfo := .of cPOISON r.auth 0 (BitVec.ofNat 64 r.x)

/-! Atomics (R244, Table 10.5). -/

/-- n-bit two's complement. -/
def asSigned (n x : Nat) : Int := if x < 2 ^ (n - 1) then x else (x : Int) - 2 ^ n

/-- FP32 sum, rounded to nearest even; a NaN is canonical. -/
def addF32 (a b : Nat) : Nat := fp32.encode (fp32.round .rne ((fp32.decode a).add .rne (fp32.decode b)).1).1

/-- The stored value, or none when nothing is written. -/
def atomStored (op : AtomOp) (unsig : Bool) (bits old a b : Nat) : Option Nat :=
  let less (x y : Nat) : Bool := if unsig then decide (x < y) else decide (asSigned bits x < asSigned bits y)
  match op with
  | .add => some ((old + a) % 2 ^ bits)
  | .addF32 => some (addF32 old a)
  | .min => some (if less a old then a else old)
  | .max => some (if less old a then a else old)
  | .and => some (old &&& a)
  | .or => some (old ||| a)
  | .xor => some (old ^^^ a)
  | .xchg => some a
  | .cas => if old = a then some b else none
  | .incw => some (if a ≤ old then 0 else old + 1)
  | .bfadd => if old + a ≤ b then some (old + a) else none
def AtomOp.reports : AtomOp → Bool
  | .cas => true
  | .bfadd => true
  | _ => false

/-- An RMW at the home: old value, whether it stored; none at a poisoned location (R129). -/
def State.rmw (s : State) (d : Nat) (pas : List Nat) (op : AtomOp) (unsig : Bool) (a b : Nat) : State × Option (Nat × Bool) :=
  let s := s.beforeStrong d pas
  if pas.any s.poisonAt then (s, none)
  else
    let n := pas.length
    let old := natOfBytes (pas.map s.byteAt)
    match atomStored op unsig (8 * n) old a b with
    | some x => (s.putBytes (plainBytes pas n x), some (old, true))
    | none => (s, some (old, false))

def Request.atomWrites (r : Request) (op : AtomOp) (red : Bool) (old : Nat) (stored : Bool) : List Wr :=
  if red then []
  else r.dataWrites false ((bytesOfNat r.size old).map fun b => (b, false)) ++ (if op.reports then r.report stored else [])

/-! Full/empty words (R240-R242). -/

/-- Whether a request's state holds at its word. -/
def State.feHolds (s : State) (r : Request) : Bool :=
  match r.op with
  | .ldfe _ => s.feAt r.obj
  | .stfe _ force => force || !s.feAt r.obj
  | .mailbox _ => !s.feAt r.obj
  | _ => false

/-- The three words of a delivered claim (R323). -/
def mailboxBytes (ws : List Word) : List Byte := ((ws.map fun (w : Word) => bytesOfNat 4 w.toNat).flatten ++ List.replicate 4 0).take 24

/-- Acts at a word whose state holds. -/
def State.feAct (s : State) (r : Request) : State :=
  if s.poisonAt r.obj then s.fail r (poisonFault r)
  else
    match r.op with
    | .ldfe keep =>
      let bs := r.pas.map fun a => (s.byteAt a, s.poisonAt a)
      let s := if keep then s else s.setFe r.obj false
      s.finish r (r.dataWrites false bs ++ r.lateReport) none
    | .stfe data force =>
      let s := (s.putBytes ((r.pas.zip data).map fun (a, b) => (a, b))).setFe r.obj true
      s.finish r (if force then [] else r.lateReport) none
    | .mailbox ws =>
      let s := (s.putBytes ((r.pas.zip (mailboxBytes ws)).map fun (a, b) => (a, b, false))).setFe r.obj true
      { s with reqs := s.reqs.filter fun q => q.id != r.id, mailClaims := s.mailClaims.filter fun m => m.id != r.id }
    | _ => s

/-- Requests that wait at a full/empty word. -/
def State.feQueue (s : State) (word : Nat) : List Request :=
  (s.parkedAt word).filter fun r => match r.op with | .ldfe _ => true | .stfe .. => true | .mailbox _ => true | _ => false

/-- Serves from the head every request whose state holds, and stops at the first that cannot be (R242). -/
def State.feServe (word : Nat) : Nat → State → State
  | 0, s => s
  | fuel + 1, s =>
    match s.feQueue word with
    | r :: _ => if s.feHolds r && !s.poisonAt word then State.feServe word fuel (s.feAct r) else s
    | [] => s
/-- A change of the word's bit lets the queue look. -/
def State.feChanged (s : State) (word : Nat) : State := State.feServe word ((s.feQueue word).length + 1) s

/-- A full/empty request arrives (R240, R241). -/
def State.feArrive (s : State) (r : Request) : State :=
  if s.poisonAt r.obj then s.fail r (poisonFault r)
  else if s.feHolds r then (s.feAct r).feChanged r.obj
  else s.mustWait r 8 r.obj 0 .unknown

/-! Locks and monitors (R268, R269). -/

/-- The identity under which a request locks: that of its thread, which may have ended since (R259). -/
def State.nameOf (s : State) (r : Request) : Word :=
  match r.who with
  | .thread _ _ => r.name
  | p => s.identity p
def State.lockWord (s : State) (r : Request) : Nat := natOfBytes (r.pas.map s.byteAt)
def State.takeLock (s : State) (r : Request) : State :=
  let me := (s.nameOf r).toNat
  (s.putBytes (plainBytes r.pas r.size me)).finish r r.lateReport none

def State.lockers (s : State) (word : Nat) : List Request :=
  (s.parkedAt word).filter fun r => match r.op with | .lock => true | _ => false

/-- LOCK at its word. -/
def State.lockArrive (s : State) (r : Request) : State :=
  let s := s.beforeStrong (dieOfCore r.core) r.pas
  let me := (s.nameOf r).toNat
  if r.pas.any s.poisonAt then s.fail r (poisonFault r)
  else
    let x := s.lockWord r
    if x = 0 then s.takeLock r
    else if x = me then
      let (id, s) := s.newId
      s.deadlock ⟨id, s.tableDie r.who r.obj, 3, r.obj, 0, .waiting, [r.who], .parties [r.who], 0, none, false, r.batch⟩ []
    else s.mustWait r 3 r.obj 0 .unknown

/-- UNLOCK hands the lock to the chosen request, or frees it. -/
def State.unlockArrive (s : State) (r : Request) : State :=
  let s := s.beforeStrong (dieOfCore r.core) r.pas
  let me := (s.nameOf r).toNat
  if r.pas.any s.poisonAt then s.fail r (poisonFault r)
  else if s.lockWord r ≠ me then s.fail r { illegalOp 0x20 with addr := BitVec.ofNat 64 r.x }
  else
    let s := match s.chooseLocker (s.lockers r.obj) with
      | some q => s.takeLock q
      | none => s.putBytes (plainBytes r.pas r.size 0)
    s.finish r [] none

def monitorEnds (eq : Bool) (d x : Nat) : Bool := if eq then x == d else x != d

/-- MWAIT compares (R269). -/
def State.monitorArrive (s : State) (r : Request) (eq : Bool) (d : Nat) : State :=
  let s := s.beforeStrong (dieOfCore r.core) r.pas
  if r.pas.any s.poisonAt then s.fail r (poisonFault r)
  else
    let bs := r.pas.map fun a => (s.byteAt a, false)
    if monitorEnds eq d (natOfBytes (bs.map Prod.fst)) then s.finish r (r.dataWrites false bs ++ r.lateReport) none
    else if r.phase == .sent then s.mustWait r 2 r.obj 0 .unknown
    else s

/-- After writes were performed: lock words found free are retried for their head requests, and monitors compare again. -/
def State.pollWaits (s : State) : State :=
  s.reqs.foldl (fun s q =>
    match s.req? q.id with
    | none => s
    | some r =>
      if !(r.phase == .waiting || r.phase == .registering) then s
      else
        match r.op with
        | .monitor eq d => s.monitorArrive r eq d
        | .lock =>
          if s.lockWord r = 0 && !(r.pas.any s.poisonAt) then
            match s.chooseLocker (s.lockers r.obj) with
            | some h => s.takeLock h
            | none => s
          else s
        | _ => s) s

/-! Rejection and completion (R399, R406). -/

/-- Writes the completion stamp as a strong release (R406): the code of its failure, if it fails. -/
def State.writeStamp (s : State) (l : Launch) (x : Nat) : State × Option (BitVec 8) :=
  match checkAccess s l.seat l.stamp 0 l.stamp.cursor.toNat
      { perms := [pSTORE], n := 8, align := 8, need := { w := true } } with
  | (s, .ok p) => (s.pointWrite l.die true (plainBytes p.pas 8 x), none)
  | (s, .fault f) => (s, some f.code)
  | (s, .remote) => (s, some cSEALED)

/-- Signals cbit of cnotify; false when cnotify is not usable. -/
def State.signalDone (s : State) (l : Launch) : State × Bool :=
  let c := l.cnotify
  if c.valid && c.otype == 3 && c.has pINVOKE && s.objLive c.objPa 3 && l.cbit ≤ 31 then
    (s.nsig c.objPa ((1 : Word) <<< l.cbit), true)
  else (s, false)

/-- A stamp that could not be written is counted and reported (R406). -/
def State.stampFailed (s : State) (l : Launch) (code : BitVec 8) : State :=
  let h := s.hall l.die
  (s.setHall l.die { h with stampFails := h.stampFails + 1 }).hallEvent l.die 3
    [BitVec.ofNat 32 l.die, BitVec.ofNat 32 l.seq, code.zeroExtend 32]

def State.dropLaunch (s : State) (id : Nat) : State := { s with launches := s.launches.filter fun l => l.id != id }

/-- Rejects a launch (R399). -/
def State.reject (s : State) (l : Launch) (code : Nat) : State :=
  let (s, stamped) :=
    if l.stamp.isNull || stampBad l.stamp then (s, false)
    else
      match s.writeStamp l (2 ^ 63 + code * 2 ^ 32 + l.seq % 2 ^ 32) with
      | (s, none) => (s, true)
      | (s, some code) => (s.stampFailed l code, false)
  let n := s.peek (l.queue + 80) 8
  let s := if n = 2 ^ 64 - 1 then s else s.poke (l.queue + 80) 8 (n + 1)
  let (s, signalled) := if l.cnotifyBad then (s, false) else s.signalDone l
  let s := if stamped || signalled then s else s.assertLine (20 + l.die)
  (s.dropLaunch l.id).flushEvents

/-- A launch is rejected, and waits look at its stamp (R399); one whose prologue has used channels within its release scope
first probes them (R406). -/
def State.refuse (s : State) (l : Launch) (code : Nat) : State :=
  if l.probes.isEmpty then (s.reject l code).pollWaits else s.setLaunch { l with state := .probing l.probes, error := code }

/-! Remote accesses (R126, R248, R272). -/

/-- The payload that travels, with its poison (R233). -/
def Request.payload (r : Request) : List PByte :=
  match r.op with
  | .store data => data
  | .atom _ _ a b _ => (bytesOfNat r.size a ++ bytesOfNat r.size b).map fun x => (x, false)
  | _ => []
/-- The capability that travels: a tagged one crosses resealed, with its tag (R57, R248, Table 2.9). -/
def State.carried (s : State) (r : Request) : Option (Cap × Bool) :=
  match r.op with
  | .storeCap c poison => some (if c.valid then s.reseal c else { c with tag := false }, poison)
  | _ => none
/-- What access it is: 0 load, 1 store, 2 capability load, 3 capability store, 4 ATOM, 6 RED. -/
def Request.remoteKind (r : Request) : Nat :=
  match r.op with
  | .store _ => 1
  | .loadCap _ => 2
  | .storeCap .. => 3
  | .atom _ _ _ _ red => if red then 6 else 4
  | _ => 0
/-- Number of an atomic operation. -/
def AtomOp.number : AtomOp → Nat
  | .add => 0
  | .addF32 => 1
  | .min => 2
  | .max => 3
  | .and => 4
  | .or => 5
  | .xor => 6
  | .xchg => 7
  | .cas => 8
  | .incw => 9
  | .bfadd => 10
def Request.atomicNumber (r : Request) : Nat :=
  match r.op with
  | .atom op unsig _ _ _ => op.number + (if unsig then 256 else 0)
  | _ => 0

/-- The quads beside which a die's nine Prabex ports stand (Table 6.7). -/
def portQuads : List Nat := [0, 3, 7, 24, 31, 40, 47, 59, 63]
/-- The package port 9d + i by which a core's accesses to package `pkg` leave, with i = (q + pkg) mod 9 of its own die d and
quad q (R170); the switch of that number takes them to the same port of the origin (R456). -/
def fabricPort (core pkg : Nat) : Nat := 9 * (dieOfCore core % 4) + (core % 256 / 4 + pkg) % 9

/-- A request through a remote authority is sent to the origin package; POISON when the pair is down (R457). -/
def State.sendRemote (s : State) (r : Request) (c : Cap) : State :=
  let p := s.pair c.source
  if p.down then s.fail r (poisonFault r)
  else
    let port := fabricPort r.core c.source
    let s := s.fabric c.source 0 port (match r.op with
      | .send m => .remoteMessage port c.source r.id c { m with cap0 := m.cap0.map s.reseal, cap1 := m.cap1.map s.reseal }
      | _ => .remoteAccess port c.source r.id c (BitVec.ofNat 64 r.x) r.remoteKind r.size r.order.toNat r.atomicNumber r.payload
          (s.carried r))
    s.setReq { r with phase := .travelling }

/-- The origin's answer reaches a travelling request: `code` is its fault with the detail `arg`; `bytes` what it read, `ok`
whether an atomic stored; `cap` the capability of an LDK, and in a reply `cap` and `cap2` those that bits 0 and 1 of `arg2`
say are there. With `code` 0 and `arg` 1 a message that was asked back had not been accepted: it stands as before it left. -/
def State.remoteAnswer (s : State) (r : Request) : State :=
  let o := s.ev
  let bs : List PByte := (List.range r.size).map fun i => (o.bytes.getD i 0, false)
  if o.code ≠ 0 then s.fail r (.of (o.code.extractLsb' 0 8) r.auth o.arg (BitVec.ofNat 64 r.x))
  else if o.arg = 1 ∧ r.sendAway then s.setReq { r with phase := .sent }
  else
    match r.op with
    | .load sx => s.finish r (r.dataWrites sx bs) (some ⟨0, (readWords bs).map Prod.fst, none, none, false, r.who⟩)
    | .loadCap loadk =>
      let c := s.sift { o.cap with tag := o.cap.tag && loadk }
      s.finish r (match r.who with | .thread _ tid => [.k tid (r.data % 16) c false] | _ => [])
        (some ⟨0, [], some c, none, false, r.who⟩)
    | .atom op _ _ _ red =>
      s.finish r (r.atomWrites op red (natOfBytes (bs.map Prod.fst)) o.ok)
        (some ⟨0, (readWords bs).map Prod.fst, none, none, false, r.who⟩)
    | .send m =>
      if m.call then
        let vals := (readWords (o.bytes.map fun b => (b, false))).map Prod.fst
        let given (i : Nat) (c : Cap) : Option Cap := if o.arg2.testBit i then some (s.sift c) else none
        let m : Msg := ⟨0, vals.take 8, given 0 o.cap, given 1 o.cap2, false, .remote 0 0⟩
        let ws := match r.who with
          | .thread _ tid => deliverWrites tid r.data r.size (r.kreg % 16) (r.kreg / 16) m ++ r.report true
          | _ => []
        s.finish { r with order := 2 } ws (some m)
      else s.finish r (r.report true) none
    | _ => s.finish r [] none

/-! Performing. -/

/-- The object of a message no longer holds a live header (R387). -/
def State.objGone (s : State) (r : Request) (type : Nat) : Bool := !s.objLive r.obj type
def goneFault (r : Request) : FaultInfo := .of cTAG r.auth 0 (BitVec.ofNat 64 r.obj)

/-- A lane of TWAIT at the tile table, which its instruction looks at once, for all its lanes (R296). -/
def State.twaitArrive (s : State) (r : Request) (n : Nat) (empty : Bool) : State :=
  match r.who with
  | .thread wg _ =>
    match s.wg? wg with
    | none => s
    | some w =>
      let st := tState (w.tile n)
      if st = tFAULTED then s.fail r (cTile 1 n)
      else if st = (if empty then tEMPTY else tREADY) then s.finish r (if r.pred == 7 then [] else r.report true) none
      else s.mustWait r 9 w.core (w.bank * 256 + n) .engine
  | _ => s

/-- SEND or CALLE at its endpoint (R274): a call that was buffered waits (kind 5) until a receiver takes it. -/
def State.sendPerform (s : State) (r : Request) (m : Msg) : State :=
  match s.offerReq r m with
  | (s, .refused) => (s.epSignal r.obj).mustWait r 5 r.obj 0 .unknown
  | (s, .buffered) => if m.call then s.mustWait r.awaiting 5 r.obj 0 .unknown else s
  | (s, .delivered) => s

/-- A held thread's fault message at its endpoint; where the object is gone the thread is terminated, with event 4 (R416). -/
def State.faultSend (s : State) (r : Request) (m : Msg) : State :=
  match r.who with
  | .thread wg tid =>
    match s.heldFor wg tid with
    | none => s.dropReq r.id
    | some h =>
      if s.objGone r 2 then ((s.dropReq r.id).event4 wg tid h.code h.pc).runActs [.stop wg tid]
      else s.callPerform r m
  | _ => s.callPerform r m

/-- A strong access in the sense of R105: of its own order, or on a page of PBMT IO (R93). -/
def Request.isStrong (r : Request) : Bool := r.order != 0 || r.io
/-- It is performed in two halves, and the lower is next (R105). -/
def Request.lowerHalf (r : Request) : Bool := r.isStrong && r.size == 16 && r.phase == .sent
/-- What the lower half has read. -/
def Request.lowerRead (r : Request) : List PByte := match r.phase with | .half bs => bs | _ => []
/-- Bytes that have been performed. -/
def Request.performed (r : Request) : Nat := match r.phase with | .half _ => 8 | _ => 0

/-- What another package's load answers. -/
def Request.answer (r : Request) (bs : List PByte) : Option Msg :=
  match r.who with
  | .remote _ _ => some ⟨0, (readWords bs).map Prod.fst, none, none, false, r.who⟩
  | _ => none

/-- A load at its point. A strong one faults at poison (R257); another hands it on (R127). A weak one leaves its lines in the
core's L1 (R98). -/
def State.loadAt (s : State) (r : Request) (strong sx : Bool) : State :=
  let d := dieOfCore r.core
  match s.pointRead d strong (if r.lowerHalf then r.pas.take 8 else r.pas.drop r.performed) with
  | (s, bs) =>
    let bs := r.lowerRead ++ bs
    if r.isStrong && bs.any Prod.snd then s.fail r (poisonFault r)
    else if r.lowerHalf then s.setReq { r with phase := .half bs }
    else (if strong then s else s.fillL1 r.core r.pas).finish r (r.dataWrites sx bs) (r.answer bs)

/-- A store at its point. -/
def State.storeAt (s : State) (r : Request) (strong : Bool) (data : List PByte) : State :=
  let ws := (r.pas.zip data).drop r.performed
  let s := s.pointWrite (dieOfCore r.core) strong (if r.lowerHalf then ws.take 8 else ws)
  if r.lowerHalf then s.setReq { r with phase := .half [] } else s.finish r [] none

/-- LDK at its point (R237); a strong one faults at poison (R257). -/
def State.loadCapAt (s : State) (r : Request) (strong loadk : Bool) : State :=
  match s.pointReadCap (dieOfCore r.core) strong r.obj with
  | (s, c, poison) =>
    let c := s.sift { c with tag := c.tag && loadk && r.cw }
    if r.isStrong && poison then s.fail r (poisonFault r)
    else (if strong then s else s.fillL1 r.core r.pas).finish r
      (match r.who with | .thread _ tid => [.k tid (r.data % 16) c poison] | _ => []) none

/-- Performs a request at its point. -/
def State.perform (s : State) (r : Request) : State :=
  let d := dieOfCore r.core
  let strong := r.order != 0 || r.strong
  match r.op with
  | .load sx => s.loadAt r strong sx
  | .store data => s.storeAt r strong data
  | .loadCap loadk => s.loadCapAt r strong loadk
  | .storeCap c poison => (s.pointWriteCap d strong r.obj (s.sift c) poison).finish r [] none
  | .ldfe _ => s.feArrive r
  | .stfe _ _ => s.feArrive r
  | .atom op unsig a b red =>
    match s.rmw d r.pas op unsig a b with
    | (s, some (old, stored)) => s.finish r (r.atomWrites op red old stored) none
    | (s, none) => s.fail r (poisonFault r)
  | .lock => s.lockArrive r
  | .unlock => s.unlockArrive r
  | .monitor eq x => s.monitorArrive r eq x
  | .fence _ _ => s.finish r [] none
  | .flush all inval =>
    let line := r.obj / 128
    let s :=
      if all then (if inval then s.invalidateDie d else s.writeBackDie d)
      else if !remoteHome d r.obj then s
      else if inval then s.invalidateLine d line else s.writeBackLine d line
    s.finish r [] none
  | .send m =>
    if r.faultCall then s.faultSend r m
    else if s.objGone r 2 then s.fail r (goneFault r)
    else s.sendPerform r m
  | .recv _ _ _ =>
    if s.objGone r 2 then s.fail r (goneFault r)
    else match s.tryRecv r with
      | (s, true) => s
      | (s, false) => s.mustWait r 4 r.obj 0 .unknown
  | .reply caller m =>
    let call := match s.callOf caller with | some q => q.id + 1 | none => 0
    ((s.replyTo caller m).1).finish { r with x := call } [] none
  | .nsig bits => if s.objGone r 3 then s.fail r (goneFault r) else (s.nsig r.obj bits).finish r [] none
  | .nwait mask =>
    if s.objGone r 3 then s.fail r (goneFault r)
    else
      let word := BitVec.ofNat 32 (s.peek (r.obj + 16) 4)
      let m := nwaitMask mask
      if word &&& m = 0 then s.mustWait r 7 r.obj 0 .unknown
      else (s.poke (r.obj + 16) 4 (word &&& ~~~m).toNat).giveBits r (word &&& m)
  | .barrier key phase count wait => s.atBarrier r key phase count wait
  | .twait tile empty => ((s.fellows r).filter fun q => q.phase == .sent).foldl (fun s q => s.twaitArrive q tile empty) s
  | .sched act =>
    if s.th.quiescent || !((s.fellows r).all fun q => q.phase == .sent) then s
    else if s.objGone r 8 then s.failAll r (goneFault r)
    else s.performSched r act
  | .spawn entry operands lo hi => if s.th.quiescent then s else s.performSpawn r entry operands lo hi
  | .launch =>
    if s.objGone r 7 then s.fail r (goneFault r)
    else if s.th.quiescent || !s.launchReady r then s
    else s.performLaunch r
  | .budget give role m => if s.budgetReady r give role m then s.performBudget r give role m else s
  | .awaitReply _ _ _ => s
  | .gangWait _ _ => s
  | .follow => s
  | .mailbox _ => s
  | .result => s

/-- A request that carries out no wait of its own at its point. -/
def Request.passive (r : Request) : Bool :=
  match r.op with
  | .awaitReply .. => true
  | .gangWait .. => true
  | .follow => true
  | .mailbox _ => true
  | .result => true
  | _ => false

/-- A request held back at the Hall: it is not performed yet, and its release steps wait with it. At a quiescent point these
are the schedule, SPAWN, LAUNCH and object operations (R450). -/
def State.heldBack (s : State) (r : Request) : Bool :=
  match r.op with
  | .sched _ => s.th.quiescent || !((s.fellows r).all fun q => q.phase == .sent)
  | .spawn .. => s.th.quiescent
  | .launch => !s.objGone r 7 && (s.th.quiescent || !s.launchReady r)
  | .budget give role m => !s.budgetReady r give role m
  | .send _ => s.th.quiescent
  | .recv .. => s.th.quiescent
  | .reply .. => s.th.quiescent
  | .nsig _ => s.th.quiescent
  | .nwait _ => s.th.quiescent
  | _ => false

/-- ACCESS_AT_EXECUTION_POINT of request `who` (R121): it is performed, sent to its origin package, or answered by it. -/
def execAccessAtExecutionPoint (s : State) : Host.Outcome State Fault Refusal :=
  .next (match s.req? s.ev.who with
    | none => s
    | some r =>
      if r.phase == .travelling then (s.remoteAnswer r).pollWaits.flushEvents
      else if r.passive || !s.mayPerform r || s.heldBack r then s
      else
        let s := s.releaseFor r
        match r.remote with
        | some c => (s.sendRemote r c).pollWaits.flushEvents
        | none => (s.perform r).pollWaits.flushEvents)

/-! The die caches (R99). -/

/-- LINE_EVICTION of line `arg` from the cache of die `who`. What it writes back, waits compare with at once (R269). -/
def execLineEviction (s : State) : Host.Outcome State Fault Refusal :=
  .next (s.invalidateLine s.ev.who s.ev.arg).pollWaits.flushEvents
/-- WRITE_BACK of line `arg` of die `who`. -/
def execWriteBack (s : State) : Host.Outcome State Fault Refusal :=
  .next (s.writeBackLine s.ev.who s.ev.arg).pollWaits.flushEvents

/-- BARRIER_PHASE_COMPLETE of the barrier at place `who`. A pod barrier first tells the cooperating packages that this one's
members have arrived; with `ok` the fabric says that theirs have (R266; log 54). What its acquires write back, waits compare with. -/
def execBarrierPhaseComplete (s : State) : Host.Outcome State Fault Refusal :=
  .next (match s.barriers[s.ev.who]? with
    | some b =>
      if !s.barComplete b then s
      else if b.key.level = 4 ∧ !b.told then s.podOthers.foldl (fun s p => s.sendFlit p 2 0) ((s.setBar { b with told := true }).outbox (.podArrive b.key.num b.phase))
      else if b.key.level = 4 ∧ !s.ev.ok then s
      else (s.nextPhase b).pollWaits.flushEvents
    | none => s)

/-- MAILBOX_DELIVERY of the claim whose request is `who` (R323): served at its port as an STFE (R242). No lane can take a POISON
fault for it: while the third word is poisoned the delivery stays queued (DESIGN CHOICE, log 87). -/
def execMailboxDelivery (s : State) : Host.Outcome State Fault Refusal :=
  .next (match s.req? s.ev.who with
    | none => s
    | some r =>
      match r.op, s.feQueue r.obj with
      | .mailbox _, h :: _ =>
        if h.id == r.id && s.feHolds r && !s.poisonAt r.obj then ((s.feAct r).feChanged r.obj).pollWaits.flushEvents else s
      | _, _ => s)

end Sys2Proof.Machine
end

