-- ==== Sys2Proof/Machine/Engines.lean ====
section
/-! DEFINITION. Engine operations from their rendezvous to their end (spec/12_matrix_tiles_copies.md R282-R306; spec/01
R38-R40, R44): the device steps RENDEZVOUS_COMPLETE to ENGINE_FAULT_REPLY. An operation's memory work is done in its
completion step, a drain's row by row (log 10). -/

namespace Sys2Proof.Machine

/-- RENDEZVOUS_COMPLETE of latch `arg` of workgroup `who` (R38, R39). -/
def execRendezvousComplete (s : State) : Host.Outcome State Fault Refusal := .next (s.rendezvous s.ev.who s.ev.arg)

/-! Tensor records (R284, R392). -/

/-- Bytes 16 to 255 of a record that Table 19.5 reserves. -/
def reservedInRecord (i : Nat) : Bool := i == 83 || (108 ≤ i && i < 112) || (136 ≤ i && i < 256)

/-- A copy engine translates through its quad's TLB, a drain engine and a codebook load through the die's (Table 20.3). -/
def State.opSeat (o : EngineOp) : Seat :=
  ⟨o.core, dieOfCore o.core, o.asid, some o.launch, if o.unit = 3 then copyTlbs o.core else dieTlbs (dieOfCore o.core)⟩

/-- Where the record of an operation's TENSOR is read: its header is live (R387, R432), and its bytes are translated by the
Hall in the address space of the queue, as a read of user mode (Tables 20.1, 20.2; log 49). -/
def State.tensorAt (s : State) (o : EngineOp) (pa : Nat) : State × Except (BitVec 8 × Nat) Placed :=
  if !s.objLive pa 9 then (s, .error (cTAG, 0))
  else
    translateAll { State.opSeat o with tlbs := dieTlbs (dieOfCore o.core) } { perms := [pLOAD], n := 256 } pa (pagesOf pa 256) s
      ⟨[], false, false, true, []⟩

/-- A record as the engine of die d reads it, through the die's cache (R101), and whether a granule of it is poisoned. A page
whose CW bit is clear gives no tag (R411), and a capability that a sweep is removing loses its own (R433). -/
def State.readRecord (s : State) (d : Nat) (p : Placed) : State × TensorRec × Bool :=
  let (s, bs) := s.engineRead d p
  let n (off len : Nat) : Nat := natOfBytes (((bs.drop off).take len).map Prod.fst)
  let cap (off : Nat) : Cap :=
    let c := (s.readCapAs d p.io p.nc (p.pas.getD off 0)).2.1
    s.sift { c with tag := c.tag && p.cw }
  (s,
    { data := cap 16
      peer := cap 32
      stamp := cap 48
      cbook := cap 64
      fmt := n 80 1
      rank := n 81 1
      sscope := n 82 1
      fill := BitVec.ofNat 32 (n 84 4)
      clamp := BitVec.ofNat 32 (n 88 4)
      dims := (List.range 4).map fun k => n (92 + 4 * k) 4
      strides := (List.range 3).map fun k => (BitVec.ofNat 64 (n (112 + 8 * k) 8)).toInt
      zeros := (List.range 256).all fun i => !reservedInRecord i || n i 1 == 0 },
    (bs.drop 16).any Prod.snd)

/-- No record: for the operations that read none. -/
def TensorRec.none : TensorRec := ⟨.null, .null, .null, .null, 0, 0, 0, 0, 0, [], [], true⟩

/-- Whether an operation reads a tensor record. -/
def EngineOp.needsRecord (o : EngineOp) : Bool :=
  match o.code with
  | 0x1C5 => true
  | 0x1C6 => true
  | 0x1C7 => o.bit12
  | 0x1C8 => true
  | 0x1CC => o.bit12
  | _ => false

/-- Extent of dimension k; 1 at and above rank. -/
def TensorRec.dim (t : TensorRec) (k : Nat) : Nat := if k < t.rank then t.dims.getD k 1 else 1

/-! Acceptance (R287 stages 4 and 5). -/

def sliceWord (sl : List Word) (i : Nat) : Nat := (sl.getD i 0).toNat
def sliceRow0 (sl : List Word) : Nat := sliceWord sl 3 % 65536
def sliceRows (sl : List Word) : Nat := sliceWord sl 3 / 65536

/-- The slices cover rows 0 to n - 1 exactly once, none of them empty. -/
def slicesCover (sls : List (List Word)) (n : Nat) : Bool :=
  sls.all (fun sl => 0 < sliceRows sl) &&
    (List.range n).all (fun r => (sls.filter fun sl => sliceRow0 sl ≤ r && r < sliceRow0 sl + sliceRows sl).length == 1) &&
    sls.all (fun sl => sliceRow0 sl + sliceRows sl ≤ n)

/-- Rows that a multicast's slices describe. -/
def sliceTotal (sls : List (List Word)) : Nat := (sls.map sliceRows).foldl (· + ·) 0

def isShape (e : DWord) (rows cols fmt : Nat) : Bool := tRows e == rows && tCols e == cols && tFmt e == fmt
/-- Whether a copy may convert between two formats: CB2 pairs only with CB2 (R286). -/
def pairs (f g : Nat) : Bool := (f == 9) == (g == 9)

def shapeFault (ok : Bool) (n : Nat) : Option FaultInfo := if ok then none else some (cTile 2 n)
def recordFault (ok : Bool) : Option FaultInfo := if ok then none else some (cTile 8 0)
def swizzleFault (w : Workgroup) (n expected : Nat) : Option FaultInfo :=
  let e := w.tile n
  if tSwz e = expected then none else some (.of cSWIZZLE n (expected * 16 + tSwz e))

/-- Receivers of a multicast (R300): workgroups of the launch on the named cores of the issuing die. -/
def State.receivers (s : State) (o : EngineOp) : List Nat :=
  let d4 := sliceWord (o.slices.headD []) 4
  let first := d4 % 256
  let count := d4 / 256 % 256
  let named (k : Nat) : Bool :=
    dieOfCore k == dieOfCore o.core && first ≤ k % 256 / 4 && k % 256 / 4 < first + count && (d4 / 65536).testBit (k % 4)
  (s.wgs.filter fun w => w.launch == o.launch && !w.prologue && named w.core).map Workgroup.id

/-- A format's matrix depth (R301). -/
def mmaDepth (fmt : Nat) : Nat := if fmt ≤ 2 then 16 else 32

/-- Stage 4 of R287: the first failing check, in the order states, shapes, swizzles, record, descriptor (log 11). -/
def acceptFault (s : State) (w : Workgroup) (o : EngineOp) (t : TensorRec) : Option FaultInfo :=
  let b := o.body
  let fmt := b.fmt.toNat
  let a := b.ta.toNat
  let n := b.tb.toNat
  let empties := o.accs.findSome? fun (k, u) =>
    if (w.accTile k).state = aEMPTY && u != .init then some (cTile 5 k) else none
  let same := if (o.code = 0x1C9 || (o.code = 0x1C7 && o.bit12)) && o.srcAcc == o.accIndex then some (cTile 5 o.srcAcc) else none
  let rank := 1 ≤ t.rank && t.rank ≤ 4 && t.sscope ≤ 4 && t.zeros
  let desc (ok : Bool) : Option FaultInfo := if ok then none else some (cTile 6 (fld b.acc 7 0))
  let d4 := sliceWord (o.slices.headD []) 4
  let rest :=
    match o.code with
    | 0x1C5 =>
      if o.copyKind = 2 then
        (recordFault (t.fmt ≤ 9 && rank && t.data.valid && t.peer.valid)).or (desc (o.slices.all fun sl => sliceWord sl 3 == 0))
      else
        (recordFault (t.fmt ≤ 9 && rank && t.data.valid)).or
          ((shapeFault (pairs t.fmt (tFmt (w.tile a))) a).or (desc (slicesCover o.slices (tRows (w.tile a)))))
    | 0x1C6 =>
      (recordFault (t.fmt ≤ 9 && rank && t.data.valid)).or
        (desc (slicesCover o.slices (sliceTotal o.slices) && d4 % 256 + d4 / 256 % 256 ≤ 64 && d4 / 2 ^ 20 == 0
          && (match s.launch? o.launch with | some l => l.mask 0 (fld b.flags 3 0) != 0 | none => false)))
    | 0x1C7 =>
      let k := mmaDepth fmt
      if o.bit12 then
        (shapeFault (isShape (w.tile n) 64 64 fmt) n).or
          ((swizzleFault w n (fld b.flags 7 4)).or (recordFault (t.fmt == fmt && rank)))
      else
        (shapeFault (isShape (w.tile a) 64 k fmt) a).or ((shapeFault (isShape (w.tile n) k 64 fmt) n).or
          ((swizzleFault w a (fld b.flags 3 0)).or (swizzleFault w n (fld b.flags 7 4))))
    | 0x1C8 =>
      (shapeFault (isShape (w.tile a) 64 4 9) a).or ((shapeFault (isShape (w.tile n) 32 64 fmt) n).or
        ((swizzleFault w a (fld b.flags 3 0)).or ((swizzleFault w n (fld b.flags 7 4)).or
          (recordFault (t.fmt == 9 && rank && t.cbook != .null)))))
    | 0x1C9 => (shapeFault (isShape (w.tile a) 64 1 2) a).or (shapeFault (isShape (w.tile n) 1 64 2) n)
    | 0x1CB => shapeFault (isShape (w.tile a) 64 64 fmt) a
    | 0x1CC =>
      let bias := if o.biased then
          shapeFault (tFmt (w.tile n) != 9 && tCols (w.tile n) == 64 && (tRows (w.tile n) == 1 || tRows (w.tile n) == 64)) n
        else none
      (if o.bit12 then recordFault (t.fmt == fmt && rank && t.data.valid) else shapeFault (isShape (w.tile a) 64 64 fmt) a).or bias
    | _ => none
  empties.or (same.or rest)

/-- States after acceptance (Tables 12.4, 12.10). -/
def acceptStates (o : EngineOp) (w : Workgroup) : Workgroup :=
  let w := o.tiles.foldl (fun w (n, wr) =>
    let e := w.tile n
    w.setTile n (if wr then setState e tFILLING else setReaders e (tReaders e + 1))) w
  o.accs.foldl (fun w (n, u) =>
    let a := w.accTile n
    match u with
    | .init => w.setAcc n { a with state := aREADY }
    | .drain => w.setAcc n { a with state := aDRAINING }
    | _ => w) w

/-- Room in a unit's queue: 16, or 32 for the quad's copy engine (R287). -/
def State.queueRoom (s : State) (o : EngineOp) : Bool :=
  let mine (x : EngineOp) : Bool := x.unit == o.unit && x.phase == .queued &&
    (if o.unit = 3 then x.core / 4 == o.core / 4 else x.core == o.core)
  (s.ops.filter mine).length < (if o.unit = 3 then 32 else 16)

/-- Takes an operation into its unit's queue: it goes to the end of the acceptance order, and its latch is empty. -/
def State.accept (s : State) (o : EngineOp) : State :=
  let rows := if o.code = 0x1CC && o.bit12 then List.range 64 else []
  let left := if o.code = 0x1C6 then s.receivers o else rows
  let s := { s with ops := (s.ops.filter fun (x : EngineOp) => x.id != o.id) ++ [{ o with phase := .queued, todo := left }] }
  let s := if o.code = 0x1C6 then
      let key : BarKey := ⟨o.launch, 0, o.core, fld o.body.flags 3 0⟩
      s.setBar { s.bar key with acks := (s.bar key).acks + left.length }
    else s
  let s := (s.modWg o.wg fun w => acceptStates o (w.emptyLatch o.id)).pollTwait o.wg
  (s.opRequests o).foldl (fun s r => s.finish r [] none) s

/-- The tensor capability of an operation: its lead is parked from issue to acceptance, so its register has not changed. -/
def leadTensor (w : Workgroup) (o : EngineOp) : Cap := (w.kreg o.lead o.body.tk.toNat).cap

/-- An access that a thread of the rendezvous made before it arrived has still to be performed: the operation observes it, so
its acceptance waits (R38, R123; log 69). -/
def State.accessBefore (s : State) (o : EngineOp) : Bool :=
  (s.opRequests o).any fun r => s.reqs.any fun q => q.who == r.who && q.id < r.id && q.unperformed && !q.atHall

/-- The workgroup's scratchpad or accumulators are spilled (R422): nothing touches its tiles until they are filled back. -/
def Workgroup.spilled (w : Workgroup) : Bool := w.spillScr.isSome || w.spillAcc

/-- ENGINE_ACCEPT of operation `who` (R287 stages 3 to 5). A record whose TENSOR is gone, or that may not be read, faults the
parked threads (R432, R410), and a poisoned one POISON (log 67). -/
def execEngineAccept (s : State) : Host.Outcome State Fault Refusal :=
  .next (match s.op? s.ev.who with
    | none => s
    | some o =>
      match s.wg? o.wg, o.phase == .waiting with
      | some w, true =>
        let fault (f : FaultInfo) : State :=
          ((s.dropOp o.id).modWg o.wg fun w => w.emptyLatch o.id).faultRequests (.gang o.id) ((s.opRequests o).map fun r => (r, f))
        if w.spilled || s.accessBefore o then s
        else
          match o.readiness w with
          | .wait _ _ => s
          | .broken f => fault f
          | .ready =>
            let pa := (leadTensor w o).objPa
            if o.needsRecord then
              match s.tensorAt o pa with
              | (_, .error (code, d)) => fault (.of code o.body.tk.toNat d (BitVec.ofNat 64 pa))
              | (s', .ok p) =>
                match s'.readRecord (dieOfCore o.core) p with
                | (_, _, true) => fault (.of cPOISON o.body.tk.toNat 0 (BitVec.ofNat 64 pa))
                | (s', t, false) =>
                  match acceptFault s w o t with
                  | some f => fault f
                  | none => if s.queueRoom o then s'.accept { o with record := some t } else s
            else
              match acceptFault s w o .none with
              | some f => fault f
              | none => if s.queueRoom o then s.accept o else s
      | _, _ => s)

/-! Engine accesses. -/

/-- A checked engine access (R290): its bytes' addresses, or the failure. Its channels enter the launch's used set (R117). On a
page of PBMT IO an element is accessed strongly, and so naturally aligned (R93, R105; log 86). -/
def State.engineAccess (s : State) (o : EngineOp) (c : Cap) (x : Int) (sp : AccessSpec) :
    State × Except (BitVec 8 × DWord) Placed :=
  match checkAccess s (State.opSeat o) c 0 x sp with
  | (s, .ok p) =>
    if p.io && decide (sp.n ≤ 16) && x % sp.n != 0 then (s, .error (cALIGN, addrWord x))
    else (s.launchUses o.launch o.core ((p.pas.map (accessChan (dieOfCore o.core) (if sp.need.w then 1 else 0) p.nc)).eraseDups), .ok p)
  | (s, .fault f) => (s, .error (f.code, f.addr))
  | (s, .remote) => (s, .error (cSEALED, addrWord x))

/-- Address of a tensor element (R285), and whether it is inside. -/
def TensorRec.addr (t : TensorRec) (c : Cap) (is : List Nat) : Int :=
  (c.cursor.toNat : Int) + (is.getD 0 0 : Nat) * elemSize t.fmt + ((is.getD 1 0 : Nat) : Int) * t.strides.getD 0 0
    + ((is.getD 2 0 : Nat) : Int) * t.strides.getD 1 0 + ((is.getD 3 0 : Nat) : Int) * t.strides.getD 2 0
def TensorRec.inside (t : TensorRec) (is : List Nat) : Bool := (List.range 4).all fun k => is.getD k 0 < t.dim k

/-- The tensor element of a tile element (R285), when a slice covers its row. -/
def elementOf (sls : List (List Word)) (r c : Nat) : Option (List Nat) :=
  (sls.find? fun sl => sliceRow0 sl ≤ r && r < sliceRow0 sl + sliceRows sl).map fun sl =>
    [sliceWord sl 0 + c, sliceWord sl 1 + r - sliceRow0 sl, sliceWord sl 2 % 65536, sliceWord sl 2 / 65536]

/-- Physical address of a tile's element. -/
def tilePa (w : Workgroup) (e : DWord) (r c : Nat) : Nat := scratchBase + w.core * 0x80000 + w.scrBase + tileOffset e r c
def State.tileBits (s : State) (w : Workgroup) (e : DWord) (r c : Nat) : Nat := s.peek (tilePa w e r c) (elemSize (tFmt e))
def State.tilePoison (s : State) (w : Workgroup) (e : DWord) (r c : Nat) : Bool :=
  s.peekPoison (tilePa w e r c) (elemSize (tFmt e))
def State.tileValue (s : State) (w : Workgroup) (e : DWord) (r c : Nat) : FVal := elemValue (tFmt e) (s.tileBits w e r c)
def tileCells (e : DWord) : List (Nat × Nat) :=
  ((List.range (tRows e)).map fun r => (List.range (tCols e)).map fun c => (r, c)).flatten
/-- Some element of a tile is poisoned (R129). -/
def State.anyPoison (s : State) (w : Workgroup) (e : DWord) : Bool := (tileCells e).any fun (r, c) => s.tilePoison w e r c

/-- Bytes of a tile element with their poison. -/
def elemBytes (w : Workgroup) (e : DWord) (r c bits : Nat) (po : Bool) : List (Nat × PByte) :=
  (bytesOfNat (elemSize (tFmt e)) bits).zipIdx.map fun (x, i) => (tilePa w e r c + i, x, po)

/-- A reader is done with its tiles (Table 12.4). -/
def releaseReader (e : DWord) : DWord :=
  let n := tReaders e - 1
  let e := setReaders e n
  if tState e = tDRAINING ∧ n = 0 then setState e tEMPTY else e
def State.releaseReaders (s : State) (o : EngineOp) : State :=
  (s.modWg o.wg fun w => (o.tiles.filter fun x => !x.2).foldl (fun w x => w.setTile x.1 (releaseReader (w.tile x.1))) w).pollTwait o.wg

/-- An operation ends; its workgroup may retire (R44). -/
def State.endOp (s : State) (o : EngineOp) : State := (s.dropOp o.id).retireCheck o.wg

/-! Stamps (R299, R305). -/

def EngineOp.stampScope (o : EngineOp) (t : TensorRec) : Nat :=
  match o.code with
  | 0x1C5 => if o.copyKind = 2 then fld o.body.flags 2 0 else t.sscope
  | _ => fld o.body.flags 4 2

/-- The stamp increment, as a release RMW after the operation's writes; then the operation ends. As an RMW it faults XPERM at
a device register or a window (Table 4.4; log 86). -/
def State.stampThenEnd (s : State) (o : EngineOp) : State :=
  match o.record with
  | none => s.endOp o
  | some t =>
    if t.stamp = .null then s.endOp o
    else
      let die := dieOfCore o.core
      let fail (s : State) (code : BitVec 8) (x : DWord) : State := s.setOp { o with phase := .stampFault code x false }
      match s.engineAccess o t.stamp t.stamp.cursor.toNat
          { perms := [pSTORE], n := 8, align := 8, need := { w := true }, noDevice := true } with
      | (s, .error (code, x)) => fail s code x
      | (s, .ok p) =>
        let pa := p.pas.headD 0
        let s := if 3 ≤ o.stampScope t then s.writeBackDie die else s
        let s := s.beforeStrong die p.pas
        if s.peekPoison pa 8 then fail s cPOISON t.stamp.cursor
        else (s.poke pa 8 (s.peek pa 8 + 1)).endOp o

/-! Starting (R288, R289). -/

/-- Earlier operations in acceptance order. -/
def State.earlierOps (s : State) (o : EngineOp) : List EngineOp :=
  (s.ops.takeWhile fun x => x.id != o.id).filter fun x => x.phase != .waiting
/-- Only its stamp is left: its tiles and accumulators are released (R290). -/
def EngineOp.stamping (o : EngineOp) : Bool := match o.phase with | .stampFault _ _ _ => true | _ => false
/-- Two operations of a workgroup that name one accumulator tile, of which the other has not completed. -/
def EngineOp.shares (o x : EngineOp) : Bool :=
  x.wg == o.wg && !x.stamping && o.accs.any fun a => x.accs.any fun y => a.1 == y.1
/-- An MMA or MMAK behind a running MMA on the same destination: the engine applies the accumulations in order (R289). -/
def EngineOp.follows (o x : EngineOp) : Bool :=
  o.unit == 0 && x.code == 0x1C7 && x.phase == .running && o.accIndex == x.accIndex
    && o.accs.all fun a => x.accs.all fun y => a.1 != y.1 || a.1 == o.accIndex
/-- An earlier operation that the start must wait for (R288, R289). -/
def EngineOp.after (o x : EngineOp) : Bool :=
  let sameUnit := x.unit == o.unit && (if o.unit = 3 then x.core / 4 == o.core / 4 else x.core == o.core)
  (sameUnit && x.phase == .queued) || (o.shares x && !o.follows x)

/-- The 256 words of an MMAK's codebook, from the core's RAM or loaded into it (R293). -/
def State.loadCodebook (s : State) (o : EngineOp) (c : Cap) : State × Except (BitVec 8 × DWord) (List Word) :=
  match s.engineAccess o c c.cursor.toNat { perms := [pLOAD], n := 1024 } with
  | (s, .error e) => (s, .error e)
  | (s, .ok p) =>
    let pa := p.pas.headD 0
    let mine (k : Codebook) : Bool := k.core == o.core && k.asid == o.asid && k.pa == pa
    match s.codebooks.find? mine with
    | some k => ({ s with codebooks := k :: s.codebooks.filter fun x => !mine x }, .ok k.words)
    | none =>
      let (s, bs) := s.engineRead (dieOfCore o.core) p
      if bs.any Prod.snd then (s, .error (cPOISON, c.cursor))
      else
        let ws := (List.range 256).map fun i => BitVec.ofNat 32 (natOfBytes (((bs.map Prod.fst).drop (4 * i)).take 4))
        let kept := ((s.codebooks.filter fun k => k.core == o.core).take 3)
        let others := s.codebooks.filter fun k => k.core != o.core
        ({ s with codebooks := ⟨o.core, o.asid, pa, ws⟩ :: kept ++ others }, .ok ws)

/-- ENGINE_OPERATION_START of operation `who` (R288, R289, R293). A multicast without receivers is complete. -/
def execEngineOperationStart (s : State) : Host.Outcome State Fault Refusal :=
  .next (match s.op? s.ev.who with
    | none => s
    | some o =>
      if o.phase != .queued || (s.earlierOps o).any o.after then s
      else if o.code = 0x1C8 then
        match o.record with
        | none => s
        | some t =>
          match s.loadCodebook o t.cbook with
          | (s, .ok ws) => s.setOp { o with phase := .running, table := ws }
          | (s, .error e) => s.setOp { o with phase := .running, fault := some e }
      else if o.code = 0x1C6 && o.todo.isEmpty then s.endOp o
      else s.setOp { o with phase := .running })

/-! Completion. -/

/-- The running operation of an opcode that a completion step names, earlier work on its accumulators done. -/
def State.completing (s : State) (code : Nat) : Option (EngineOp × Workgroup) :=
  match s.op? s.ev.who with
  | none => none
  | some o =>
    let blocked := (s.earlierOps o).any o.shares
    if o.code = code && o.phase == .running && o.fault.isNone && !blocked then (s.wg? o.wg).map fun w => (o, w) else none

/-- An accumulator's new contents; the readers are released and the operation ends. -/
def State.putAcc (s : State) (o : EngineOp) (n : Nat) (d : List Word) (po : Bool) : State :=
  ((s.modWg o.wg fun w => w.setAcc n { w.accTile n with data := d, poison := po }).releaseReaders o).endOp o

/-- MMA_COMPLETE of operation `who` (R301). -/
def execMmaComplete (s : State) : Host.Outcome State Fault Refusal :=
  .next (match s.completing 0x1C7 with
    | none => s
    | some (o, w) =>
      let b := o.body
      let fmt := b.fmt.toNat
      let k := mmaDepth fmt
      let d := w.accTile o.accIndex
      let eb := w.tile b.tb.toNat
      let bv (x j : Nat) : FVal := s.tileValue w eb x j
      if o.bit12 then
        let src := w.accTile o.srcAcc
        let rb := match o.record with | some t => t.clamp | none => 0
        let av (i x : Nat) : FVal := downConvert fmt rb (accAt src.data i x)
        s.putAcc o o.accIndex (mmaSteps k av bv d.data (64 / k)) (d.poison || src.poison || s.anyPoison w eb)
      else
        let ea := w.tile b.ta.toNat
        s.putAcc o o.accIndex (mmaTile k (s.tileValue w ea) bv d.data) (d.poison || s.anyPoison w ea || s.anyPoison w eb))

/-- Weight x of row i of a CB2 tile (R82, R83). -/
def cbWeight (s : State) (w : Workgroup) (e : DWord) (table : List Word) (i x : Nat) : FVal :=
  let c := s.tileBits w e i (x / 8)
  (decodeCb2 (table.getD (c / 256) 0) (BitVec.ofNat 16 c)).getD (x % 8) (.zero false)

/-- MMAK_COMPLETE of operation `who` (R302). -/
def execMmakComplete (s : State) : Host.Outcome State Fault Refusal :=
  .next (match s.completing 0x1C8 with
    | none => s
    | some (o, w) =>
      let ea := w.tile o.body.ta.toNat
      let eb := w.tile o.body.tb.toNat
      let zeros : List Word := List.replicate 4096 0
      s.putAcc o o.accIndex (mmaTile 32 (cbWeight s w ea o.table) (s.tileValue w eb) zeros) (s.anyPoison w ea || s.anyPoison w eb))

/-- SCACC_COMPLETE of operation `who` (R303). -/
def execScaccComplete (s : State) : Host.Outcome State Fault Refusal :=
  .next (match s.completing 0x1C9 with
    | none => s
    | some (o, w) =>
      let er := w.tile o.body.ta.toNat
      let ec := w.tile o.body.tb.toNat
      let t := w.accTile o.accIndex
      let p := w.accTile o.srcAcc
      s.putAcc o o.accIndex
        (accOf fun i j => scaccElement (accAt t.data i j) (accAt p.data i j) (s.tileValue w er i 0) (s.tileValue w ec 0 j))
        (t.poison || p.poison || s.anyPoison w er || s.anyPoison w ec))

/-- ACLR_COMPLETE of operation `who` (R304). -/
def execAclrComplete (s : State) : Host.Outcome State Fault Refusal :=
  .next (match s.completing 0x1CA with
    | none => s
    | some (o, _) => s.putAcc o o.accIndex (List.replicate 4096 0) false)

/-- AINIT_COMPLETE of operation `who` (R304). -/
def execAinitComplete (s : State) : Host.Outcome State Fault Refusal :=
  .next (match s.completing 0x1CB with
    | none => s
    | some (o, w) =>
      let e := w.tile o.body.ta.toNat
      s.putAcc o o.accIndex (accOf fun i j => ainitElement (tFmt e) (s.tileBits w e i j)) (s.anyPoison w e))

/-! Copies (R285, R286, R299). -/

/-- One element read from a tensor; none when it is not inside. -/
def State.readElement (s : State) (o : EngineOp) (t : TensorRec) (is : List Nat) :
    State × Except (BitVec 8 × DWord) (Option (Nat × Bool)) :=
  if !t.inside is then (s, .ok none)
  else
    match s.engineAccess o t.data (t.addr t.data is) { perms := [pLOAD], n := elemSize t.fmt } with
    | (s, .error e) => (s, .error e)
    | (s, .ok p) =>
      let (s, bs) := s.engineRead (dieOfCore o.core) p
      (s, .ok (some (natOfBytes (bs.map Prod.fst), bs.any Prod.snd)))

/-- Tile elements from a tensor: what to write, and the valid extent so far. -/
def State.gather (o : EngineOp) (t : TensorRec) (w : Workgroup) (e : DWord) :
    List (Nat × Nat) → State → List (Nat × PByte) → Nat × Nat →
      State × Except (BitVec 8 × DWord) (List (Nat × PByte) × Nat × Nat)
  | [], s, acc, v => (s, .ok (acc, v))
  | (r, c) :: rest, s, acc, v =>
    match s.readElement o t ((elementOf o.slices r c).getD []) with
    | (s, .error x) => (s, .error x)
    | (s, .ok none) => State.gather o t w e rest s (acc ++ elemBytes w e r c t.fill.toNat false) v
    | (s, .ok (some (bits, po))) =>
      State.gather o t w e rest s (acc ++ elemBytes w e r c (engineConvert t.fmt (tFmt e) t.clamp bits) po)
        (max v.1 (r + 1), max v.2 (c + 1))

/-- Fills a tile of a workgroup from the operation's tensor (R285). -/
def State.fillTile (s : State) (o : EngineOp) (t : TensorRec) (w : Workgroup) (n : Nat) :
    State × Option (BitVec 8 × DWord) :=
  let e := w.tile n
  match State.gather o t w e (tileCells e) s [] (0, 0) with
  | (s, .error x) => (s, some x)
  | (s, .ok (ws, vr, vc)) => ((s.putBytes ws).putTile w.id n (setState (setValid e vr vc) tREADY), none)

/-- Writes elements of a tile to a tensor in row order, each as a write of its own; stops at the first failure. R128 does not
say whether elements that together cover a granule count as one whole write: they do not, so its poison stays (DESIGN
CHOICE, log 74). -/
def State.scatter (o : EngineOp) (t : TensorRec) (w : Workgroup) (e : DWord) :
    List (Nat × Nat) → State → State × Option (BitVec 8 × DWord)
  | [], s => (s, none)
  | (r, c) :: rest, s =>
    let is := (elementOf o.slices r c).getD []
    if !t.inside is then State.scatter o t w e rest s
    else
      let es := elemSize t.fmt
      match s.engineAccess o t.data (t.addr t.data is) { perms := [pSTORE], n := es, need := { w := true } } with
      | (s, .error x) => (s, some x)
      | (s, .ok p) =>
        let bits := engineConvert (tFmt e) t.fmt t.clamp (s.tileBits w e r c)
        let po := s.tilePoison w e r c
        State.scatter o t w e rest
          (s.pointWrite (dieOfCore o.core) true ((p.pas.zip (bytesOfNat es bits)).map fun (a, x) => (a, x, po)))

/-- Copies units of at most 128 bytes in ascending order; stops at the first failure. -/
def State.moveUnits (o : EngineOp) (t : TensorRec) (src dst : Int) : Nat → Nat → State → State × Option (BitVec 8 × DWord)
  | 0, _, s => (s, none)
  | fuel + 1, len, s =>
    if len = 0 then (s, none)
    else
      let n := min 128 len
      match s.engineAccess o t.data src { perms := [pLOAD], n := n } with
      | (s, .error x) => (s, some x)
      | (s, .ok p) =>
        match s.engineAccess o t.peer dst { perms := [pSTORE], n := n, need := { w := true } } with
        | (s, .error x) => (s, some x)
        | (s, .ok q) =>
          let (s, bs) := s.engineRead (dieOfCore o.core) p
          State.moveUnits o t (src + n) (dst + n) fuel (len - n) (s.pointWrite (dieOfCore o.core) true (q.pas.zip bs))

def State.moveSlices (o : EngineOp) (t : TensorRec) : List (List Word) → State → State × Option (BitVec 8 × DWord)
  | [], s => (s, none)
  | sl :: rest, s =>
    let len := sliceWord sl 2
    match State.moveUnits o t ((t.data.cursor.toNat : Int) + sliceWord sl 0) ((t.peer.cursor.toNat : Int) + sliceWord sl 1)
        (len / 128 + 1) len s with
    | (s, none) => State.moveSlices o t rest s
    | (s, some x) => (s, some x)

/-- An engine has written memory: waits for words look again (R268, R269). -/
def State.written (s : State) : State := s.pollWaits.flushEvents

/-- COPY_COMPLETE of operation `who` (R299): a failure is left for ENGINE_FAULT. -/
def execCopyComplete (s : State) : Host.Outcome State Fault Refusal :=
  .next (match s.completing 0x1C5 with
    | none => s
    | some (o, w) =>
      match o.record with
      | none => s
      | some t =>
        let n := o.body.ta.toNat
        let e := w.tile n
        if o.copyKind = 0 then
          match s.fillTile o t w n with
          | (s, none) => (s.endOp o).written
          | (s, some x) => s.setOp { o with fault := some x }
        else if o.copyKind = 1 then
          match State.scatter o t w e ((tileCells e).filter fun (r, c) => r < tVrows e && c < tVcols e) s with
          | (s, none) => ((s.releaseReaders o).stampThenEnd o).written
          | (s, some x) => (s.setOp { o with fault := some x }).written
        else
          match State.moveSlices o t o.slices s with
          | (s, none) => (s.stampThenEnd o).written
          | (s, some x) => (s.setOp { o with fault := some x }).written)

/-! Multicast (R300). -/

/-- One acknowledgement on the operation's barrier, once for each receiver. -/
def State.ackReceiver (s : State) (o : EngineOp) (wg : Nat) : State :=
  if o.acked.contains wg then s
  else
    let key : BarKey := ⟨o.launch, 0, o.core, fld o.body.flags 3 0⟩
    s.setBar { s.bar key with acks := (s.bar key).acks - 1 }

/-- A receiver is done with, well or badly; the multicast ends with its last. -/
def State.receiverDone (s : State) (o : EngineOp) (wg : Nat) (bad : Bool) (f : Option (BitVec 8 × DWord)) : State :=
  let s := s.ackReceiver o wg
  let o := { o with
    todo := o.todo.filter fun x => x != wg
    begun := o.begun.filter fun x => x != wg
    acked := if o.acked.contains wg then o.acked else wg :: o.acked
    bad := if bad then wg :: o.bad else o.bad
    fault := o.fault.or f }
  if o.todo.isEmpty && o.fault.isNone then s.endOp o else s.setOp o

/-- What the source gives for elements of a tile, in the order asked; each element is read from the tensor once. -/
def State.readSource (o : EngineOp) (t : TensorRec) :
    List (Nat × Nat) → State → List (Nat × Nat × Nat × Bool) → State × Except (BitVec 8 × DWord) (List (Nat × Nat × Nat × Bool))
  | [], s, src => (s, .ok src)
  | (r, c) :: rest, s, src =>
    if src.any fun x => x.1 == r && x.2.1 == c then State.readSource o t rest s src
    else
      match s.readElement o t ((elementOf o.slices r c).getD []) with
      | (s, .error x) => (s, .error x)
      | (s, .ok none) => State.readSource o t rest s src
      | (s, .ok (some (bits, po))) => State.readSource o t rest s (src ++ [(r, c, bits, po)])

/-- A receiver's tile from the source as it was read: elements that the tensor does not have are the record's fill. -/
def multicastBytes (t : TensorRec) (w : Workgroup) (e : DWord) (src : List (Nat × Nat × Nat × Bool)) : List (Nat × PByte) :=
  ((tileCells e).map fun (r, c) =>
    match src.find? fun x => x.1 == r && x.2.1 == c with
    | some (_, _, bits, po) => elemBytes w e r c (engineConvert t.fmt (tFmt e) t.clamp bits) po
    | none => elemBytes w e r c t.fill.toNat false).flatten

/-- A receiver's tile that does not suit the multicast: undefined, of another pairing, or with other rows. -/
def EngineOp.unsuited (o : EngineOp) (t : TensorRec) (e : DWord) : Bool :=
  tRows e == 0 || !(pairs t.fmt (tFmt e)) || !slicesCover o.slices (tRows e)

/-- COPYM_DELIVERY of operation `who` to the receiver workgroup `arg` (R300): when its tile is EMPTY it becomes FILLING, or
FAULTED where it does not suit; the next delivery to it makes it READY. The source is read once, for the first. The fault of an
undefined or unsuited receiver has the code TILE_STATE and the address 0 (DESIGN CHOICE, log 73). -/
def execCopymDelivery (s : State) : Host.Outcome State Fault Refusal :=
  .next (match s.op? s.ev.who with
    | none => s
    | some o =>
      if o.code ≠ 0x1C6 || !o.todo.contains s.ev.arg || o.phase != .running then s
      else
        match o.record, s.wg? s.ev.arg with
        | some t, some w =>
          let n := o.body.ta.toNat
          let e := w.tile n
          let fault (s : State) (x : BitVec 8 × DWord) : State :=
            (s.putTile w.id n (setState e tFAULTED)).receiverDone o w.id true (some x)
          if w.spilled then s
          else if w.tiles.length ≤ n then s.receiverDone o w.id true (some (cTILESTATE, 0))
          else if o.begun.contains w.id then
            if o.unsuited t e then fault s (cTILESTATE, 0)
            else
              let inTensor := (tileCells e).filter fun (r, c) => t.inside ((elementOf o.slices r c).getD [])
              match State.readSource o t inTensor s (o.source.getD []) with
              | (s, .error x) => fault s x
              | (s, .ok src) =>
                let got := src.filter fun x => x.1 < tRows e && x.2.1 < tCols e
                let e := setState (setValid e (got.foldl (fun m x => max m (x.1 + 1)) 0)
                  (got.foldl (fun m x => max m (x.2.1 + 1)) 0)) tREADY
                (((s.putBytes (multicastBytes t w e src)).putTile w.id n e).receiverDone { o with source := some src }
                  w.id false none).written
          else if tState e ≠ tEMPTY || o.fault.isSome then s
          else if o.unsuited t e then fault s (cTILESTATE, 0)
          else (s.putTile w.id n (setState e tFILLING)).setOp { o with begun := w.id :: o.begun }
        | some _, none => s.receiverDone o s.ev.arg false none
        | none, _ => s)

/-! Drains (R305, R306). -/

def EngineOp.origin (o : EngineOp) : List Nat :=
  let sl := o.slices.headD []
  [sliceWord sl 0, sliceWord sl 1, sliceWord sl 2 % 65536, sliceWord sl 2 / 65536]
/-- The value y of element (i, j). -/
def State.drainY (s : State) (w : Workgroup) (o : EngineOp) (i j : Nat) : FVal :=
  let e := w.tile o.body.tb.toNat
  let bias := if o.biased then s.tileValue w e (if tRows e = 1 then 0 else i) j else .zero false
  drainValue (accAt (w.accTile o.accIndex).data i j) bias
def State.drainPoison (s : State) (w : Workgroup) (o : EngineOp) (i j : Nat) : Bool :=
  let e := w.tile o.body.tb.toNat
  (w.accTile o.accIndex).poison || (o.biased && s.tilePoison w e (if tRows e = 1 then 0 else i) j)
/-- The tensor element that a drain writes element (i, j) to. -/
def EngineOp.drainElement (o : EngineOp) (i j : Nat) : List Nat :=
  match o.origin with
  | [a, b, c, d] => [a + j, b + i, c, d]
  | _ => []

/-- Writes row i of a drain; stops at the first failure. -/
def State.drainRow (o : EngineOp) (t : TensorRec) (w : Workgroup) (i : Nat) : List Nat → State → State × Option (BitVec 8 × DWord)
  | [], s => (s, none)
  | j :: rest, s =>
    let is := o.drainElement i j
    if !t.inside is then State.drainRow o t w i rest s
    else
      let es := elemSize t.fmt
      match s.engineAccess o t.data (t.addr t.data is) { perms := [pSTORE], n := es, need := { w := true } } with
      | (s, .error x) => (s, some x)
      | (s, .ok p) =>
        let bits := drainOut t.fmt t.clamp (s.drainY w o i j)
        let po := s.drainPoison w o i j
        State.drainRow o t w i rest
          (s.pointWrite (dieOfCore o.core) true ((p.pas.zip (bytesOfNat es bits)).map fun (a, x) => (a, x, po)))

/-- Places of an add-on-store's elements, every line checked first (R306). -/
def State.placeAll (o : EngineOp) (t : TensorRec) :
    List (Nat × Nat) → State → List (Nat × Nat × List Nat) → State × Except (BitVec 8 × DWord) (List (Nat × Nat × List Nat))
  | [], s, acc => (s, .ok acc)
  | (i, j) :: rest, s, acc =>
    let is := o.drainElement i j
    if !t.inside is then State.placeAll o t rest s acc
    else
      match s.engineAccess o t.data (t.addr t.data is)
          { perms := [pLOAD, pSTORE], n := elemSize t.fmt, need := { w := true }, noDevice := true } with
      | (s, .error x) => (s, .error x)
      | (s, .ok p) => State.placeAll o t rest s (acc ++ [(i, j, p.pas)])

/-- A whole add-on-store, or nothing of it (R306): its footprint is every line that it touches (R122). -/
def State.addOnStore (s : State) (o : EngineOp) (t : TensorRec) (w : Workgroup) : State × Option (BitVec 8 × DWord) :=
  let cells := ((List.range 64).map fun i => (List.range 64).map fun j => (i, j)).flatten
  match State.placeAll o t cells s [] with
  | (s, .error x) => (s, some x)
  | (s, .ok ps) =>
    let all := (ps.map fun x => x.2.2).flatten
    let s := s.beforeStrong (dieOfCore o.core) all
    match ps.find? fun x => x.2.2.any fun a => (List.range 8).any fun g => s.poisonAt (a / 128 * 128 + 16 * g) with
    | some (i, j, _) => (s, some (cPOISON, addrWord (t.addr t.data (o.drainElement i j))))
    | none =>
      (ps.foldl (fun s (i, j, pas) =>
        let es := elemSize t.fmt
        let old := natOfBytes (pas.map s.byteAt)
        let bits := addOn t.fmt t.clamp old (s.drainY w o i j)
        s.putBytes ((pas.zip (bytesOfNat es bits)).map fun (a, x) => (a, x, s.drainPoison w o i j))) s, none)

/-- DRAIN_WRITE_ACK of row `arg` of operation `who`, or of a whole add-on-store (R305). -/
def execDrainWriteAck (s : State) : Host.Outcome State Fault Refusal :=
  .next (match s.op? s.ev.who with
    | none => s
    | some o =>
      match o.record, s.wg? o.wg with
      | some t, some w =>
        if o.code ≠ 0x1CC || o.phase != .running || !o.todo.contains s.ev.arg then s
        else if o.adds then
          match s.addOnStore o t w with
          | (s, x) => (s.setOp { o with todo := [], fault := o.fault.or x }).written
        else
          match State.drainRow o t w s.ev.arg (List.range 64) s with
          | (s, x) => (s.setOp { o with todo := o.todo.filter fun i => i != s.ev.arg, fault := o.fault.or x }).written
      | _, _ => s)

/-- ADRAIN_COMPLETE of operation `who` (R305, R125): every write acknowledged, the accumulator is released. -/
def execAdrainComplete (s : State) : Host.Outcome State Fault Refusal :=
  .next (match s.completing 0x1CC with
    | none => s
    | some (o, w) =>
      if !o.todo.isEmpty then s
      else
        let s :=
          if o.bit12 then s
          else
            let n := o.body.ta.toNat
            let e := w.tile n
            let ws := ((tileCells e).map fun (r, c) =>
              elemBytes w e r c (drainOut o.body.fmt.toNat 0 (s.drainY w o r c)) (s.drainPoison w o r c)).flatten
            (s.putBytes ws).putTile w.id n (setState (setValid e 64 64) tREADY)
        (((s.modWg o.wg fun w => w.setAcc o.accIndex .empty).releaseReaders o).stampThenEnd o).written)

/-! Engine faults (R290). -/

/-- Auxiliary word 1 of an engine fault: of a multicast, it names the receiver whose delivery failed first (R300). -/
def State.engineAux1 (s : State) (w : Workgroup) (o : EngineOp) : Word :=
  let w := (o.bad.getLast?.bind s.wg?).getD w
  let index := if o.code = 0x1C5 ∨ o.code = 0x1C6 then o.body.ta.toNat else o.accIndex
  BitVec.ofNat 32 (index % 512 + w.bank % 2 * 512 + w.slot % 64 * 1024 + o.gang % 4 * 65536)

/-- Tiles and accumulators as a failed operation leaves them (Tables 12.4, 12.10). -/
def State.faultStates (s : State) (o : EngineOp) : State :=
  let s := (s.modWg o.wg fun w =>
    let w := (o.tiles.filter fun x => x.2).foldl (fun w x => w.setTile x.1 (setState (w.tile x.1) tFAULTED)) w
    o.accs.foldl (fun w x => if x.2 = .drain then w.setAcc x.1 { w.accTile x.1 with state := aFAULTED } else w) w).pollTwait o.wg
  s

/-- The tiles of a multicast's failed receivers take a state. -/
def State.badTiles (s : State) (o : EngineOp) (st : Nat) : State :=
  o.bad.foldl (fun s wg =>
    match s.wg? wg with
    | some w => if o.body.ta.toNat < w.tiles.length then s.putTile wg o.body.ta.toNat (setState (w.tile o.body.ta.toNat) st) else s
    | none => s) s

/-- A multicast whose failed deliveries are skipped: the other receivers still get theirs (R300; log 73). -/
def State.skipReceivers (s : State) (o : EngineOp) : State :=
  let s := s.badTiles o tEMPTY
  if o.todo.isEmpty then s.endOp o else s.setOp { o with phase := .running, fault := none, bad := [] }

/-- A multicast that is given up: no acknowledgement is outstanding any more (R44, R300). -/
def State.dropReceivers (s : State) (o : EngineOp) : State :=
  (o.todo.foldl (fun s wg => s.ackReceiver o wg) (s.badTiles o tEMPTY)).endOp o

/-- What a skip leaves (Table 12.9, R44). The table has no column for an MMAK whose codebook could not be loaded: its
accumulator tile becomes EMPTY, as a drain's (DESIGN CHOICE, log 73). -/
def State.skipOp (s : State) (o : EngineOp) : State :=
  match o.phase with
  | .stampFault _ _ _ => s.endOp o
  | _ =>
    if o.code = 0x1C6 then
      if (s.wg? o.wg).any Workgroup.anyLive then s.skipReceivers o else s.dropReceivers o
    else
    let s := (s.modWg o.wg fun w =>
      let w := (o.tiles.filter fun x => x.2).foldl (fun w x => w.setTile x.1 (setState (w.tile x.1) tEMPTY)) w
      o.accs.foldl (fun w x => if x.2 = .drain || o.code = 0x1C8 then w.setAcc x.1 .empty else w) w).pollTwait o.wg
    (s.releaseReaders o).endOp o

/-- What a resume repeats (Table 12.9). -/
def State.resumeOp (s : State) (o : EngineOp) : State :=
  match o.phase with
  | .stampFault _ _ _ => s.stampThenEnd o
  | _ =>
    let s := s.badTiles o tFILLING
    let s := (s.modWg o.wg fun w =>
      let w := (o.tiles.filter fun x => x.2).foldl (fun w x => w.setTile x.1 (setState (w.tile x.1) tFILLING)) w
      o.accs.foldl (fun w x => if x.2 = .drain then w.setAcc x.1 { w.accTile x.1 with state := aDRAINING } else w) w).pollTwait o.wg
    s.setOp { o with
      phase := if o.code = 0x1C8 then .queued else .running
      fault := none
      todo := if o.code = 0x1CC && o.bit12 then List.range 64 else if o.code = 0x1C6 then o.todo ++ o.bad else o.todo
      begun := o.begun ++ o.bad
      source := none
      bad := [] }

/-- Threads of the listed home groups end (Table 12.9). -/
def State.terminateGroups (s : State) (o : EngineOp) : State :=
  match s.wg? o.wg with
  | none => s
  | some w => s.runActs ((w.threads.filter fun t => t.live && o.groups.contains (t.tid / w.w)).map fun t => .stop w.id t.tid)

/-- The failure that an operation has still to report; first its accesses that were sent settle (R290). -/
def EngineOp.failure (o : EngineOp) : Option (BitVec 8 × DWord) :=
  match o.phase, o.fault with
  | .running, some x => if (o.code = 0x1CC && !o.todo.isEmpty) || !o.begun.isEmpty then none else some x
  | .stampFault code x false, _ => some (code, x)
  | _, _ => none
/-- It has failed and is held: reported, or torn down. -/
def EngineOp.held (o : EngineOp) : Bool :=
  match o.phase with
  | .faulted => true
  | .stampFault _ _ sent => sent
  | _ => false
def EngineOp.hold (o : EngineOp) : EngineOp :=
  { o with phase := match o.phase with | .stampFault c a _ => .stampFault c a true | _ => .faulted }

/-- An operation's fault message that nobody awaits a reply to any more (R44): a message that waits for room goes on as one of
the Hall's, and a call that was taken is forgotten, so that its reply is discarded. -/
def State.orphanCalls (s : State) (o : EngineOp) : State :=
  let hall := Party.hall (dieOfCore o.core)
  (s.reqs.filter fun r => r.who == .engine o.id).foldl (fun s r =>
    let s := s.leaveWaits r.who r.batch
    match r.op with
    | .send m => s.setReq { r with who := hall, op := .send { m with sender := hall } }
    | _ => s.dropReq r.id) s

/-- A tile that a reply changes is spilled: the reply is applied when it has been filled back (R291). -/
def State.tilesSpilled (s : State) (o : EngineOp) : Bool := ((o.wg :: o.bad).filterMap s.wg?).any Workgroup.spilled

/-- ENGINE_FAULT of operation `who`: once its accesses have settled, the failure is reported (R290); one of an address space
that is torn down sends no message (R425). Where no thread of the workgroup lives, then or later, R44 decides. -/
def execEngineFault (s : State) : Host.Outcome State Fault Refusal :=
  .next (match s.op? s.ev.who with
    | none => s
    | some o =>
      match s.wg? o.wg with
      | none => s
      | some w =>
        match o.failure with
        | none => if o.held && !w.anyLive && !s.tilesSpilled o then (s.orphanCalls o).skipOp o else s
        | some (code, x) =>
          let s := (if o.phase = .running then s.faultStates o else s).countFault code o.core
          let o := o.hold
          let s := s.setOp o
          let ended := o.groups.all fun g => (w.liveOf g).isEmpty
          let m := faultMsg code true ended o.pc x (BitVec.ofNat 32 (0x80000000 + o.code)) (s.engineAux1 w o) 0
            (threadIdentity w o.lead) (.engine o.id)
          let ep := match s.launch? o.launch with | some l => l.fault | none => .null
          if !w.anyLive then (if code = cTEARDOWN then s else s.lastMessage ep o.core m).skipOp o
          else if code = cTEARDOWN then s
          else
            match s.sendCall ep (.engine o.id) o.core m with
            | (s, true) => s
            | (s, false) => (s.skipOp o).terminateGroups o)

/-- ENGINE_FAULT_REPLY of operation `who` (Table 12.9); with no live thread of its workgroup R44 applies instead (R290). -/
def execEngineFaultReply (s : State) : Host.Outcome State Fault Refusal :=
  .next (match s.op? s.ev.who with
    | none => s
    | some o =>
      match s.reqs.find? fun r => r.who == .engine o.id with
      | none => s
      | some r =>
        match r.phase with
        | .done _ (some m) =>
          if s.tilesSpilled o then s
          else
            let s := s.dropReq r.id
            match if (s.wg? o.wg).any Workgroup.anyLive then verdictOf m else .skip with
            | .resume => (s.resumeOp o).written
            | .skip => s.skipOp o
            | .terminate => (s.skipOp o).terminateGroups o
        | _ => s)

end Sys2Proof.Machine
end

