-- ==== Sys2Proof/Machine/HartMem.lean ====
section
/-! DEFINITION. Memory accesses of a hart (spec/18 R364-R366, R370, R372; spec/20 R408-R411 for its translation, which is
RISC-V's, log 5): standard loads, stores, LR, SC and AMOs, kld and kst, fences, fetch of a parcel. -/

namespace Sys2Proof.Machine

/-- What an access is to the hart's own translation. -/
inductive HAcc where
  | fetch | load | store
  deriving DecidableEq, Repr

def HAcc.misaligned : HAcc → Nat
  | .fetch => 0
  | .load => 4
  | .store => 6
def HAcc.accessFault : HAcc → Nat
  | .fetch => 1
  | .load => 5
  | .store => 7
def HAcc.pageFault : HAcc → Nat
  | .fetch => 12
  | .load => 13
  | .store => 15

/-- The privilege of an access: MPRV changes that of data accesses. -/
def Hart.accMode (h : Hart) (a : HAcc) : Mode :=
  if a != .fetch && h.mstatus.getLsbD msMPRV then .ofNum (msMPP h.mstatus) else h.mode

/-- What the leaf must give (RISC-V, with Svade: A and D are never set by the hart). -/
def Hart.leafAllows (h : Hart) (mode : Mode) (a : HAcc) (pte : Nat) : Bool :=
  (if pteU pte then mode == .u || (mode == .s && a != .fetch && h.mstatus.getLsbD msSUM) else mode != .u)
    && (match a with
      | .fetch => pteX pte
      | .load => pteR pte || (h.mstatus.getLsbD msMXR && pteX pte)
      | .store => pteW pte)
    && pteA pte && (a != .store || pteD pte) && (ptePbmt pte == 0 || h.menvcfg.getLsbD 62)

def satpMode (x : DWord) : Nat := (x.extractLsb' 60 4).toNat
def satpAsid (x : DWord) : Nat := (x.extractLsb' 44 10).toNat
def satpPpn (x : DWord) : Nat := (x.extractLsb' 0 44).toNat

/-- Space of a bare address is strongly ordered. -/
def ioSpace (pa : Nat) : Bool := spaceOf pa == .device || spaceOf pa == .pcie

/-- Translates `va` for the hart (R370, R408, R425): the physical address, whether the page admits capabilities, whether it
is strongly ordered. A bare hart reaches physical addresses, and no leaf withholds CW. -/
def State.hartTranslate (s : State) (h : Hart) (a : HAcc) (va : Nat) : State × Except HTrap (Nat × Bool × Bool) :=
  let mode := h.accMode a
  let addr := BitVec.ofNat 64 va
  if mode = .m ∨ satpMode h.satp = 0 then
    if va < 2 ^ 56 && s.populated va then (s, .ok (va, true, ioSpace va)) else (s, .error (.exc a.accessFault addr))
  else
    let bad : HTrap := .exc a.pageFault addr
    let asid := satpAsid h.satp
    if (match s.asid? asid with | some e => e.torn | none => false) then (s, .error bad)
    else if !(va / 2 ^ 47 == 0 || va / 2 ^ 47 == 0x1FFFF) then (s, .error bad)
    else
      let (_, s) := s.rootOf asid
      let vpn := va / 4096 % 2 ^ 36
      match walk s vpn 4 (satpPpn h.satp) with
      | none => (s, .error bad)
      | some (_, pte, level) =>
        let pa := leafPpn level pte vpn * 4096 + va % 4096
        if attrsOk pa pte && s.populated pa && h.leafAllows mode a pte then (s, .ok (pa, pteCW pte, ptePbmt pte == 2))
        else (s, .error bad)

/-- What a checked access of n bytes needs. -/
structure HartSpec where
  acc : HAcc
  perms : List Nat
  n : Nat
  /-- 16 for kld and kst, which fault ALIGN (R372). -/
  align : Nat := 0
  /-- LR, SC and AMO: misaligned they raise cause 4 or 6. -/
  strict : Bool := false
  capStore : Bool := false
  /-- The checks of a stored capability (R238, R372). -/
  extra : Option HTrap := none
  deriving DecidableEq, Repr

inductive HartCheck where
  | ok (pas : List Nat) (cw : Bool)
  | trap (t : HTrap)
  | remote
  deriving DecidableEq, Repr

/-- The checks of R364 and R231 on authority `c`, register field `reg`, at address x; `cm` admits a remote authority. -/
def State.hartCheck (s : State) (h : Hart) (cm : Bool) (c : Cap) (reg : Nat) (x : Int) (sp : HartSpec) : State × HartCheck :=
  let addr := addrWord x
  let flt (code : BitVec 8) (detail : Nat) : HartCheck := .trap (.cap code reg false detail addr)
  if !c.valid then (s, flt cTAG 0)
  else if c.remote && cm then (s, .remote)
  else if c.otype ≠ 0 then (s, flt cSEALED 0)
  else match sp.perms.find? fun b => !c.has b with
    | some b => (s, flt cPERM b)
    | none =>
      match sp.extra with
      | some t => (s, .trap { t with tval := some addr })
      | none =>
        if x < c.base ∨ (c.top : Int) < x + sp.n then (s, flt cBOUNDS 0)
        else if sp.align ≠ 0 ∧ x % sp.align ≠ 0 then (s, flt cALIGN sp.n)
        else
          let v := x.toNat
          if (sp.strict && v % sp.n != 0) || 4096 < v % 4096 + sp.n then (s, .trap (.exc sp.acc.misaligned addr))
          else
            match s.hartTranslate h sp.acc v with
            | (s, .error t) => (s, .trap t)
            | (s, .ok (pa, cw, io)) =>
              if io && v % sp.n != 0 then (s, .trap (.exc sp.acc.misaligned addr))
              else if sp.strict && ioSpace pa then (s, .trap (.exc sp.acc.pageFault addr))
              else if sp.capStore && !cw then (s, flt cCAPSTORE 0)
              else (s, .ok ((List.range sp.n).map (pa + ·)) cw)

/-- Authority, register field and address of an access (R364, R365, R372); rs1 of 16-31 is illegal in capability mode. -/
def Hart.authority (h : Hart) (rs1 : BitVec 5) (imm : BitVec 12) : Except HTrap (Cap × Nat × Int) :=
  if h.cm then
    if rs1.getLsbD 4 then .error .illegal
    else .ok (h.kr rs1, rs1.toNat, ((h.kr rs1).cursor.toNat : Int) + imm.toInt)
  else .ok (h.kd, 16, ((h.xr rs1 + imm.signExtend 64).toNat : Int))

/-- A hart's request that travels (R248, R366): `kreg` names the register file of its result, 0 x, 1 f, 2 k; `pos` keeps the
instruction's length. -/
def hartRequest (n len id : Nat) (op : ReqOp) (c : Cap) (x : Int) (size file rd reg : Nat) : Request :=
  { id := id, batch := id, who := .hart n, launch := 0, name := 0, core := 0, grp := 0, pos := len, op := op, phase := .sent, x := (addrWord x).toNat,
    pas := [], obj := 0, size := size, order := 1, scope := 3, strong := true, io := false, cw := true, via := [],
    chans := [.fabric c.source], data := rd, kreg := file, pred := 7, auth := reg, lowest := true, tag := 0, dests := [],
    pc := 0, nextPc := 0, nextNew := false, unresolved := false, remote := some c, faultCall := false }

/-- Sends it; the hart stalls until the answer. -/
def State.hartTravel (s : State) (h : Hart) (op : ReqOp) (c : Cap) (x : Int) (size file rd reg : Nat) : State × HartEnd :=
  let (id, s) := s.newId
  let len := match s.cur with | .hart _ n => n | _ => 4
  let s := { s with reqs := s.reqs ++ [hartRequest h.id len id op c x size file rd reg] }
  (s.setHart { h with run := .stalled id }, .waits)

/-- Stored data travels without poison: hart registers hold none (R366). -/
def hartBytes (n : Nat) (v : DWord) : List (Byte × Bool) := (bytesOfNat n v.toNat).map fun b => (b, false)

def poisonTrap (reg : Nat) (x : Int) : HTrap := .cap cPOISON reg false 0 (addrWord x)

/-- A loaded value of n bytes in an x register. -/
def loadX (n : Nat) (unsigned : Bool) (v : Nat) : DWord :=
  let w := BitVec.ofNat 64 v
  if unsigned ∨ n = 8 then w
  else if n = 1 then (w.extractLsb' 0 8).signExtend 64
  else if n = 2 then (w.extractLsb' 0 16).signExtend 64
  else (w.extractLsb' 0 32).signExtend 64
/-- A loaded value in an f register: a single is NaN-boxed. -/
def loadF (n v : Nat) : DWord := if n = 8 then BitVec.ofNat 64 v else (0xFFFFFFFF : BitVec 32) ++ BitVec.ofNat 32 v

/-- mstatus.FS: off is illegal for any floating-point instruction; a write of state makes it dirty. -/
def Hart.fsOff (h : Hart) : Bool := h.mstatus.extractLsb' 13 2 == 0
def Hart.setF (h : Hart) (n : BitVec 5) (v : DWord) : Hart :=
  { h with f := h.f.set n.toNat v, mstatus := setBit64 (h.mstatus ||| 0x6000) 63 true }

/-- Reads n bytes for a hart: POISON before any register is written (R366). -/
def State.hartRead (s : State) (pas : List Nat) : State × Option Nat :=
  match s.pointRead 4 true pas with
  | (s, bs) => (s.cacheOnControl pas, if bs.any Prod.snd then none else some (natOfBytes (bs.map Prod.fst)))

/-- Writes bytes for a hart (R366); waits look at once. -/
def State.hartWrite (s : State) (ws : List (Nat × PByte)) : State :=
  (((s.pointWrite 4 true ws).cacheOnControl (ws.map Prod.fst)).pollWaits).flushEvents

/-- A load into x (file 0) or f (file 1). -/
def State.hartLoad (s : State) (h : Hart) (n file : Nat) (unsigned : Bool) (rd rs1 : BitVec 5) (imm : BitVec 12) :
    State × HartEnd :=
  match h.authority rs1 imm with
  | .error t => (s, .trap t)
  | .ok (c, reg, x) =>
    match s.hartCheck h h.cm c reg x { acc := .load, perms := [pLOAD], n := n } with
    | (s, .trap t) => (s, .trap t)
    | (s, .remote) => s.hartTravel h (.load (!unsigned)) c x n file rd.toNat reg
    | (s, .ok pas _) =>
      match s.hartRead pas with
      | (s, none) => (s, .trap (poisonTrap reg x))
      | (s, some v) =>
        (s.modHart h.id fun h => if file = 1 then h.setF rd (loadF n v) else h.setX rd (loadX n unsigned v), .next)

/-- A store of the low n bytes of a value. -/
def State.hartStore (s : State) (h : Hart) (n : Nat) (v : DWord) (rs1 : BitVec 5) (imm : BitVec 12) : State × HartEnd :=
  match h.authority rs1 imm with
  | .error t => (s, .trap t)
  | .ok (c, reg, x) =>
    match s.hartCheck h h.cm c reg x { acc := .store, perms := [pSTORE], n := n } with
    | (s, .trap t) => (s, .trap t)
    | (s, .remote) => s.hartTravel h (.store (hartBytes n v)) c x n 0 0 reg
    | (s, .ok pas _) => (s.hartWrite (pas.zip (hartBytes n v)), .next)

/-- LR (RISC-V): the reservation is the address. -/
def State.hartLr (s : State) (h : Hart) (n : Nat) (rd rs1 : BitVec 5) : State × HartEnd :=
  match h.authority rs1 0 with
  | .error t => (s, .trap t)
  | .ok (c, reg, x) =>
    match s.hartCheck h h.cm c reg x { acc := .load, perms := [pLOAD, pSTORE], n := n, strict := true } with
    | (s, .trap t) => (s, .trap t)
    | (s, .remote) => (s, .trap (.cap cSEALED reg false 0 (addrWord x)))
    | (s, .ok pas _) =>
      match s.hartRead pas with
      | (s, none) => (s, .trap (poisonTrap reg x))
      | (s, some v) =>
        let s := s.modHart h.id fun h => h.setX rd (loadX n false v)
        ({ s with reservations := (s.reservations.filter fun r => r.1 != h.id) ++ [(h.id, pas.headD 0)] }, .next)

/-- SC (RISC-V): it succeeds at the reserved address, and the reservation ends. -/
def State.hartSc (s : State) (h : Hart) (n : Nat) (rd rs1 : BitVec 5) (v : DWord) : State × HartEnd :=
  match h.authority rs1 0 with
  | .error t => (s, .trap t)
  | .ok (c, reg, x) =>
    match s.hartCheck h h.cm c reg x { acc := .store, perms := [pLOAD, pSTORE], n := n, strict := true } with
    | (s, .trap t) => (s, .trap t)
    | (s, .remote) => (s, .trap (.cap cSEALED reg false 0 (addrWord x)))
    | (s, .ok pas _) =>
      let held := s.reservations.contains (h.id, pas.headD 0)
      if held && pas.any s.poisonAt then (s, .trap (poisonTrap reg x))
      else
        let s := { s with reservations := s.reservations.filter fun r => r.1 != h.id }
        let s := if held then s.hartWrite (pas.zip (hartBytes n v)) else s
        (s.modHart h.id fun h => h.setX rd (if held then 0 else 1), .next)

/-- The atomic operation of an AMO, and whether it compares unsigned. -/
def amoAtom : AmoOp → AtomOp × Bool
  | .swap => (.xchg, false)
  | .add => (.add, false)
  | .xor => (.xor, false)
  | .and => (.and, false)
  | .or => (.or, false)
  | .min => (.min, false)
  | .max => (.max, false)
  | .minu => (.min, true)
  | .maxu => (.max, true)

/-- An AMO: one RMW at its point (R115). -/
def State.hartAmo (s : State) (h : Hart) (op : AmoOp) (n : Nat) (rd rs1 : BitVec 5) (v : DWord) : State × HartEnd :=
  match h.authority rs1 0 with
  | .error t => (s, .trap t)
  | .ok (c, reg, x) =>
    match s.hartCheck h h.cm c reg x { acc := .store, perms := [pLOAD, pSTORE], n := n, strict := true } with
    | (s, .trap t) => (s, .trap t)
    | (s, .remote) =>
      if x % n ≠ 0 then (s, .trap (.cap cALIGN reg false n (addrWord x)))
      else s.hartTravel h (.atom (amoAtom op).1 (amoAtom op).2 (v.toNat % 2 ^ (8 * n)) 0 false) c x n 0 rd.toNat reg
    | (s, .ok pas _) =>
      match s.rmw 4 pas (amoAtom op).1 (amoAtom op).2 (v.toNat % 2 ^ (8 * n)) 0 with
      | (s, none) => (s, .trap (poisonTrap reg x))
      | (s, some (old, _)) =>
        (((s.cacheOnControl pas).modHart h.id fun h => h.setX rd (loadX n false old)).pollWaits.flushEvents, .next)

def wideBytes (double : Bool) : Nat := if double then 8 else 4

/-- HART_MEMORY_ACCESS (R364, R365). -/
def execHartMemoryAccess (a : HartAccess) : State → Host.Outcome State Fault Refusal :=
  onHart fun s h =>
    match a with
    | .load width unsigned rd rs1 imm => s.hartLoad h (2 ^ width.toNat) 0 unsigned rd rs1 imm
    | .store width rs2 rs1 imm => s.hartStore h (2 ^ width.toNat) (h.xr rs2) rs1 imm
    | .fload dbl rd rs1 imm => if h.fsOff then (s, .trap .illegal) else s.hartLoad h (wideBytes dbl) 1 true rd rs1 imm
    | .fstore dbl rs2 rs1 imm =>
      if h.fsOff then (s, .trap .illegal) else s.hartStore h (wideBytes dbl) (h.f.getD rs2.toNat 0) rs1 imm
    | .lr dbl _ _ rd rs1 => s.hartLr h (wideBytes dbl) rd rs1
    | .sc dbl _ _ rd rs1 rs2 => s.hartSc h (wideBytes dbl) rd rs1 (h.xr rs2)
    | .amo op dbl _ _ rd rs1 rs2 => s.hartAmo h op (wideBytes dbl) rd rs1 (h.xr rs2)

/-- HART_FENCE (R362, Table 4.5): each access of a hart has been performed at its home before the next instruction. -/
def execHartFence (_fm _pred _succ : BitVec 4) : State → Host.Outcome State Fault Refusal := onHart fun s _ => (s, .next)

/-! kld and kst (R372). -/

/-- A granule read as a capability; a device or window granule has no tag and is read as two halves. -/
def State.hartReadCap (s : State) (pas : List Nat) : State × Cap × Bool :=
  match s.pointReadCap 4 true (pas.headD 0) with
  | (s, c, po) => (s.cacheOnControl pas, c, po)

/-- KLD (R372, R237). -/
def execKld (d b : BitVec 5) (imm : BitVec 12) : State → Host.Outcome State Fault Refusal :=
  onHart fun s h =>
    match h.authority b imm with
    | .error t => (s, .trap t)
    | .ok (c, reg, x) =>
      match s.hartCheck h h.cm c reg x { acc := .load, perms := [pLOAD], n := 16, align := 16 } with
      | (s, .trap t) => (s, .trap t)
      | (s, .remote) =>
        if x % 16 ≠ 0 then (s, .trap (.cap cALIGN reg false 16 (addrWord x)))
        else s.hartTravel h (.loadCap true) c x 16 2 d.toNat reg
      | (s, .ok pas cw) =>
        match s.hartReadCap pas with
        | (s, _, true) => (s, .trap (poisonTrap reg x))
        | (s, v, false) =>
          let v := s.sift { v with tag := v.tag && c.has pLOADK && cw }
          (s.modHart h.id fun h => h.setK d v, .next)

/-- The checks of a stored capability (R238): the authority's register, or the data's with the operand bit. -/
def kstCheck (c : Cap) (reg : Nat) (v : Cap) (vreg : Nat) : Option HTrap :=
  if !v.valid then none
  else if !c.has pSTOREK then some (.cap cPERM reg false pSTOREK 0)
  else if !v.has pGLOBAL && !c.has pSTORELOCAL then some (.cap cPERM reg false pSTORELOCAL 0)
  else if v.remote && !v.has pTRANSFER then some (.cap cPERM vreg true pTRANSFER 0)
  else none

/-- A granule written with its tag. -/
def State.hartWriteCap (s : State) (pas : List Nat) (v : Cap) : State :=
  (s.pointWriteCap 4 true (pas.headD 0) v false).cacheOnControl pas

/-- KST (R372, R238). -/
def execKst (a b : BitVec 5) (imm : BitVec 12) : State → Host.Outcome State Fault Refusal :=
  onHart fun s h =>
    match h.authority b imm with
    | .error t => (s, .trap t)
    | .ok (c, reg, x) =>
      let v := h.kr a
      match s.hartCheck h h.cm c reg x
          { acc := .store, perms := [pSTORE], n := 16, align := 16, capStore := v.valid, extra := kstCheck c reg v a.toNat } with
      | (s, .trap t) => (s, .trap t)
      | (s, .remote) =>
        if v.valid && !v.has pTRANSFER then (s, .trap (.cap cPERM a.toNat true pTRANSFER (addrWord x)))
        else if x % 16 ≠ 0 then (s, .trap (.cap cALIGN reg false 16 (addrWord x)))
        else s.hartTravel h (.storeCap { v with tag := v.valid } false) c x 16 0 0 reg
      | (s, .ok pas _) =>
        (((s.hartWriteCap pas (s.sift { v with tag := v.valid })).pollWaits).flushEvents, .next)

/-! Fetch. -/

/-- Fetches the parcel at `pc`, checked against kc with EXEC (R364). -/
def State.hartParcel (s : State) (h : Hart) (pc : DWord) : State × Except HTrap Nat :=
  match s.hartCheck h false h.kc 17 pc.toNat { acc := .fetch, perms := [pEXEC], n := 2 } with
  | (s, .trap t) => (s, .error t)
  | (s, .remote) => (s, .error .illegal)
  | (s, .ok pas _) =>
    if isOutside pas then (s, .error (.exc 1 pc))
    else
      match s.hartRead pas with
      | (s, none) => (s, .error (poisonTrap 17 pc.toNat))
      | (s, some v) => (s, .ok v)

end Sys2Proof.Machine
end

