-- ==== Sys2Proof/Machine/Launches.lean ====
section
/-! DEFINITION. The launch path as steps of the device (spec/19_objects_queues_launch.md R394-R406, spec/13 R323): loading a
QCB, taking entries, the prologue, validation, distribution, start, and the end of a launch. -/

namespace Sys2Proof.Machine

/-- A LAUNCH waits for this queue. -/
def State.launchWaits (s : State) (pa : Nat) : Bool :=
  s.reqs.any fun r => r.op == .launch && r.obj == pa && r.phase == .sent

/-- The entry that the Hall takes next is published (R395). -/
def State.published (s : State) (pa : Nat) : Bool := s.peek (qcbEntry s pa (qcbRead s pa) + 254) 2 == 1

/-- A queue with an undistributed launch (R396): one taken with work still to distribute, one published that a doorbell has
announced, or a LAUNCH that waits for room (Table 19.12). -/
def State.queueBusy (s : State) (pa : Nat) : Bool :=
  s.launchWaits pa || ((s.queueOf pa).rung && s.published pa)
    || s.launches.any fun l => l.queue == pa &&
      (l.state == .taken || l.state == .prologue || l.state == .prologueEnded || !l.undealt.isEmpty)

/-- When the first of the doorbells and LAUNCHes that wait for an uncached queue arrived. -/
def State.askedAt (s : State) (pa : Nat) : Option Nat :=
  let q := s.queueOf pa
  if q.cached then none
  else ((if q.rung then [q.use] else []) ++ ((s.reqs.filter fun r => r.op == .launch && r.obj == pa && r.phase == .sent).map Request.id)).min?

/-- Another queue of the Hall has waited longer: requests are served in arrival order (R396). -/
def State.askedBefore (s : State) (pa : Nat) : Bool :=
  let others := s.queues.map QueueState.pa ++ (s.reqs.filter fun r => r.op == .launch).map Request.obj
  others.any fun x => (s.queueOf x).die == (s.queueOf pa).die && s.objLive x 7 &&
    (match s.askedAt x, s.askedAt pa with | some a, some b => a < b | _, _ => false)

/-- QCB_LOAD of the queue at physical address `who` (R396): at most 256 per Hall; the least recently used queue without
an undistributed launch makes room. -/
def execQcbLoad (s : State) : Host.Outcome State Fault Refusal :=
  let pa := s.ev.who
  .next (if !s.objLive pa 7 || s.th.quiescent || !s.hallRuns (s.queueOf pa).die then s
    else
      let q := s.queueOf pa
      if q.cached || !(q.rung || s.launchWaits pa) || s.askedBefore pa then s
      else
        let held := s.queues.filter fun x => x.cached && x.die == q.die
        let load (s : State) : State :=
          let (n, s) := s.newId
          let (q, s) := s.openQueue pa
          s.putQueue { q with cached := true, use := n }
        if held.length < 256 then load s
        else
          match (held.filter fun x => !s.queueBusy x.pa).foldl (fun (acc : Option QueueState) x =>
              match acc with | none => some x | some a => if x.use < a.use then some x else some a) none with
          | some x => load (s.putQueue { x with cached := false })
          | none => s)

/-- The Hall takes a queue's next entry: its copy is a launch under the queue's address space and context, and the entry's
valid field and the queue's counts go on (R395). -/
def State.takeEntry (s : State) (q : QueueState) (pa : Nat) : State :=
  let i := qcbRead s pa
  let at_ := qcbEntry s pa i
  let b := ((List.range 256).map fun j => at_ + j).map s.byteAt
  let tags := (List.range 16).foldl (fun (t : BitVec 16) j =>
    if (s.sift (s.capAt (at_ + 16 * j))).tag then t ||| ((1 : BitVec 16) <<< j) else t) 0
  let seq := qcbSeq s pa
  let under := s.underQueue q
  let s := s.putBytes [(at_ + 254, 0, false), (at_ + 255, 0, false)]
  let s := (s.poke (pa + 64) 8 (i + 1)).poke (pa + 72) 8 (seq + 1)
  let (id, s) := s.newId
  { s with launches := s.launches ++ [under (launchOf id pa q.die seq b tags)] }

/-- QUEUE_ENTRY_TAKE of the queue at `who` (R395): the next published entry becomes a launch; an entry not published
stops the Hall until the next doorbell. -/
def execQueueEntryTake (s : State) : Host.Outcome State Fault Refusal :=
  let pa := s.ev.who
  .next (match s.queue? pa with
    | none => s
    | some q =>
      if !(q.cached && q.rung) || s.th.quiescent || !s.objLive pa 7 || !s.hallRuns q.die then s
      else
        let (n, s) := s.newId
        let s := s.putQueue { q with use := n }
        if s.published pa then s.takeEntry q pa else s.putQueue { q with rung := false, use := n })

/-- The published entries of a queue are taken in order, to be rejected; `fuel` bounds them (R432). -/
def State.rejectPublished (pa : Nat) (q : QueueState) : Nat → State → State
  | 0, s => s
  | fuel + 1, s =>
    if s.published pa then
      let s := s.takeEntry q pa
      rejectPublished pa q fuel (match s.launches.getLast? with | some l => s.refuse l 9 | none => s)
    else s

/-- An earlier launch of the queue has not been accepted (R404). -/
def State.behind (s : State) (l : Launch) : Bool :=
  s.launches.any fun x => x.queue == l.queue && x.seq < l.seq &&
    (x.state == .taken || x.state == .prologue || x.state == .prologueEnded)

/-- PROLOGUE_START of launch `who` (R401): one prologue at a time on a Hall's scalar unit. -/
def execPrologueStart (s : State) : Host.Outcome State Fault Refusal :=
  .next (match s.launch? s.ev.who with
    | none => s
    | some l =>
      if l.state ≠ .taken || l.prologue.isNull || !s.hallRuns l.die || (s.wgs.any fun w => w.prologue && w.core == 1024 + l.die) then s
      else
        let (q, s) := s.openQueue l.queue
        if !s.queueUsable q || fieldBad l.prologue 1 [] true then s.refuse l 1
        else if s.queueEnded q then s.refuse l 9
        else
          let l := { s.underQueue q l with state := .prologue }
          (s.setLaunch l).placePrologue l)

/-- Another launch that names the SCHEDULE has not completed (Table 19.12). -/
def State.scheduleBusy (s : State) (l : Launch) : Bool :=
  !l.schedule.isNull && s.launches.any fun x => x.id != l.id && x.sched == some l.schedule.objPa

/-- The coverage map becomes zero, and the parcels that were prefetched from it are gone (R317, R393). -/
def State.clearMap (s : State) (pa : Nat) : State :=
  { s.putBytes ((List.range (s.objSize pa - 256)).map fun i => (pa + 256 + i, 0, false)) with
    prefetches := s.prefetches.filter fun p => p.sched != pa }
/-- The schedule's registers and map as acceptance leaves them (R309, R393). -/
def State.initSchedule (s : State) (l : Launch) (pa : Nat) : State :=
  let values := (List.range 16).map fun n => (n, s.initialReg l pa n)
  (values.foldl (fun s (n, x) => (s.setSchedCur pa n x).setSchedPend pa n x) s).clearMap pa
/-- What a repeat resets: GEN and the coverage map (R406). -/
def State.repeatSchedule (s : State) (pa : Nat) : State := (s.setSchedCur pa 1 1).clearMap pa

/-- Workgroups that acceptance leaves to deal: of each placed core, or all of the launch's (R312, R404, R405). -/
def State.toDeal (s : State) (l : Launch) : Launch :=
  match l.sched with
  | some pa =>
    let cores := (((List.range 64).filter (s.quadPlaced pa)).map (quadCores (schedDie pa))).flatten
    { l with
      undealt := cores.zipIdx.map fun (c, i) => (c, l.count, i * l.count)
      nextWgid := cores.length * l.count }
  | none => { l with undealt := [(l.die, l.count, 0)], nextWgid := l.count }

/-- LAUNCH_VALIDATE of launch `who` (R399): rejected, which waits for no earlier launch, or accepted in its turn with its
context's priority (R400, R404, Table 19.12). -/
def execLaunchValidate (s : State) : Host.Outcome State Fault Refusal :=
  .next (match s.launch? s.ev.who with
    | none => s
    | some l =>
      if !(l.state == .prologueEnded || (l.state == .taken && l.prologue.isNull)) || !s.hallRuns l.die then s
      else
        let waits := s.behind l || s.scheduleBusy l
        match s.validate l with
        | (s, .error e) => s.refuse l e
        | (s, .ok l) =>
          if waits then s else
          let l := { l with state := .accepted, prio := s.peek (l.ctx + 16) 1 % 16,
                            sched := if l.schedule.isNull then none else some l.schedule.objPa }
          let s := match l.sched with | some pa => s.initSchedule l pa | none => s
          let l := s.toDeal l
          { s with launches := (s.launches.filter fun (x : Launch) => x.id != l.id) ++ [l] })

/-- Dies in ring order from a die on (R3): A0, A1, A3, A2. -/
def ringFrom (die : Nat) : List Nat :=
  let ring := [0, 1, 3, 2]
  let i := (ring.findIdx? fun d => d == die).getD 0
  ring.drop i ++ ring.take i

/-- Whether some core of a die has room for a launch. -/
def State.dieRoom (s : State) (l : Launch) (die : Nat) : Bool :=
  (List.range 256).any fun j => s.hasRoom (die * 256 + j) (s.core (die * 256 + j)).active l.need

/-- The entry of `undealt` from which a core may receive a workgroup: its own when scheduled; else that of the die whose
turn it is (R404). -/
def State.dealEntry (s : State) (l : Launch) (core : Nat) : Option (Nat × Nat × Nat) :=
  l.undealt.find? fun (key, _) =>
    match l.sched with
    | some _ => key == core
    | none =>
      if l.flags.getLsbD 2 then (ringFrom key).find? (s.dieRoom l) == some (dieOfCore core) else dieOfCore core == l.die

/-- An earlier accepted launch of the queue at the same priority is still to be dealt (R404). -/
def State.dealtBefore (s : State) (l : Launch) : Bool :=
  s.launches.any fun x => x.queue == l.queue && x.prio == l.prio && x.seq < l.seq && !x.undealt.isEmpty

/-- A workgroup's effective priority: the highest of its live threads' (R261). -/
def State.wgPrio (s : State) (w : Workgroup) : Nat :=
  (w.threads.filter Thread.live).foldl (fun p t => max p (s.effPrio (.thread w.id t.tid)))
    (match s.launch? w.launch with | some l => l.prio | none => 0)
/-- A launch's effective priority, at which its undistributed workgroups compete: the highest of its context's and of those
of its placed workgroups (R261; log 82). -/
def State.launchPrio (s : State) (l : Launch) : Nat :=
  (s.wgs.filter fun w => w.launch == l.id).foldl (fun p w => max p (s.wgPrio w)) l.prio

/-- The launch that a core receives a workgroup of: highest effective priority, then the earliest accepted (R261, R404),
among those that have one for this core and room for it there (log 82). -/
def State.chooseLaunch (s : State) (core bank : Nat) : Option Launch :=
  (s.launches.filter fun l => (l.state == .accepted || l.state == .distributed) && (s.dealEntry l core).isSome
      && s.hasRoom core bank l.need && !s.dealtBefore l).foldl (fun (acc : Option Launch) l =>
    match acc with | none => some l | some a => if s.launchPrio a < s.launchPrio l then some l else some a) none

/-- One workgroup fewer to deal from an entry; an unscheduled launch's turn passes to the next die of the ring (R405). -/
def Launch.dealFrom (l : Launch) (e : Nat × Nat × Nat) (core : Nat) : Launch :=
  let (key, n, wgid) := e
  let key' := match l.sched with | some _ => key | none => if l.flags.getLsbD 2 then (ringFrom (dieOfCore core)).getD 1 0 else key
  let rest := if n ≤ 1 then [] else [(key', n - 1, wgid + 1)]
  { l with
    undealt := (l.undealt.map fun x => if x == e then rest else [x]).flatten
    state := .distributed }

/-- Deals one workgroup of a launch to a bank of a core (R404), validating the launch again before its first (R399). That second
validation reads again all that the first did, the SCHEDULE's initial image too (DESIGN CHOICE, log 82). -/
def State.dealOne (s : State) (l : Launch) (core bank : Nat) : State :=
  let checked : State × Except Nat Launch := if l.state = .accepted then s.validate l else (s, .ok l)
  match checked with
  | (s, .error e) => s.refuse l e
  | (s, .ok l) =>
    match s.dealEntry l core with
    | none => s
    | some e =>
      let l := l.dealFrom e core
      (s.setLaunch l).placeWg l core bank e.2.2 id

/-- WORKGROUP_DISTRIBUTE to core `who` (R404). -/
def execWorkgroupDistribute (s : State) : Host.Outcome State Fault Refusal :=
  let core := s.ev.who
  let bank := (s.core core).active
  .next (match s.chooseLaunch core bank with
    | some l => s.dealOne l core bank
    | none => s)

/-- WORKGROUP_START of workgroup `who`: its start state is loaded, and issue begins (R42). -/
def execWorkgroupStart (s : State) : Host.Outcome State Fault Refusal :=
  .next (match s.wg? s.ev.who with
    | some w =>
      if w.life = .loading ∧ w.bank = (s.core w.core).active then
        s.beginWg w (match s.launch? w.launch with | some l => if l.flags.getLsbD 1 then max 3 l.scope else l.scope | none => 0)
      else s
    | none => s)

/-! The end of a launch (R406). -/

/-- R333 holds. -/
def State.tasksEnded (s : State) (launch : Nat) : Bool := !(s.tasks.any fun t => t.launch == launch)

/-- LAUNCH_FINISH of launch `who`: every workgroup has retired, so its flush probes leave. -/
def execLaunchFinish (s : State) : Host.Outcome State Fault Refusal :=
  .next (match s.launch? s.ev.who with
    | none => s
    | some l =>
      if (l.state == .distributed || l.state == .accepted) && l.undealt.isEmpty
          && !(s.wgs.any fun w => w.launch == l.id) && s.tasksEnded l.id then
        s.setLaunch { l with state := .probing l.probes }
      else s)

/-- COMPLETION_STAMP_WRITE of launch `who`: its probes have been answered, so that every store has been performed, and the
dies' dirty lines are written back (R118); a rejected launch gets its error; else the launch repeats from the record that was
taken, or its stamp is written and cnotify signalled (R406). A stamp that fails is counted and reported as event 3. What an
earlier PDIM set does not survive a repeat, whose prologue runs again (DESIGN CHOICE, log 82). -/
def execCompletionStampWrite (s : State) : Host.Outcome State Fault Refusal :=
  .next (match s.launch? s.ev.who with
    | none => s
    | some l =>
      if l.state ≠ .probing [] then s
      else
      let s := if 3 ≤ l.rscope then [0, 1, 2, 3].foldl (fun s d => s.writeBackDie d) s else s
      if l.error ≠ 0 then (s.reject l l.error).pollWaits
      else if l.repeats then
        let s := match l.sched with | some pa => s.repeatSchedule pa | none => s
        (s.setLaunch { launchOf l.id l.queue l.die l.seq l.record l.rtags with
          asid := l.asid, ctx := l.ctx, scope := l.scope, sched := l.sched }).pollWaits.flushEvents
      else
        let s :=
          if l.stamp.isNull then s
          else
            match s.writeStamp l l.seq with
            | (s, none) => s
            | (s, some code) => s.stampFailed l code
        let (s, _) := s.signalDone l
        (s.dropLaunch l.id).pollWaits.flushEvents)

end Sys2Proof.Machine
end

