-- ==== Sys2Proof/Machine/HartMsg.lean ====
section
/-! DEFINITION. Messages and notifications from a hart (spec/18 R376-R379), omake (R375, spec/19 R387-R393), teardown of an
address space (spec/20 R425, R426), the start of a sweep (spec/21 R431) and revocation of an object (R432). -/

namespace Sys2Proof.Machine

/-! Registers of a message. -/

/-- a0 is x10, t0 is x5. -/
def Hart.argReg (h : Hart) (i : Nat) : DWord := h.xr (BitVec.ofNat 5 (10 + i))
def Hart.argWord (h : Hart) (i : Nat) : Word := (h.argReg i).extractLsb' 0 32
def Hart.t0 (h : Hart) : DWord := h.xr 5
def Hart.label (h : Hart) : BitVec 20 := h.t0.extractLsb' 0 20

/-- A transferred capability register of a message: none for k0. -/
def Hart.sent (h : Hart) (k : BitVec 5) : Option Cap := if k = 0 then none else some { h.kr k with tag := (h.kr k).valid }

/-- The message that a form sends (R376). -/
def Hart.message (h : Hart) (count x y : Nat) (label : BitVec 20) (call : Bool) (sender : Party) : Msg :=
  { label := label
    vals := (List.range count).map h.argWord
    cap0 := h.sent (BitVec.ofNat 5 x)
    cap1 := h.sent (BitVec.ofNat 5 y)
    call := call
    sender := sender }

def capTrap (code : BitVec 8) (k : BitVec 5) (second : Bool) (detail : Nat) (c : Cap) : HTrap :=
  .cap code k.toNat second detail c.cursor

/-- Checks of kX0 and kX1 (R272): the register at fault is the second operand. -/
def Hart.transferCheck (h : Hart) (k : BitVec 5) : Option HTrap :=
  let c := h.kr k
  if k = 0 ∨ !c.valid then none
  else if !c.has pTRANSFER then some (capTrap cPERM k true pTRANSFER c)
  else if !c.has pGLOBAL then some (capTrap cPERM k true pGLOBAL c)
  else none

/-- Checks of kE before its type decides (R272, R387): tag, otype among `types` or remote, INVOKE, whose lack in a REVOKER
capability is PERM 117 (R431), a live header. -/
def State.hartEk (s : State) (h : Hart) (e : BitVec 5) (types : List Nat) : Option HTrap :=
  let c := h.kr e
  if !c.valid then some (capTrap cTAG e false 0 c)
  else if !c.remote && !types.contains c.otype.toNat then some (capTrap cOTYPE e false c.otype.toNat c)
  else if !c.has pINVOKE then some (capTrap cPERM e false (if c.otype = 10 then pSYSTEM else pINVOKE) c)
  else if !c.remote && !s.objLive c.objPa c.otype.toNat then some (capTrap cTAG e false 0 c)
  else none

/-- ENDPOINT with a detail, for the register kE. -/
def Hart.epTrap (h : Hart) (e : BitVec 5) (detail : Nat) : HTrap := capTrap cENDPOINT e false detail (h.kr e)

/-! Ends of message instructions. -/

/-- Receipt (R376): values, t0 with the message word and the status, capability registers. -/
def Hart.receive (h : Hart) (m : Msg) (count kx0 kx1 : Nat) (unregistered : Bool) : Hart :=
  let h := (List.range count).foldl (fun (h : Hart) i =>
    h.setX (BitVec.ofNat 5 (10 + i)) ((m.vals.getD i 0).signExtend 64)) h
  let h := h.setX 5 (setBit64 (m.word.zeroExtend 64) 32 unregistered)
  let h := h.setK (BitVec.ofNat 5 kx0) (m.cap0.getD .null)
  h.setK (BitVec.ofNat 5 kx1) (m.cap1.getD .null)

/-- Receipt of notification bits (R377); a notification has no message word, so t0<31:0> is a free value (log 3). -/
def State.receiveBits (s : State) (n : Nat) (bits : Word) (unregistered : Bool) : State :=
  let (v, s) := s.fresh
  s.modHart n fun h =>
    (h.setX 10 (bits.signExtend 64)).setX 5 (setBit64 ((v.extractLsb' 0 32).zeroExtend 64) 32 unregistered)

/-- A message of the hart's request is written (R366, R376). -/
def State.hartDone (s : State) (n : Nat) (r : Request) (m : Option Msg) : State :=
  let bits (m : Msg) : Nat := natOfBytes ((m.vals.map fun v => bytesOfNat 4 v.toNat).flatten) % 2 ^ (8 * r.size)
  let rd := BitVec.ofNat 5 r.data
  match r.op, m with
  | .load sx, some m =>
    s.modHart n fun h => if r.kreg = 1 then h.setF rd (loadF r.size (bits m)) else h.setX rd (loadX r.size (!sx) (bits m))
  | .atom .., some m => s.modHart n fun h => h.setX rd (loadX r.size false (bits m))
  | .loadCap _, some m => s.modHart n fun h => h.setK rd (m.cap0.getD .null)
  | .recv count kx0 kx1, some m => s.modHart n fun h => h.receive m count kx0 kx1 (r.pred == 1)
  | .awaitReply count kx0 kx1, some m => s.modHart n fun h => h.receive m count kx0 kx1 (r.pred == 1)
  | .send _, some m => s.modHart n fun h => h.receive m r.size (r.kreg % 16) (r.kreg / 16) (r.pred == 1)
  | .nwait _, some m => s.receiveBits n (m.vals.getD 0 0) (r.pred == 1)
  | _, _ => s

/-- The pending call of the request's slot has ended. -/
def State.clearPending (s : State) (r : Request) : State :=
  match r.who with
  | .hartSlot n i =>
    s.modHart n fun h => h.setSlot i { h.slots.getD i .reset with pending := none, held := none }
  | _ => s

/-- How a request that has been performed, or has failed, ends the hart's instruction; none while it goes on. The origin's
translation failures raise page faults, as the hart's own do (R370). A sweep's
start ends when its register phase has begun (R431). -/
def State.hartEnds (s : State) (n : Nat) (r : Request) : Option (State × HartEnd) :=
  match r.phase with
  | .done _ m =>
    let s := (s.dropReq r.id).clearPending r
    some (s.hartDone n r m, .next)
  | .failed code addr a0 a1 a2 =>
    let f : FaultInfo := ⟨code, addr, a0, a1, a2⟩
    let s := (s.dropReq r.id).clearPending r
    let cur := match s.hart? n with | some h => (h.kr (BitVec.ofNat 5 r.auth)).cursor | none => 0
    let reads := match r.op with | .load _ => true | .loadCap _ => true | _ => false
    some (s, .trap (
      if code = cXLATE ∨ code = cXPERM then .exc (if reads then HAcc.load else HAcc.store).pageFault (BitVec.ofNat 64 r.x)
      else { HTrap.ofFault f r.auth with tval := some (if r.hartWait then cur else BitVec.ofNat 64 r.x) }))
  | .travelling =>
    match r.op, s.sweep with
    | .result, some w => if 2 ≤ w.phase then some (s.dropReq r.id, .next) else none
    | .result, none => some (s.dropReq r.id, .next)
    | _, _ => none
  | _ => none

/-- Ends the instruction at once, or stalls the hart on the request (R378). -/
def State.hartStall (s : State) (n id : Nat) : State × HartEnd :=
  match s.req? id with
  | none => (s, .next)
  | some r =>
    match s.hartEnds n r with
    | some x => x
    | none => (s.modHart n fun h => { h with run := .stalled id }, .waits)

/-- A message request of a hart; `pos` keeps the instruction's length. -/
def messageRequest (id : Nat) (who : Party) (op : ReqOp) (obj size kreg auth : Nat) (remote : Option Cap) : Request :=
  { id := id, batch := id, who := who, launch := 0, name := 0, core := 0, grp := 0, pos := 4, op := op, phase := .sent, x := 0, pas := [], obj := obj,
    size := size, order := 1, scope := 3, strong := true, io := false, cw := true, via := [], chans := [], data := 0, kreg := kreg,
    pred := 7, auth := auth, lowest := true, tag := 0, dests := [], pc := 0, nextPc := 0, nextNew := false,
    unresolved := false, remote := remote, faultCall := false }

/-- Adds a request. -/
def State.addReq (s : State) (r : Request) : State := { s with reqs := s.reqs ++ [r] }

/-- ksend and kcall on an endpoint (R376, R378, R379). -/
def State.hartSend (s : State) (h : Hart) (count x e y : Nat) (call : Bool) : State × HartEnd :=
  let c := h.kr (BitVec.ofNat 5 e)
  match (h.transferCheck (BitVec.ofNat 5 x)).or (h.transferCheck (BitVec.ofNat 5 y)) with
  | some t => (s, .trap t)
  | none =>
    let who : Party := if call then .hartSlot h.id h.kslot.toNat else .hart h.id
    let m := h.message count x y h.label call who
    let (id, s) := s.newId
    if c.remote then
      let s := s.addReq (messageRequest id who (.send m) 0 count (x + 16 * y) e (some c))
      s.hartStall h.id id
    else
      let r := messageRequest id who (.send m) c.objPa count (x + 16 * y) e none
      let (_, s) := s.epScope c.objPa
      (((s.addReq r).sendPerform r m).flushEvents).hartStall h.id id

/-- krecv on an endpoint. -/
def State.hartRecv (s : State) (h : Hart) (nb : Bool) (count x e y : Nat) : State × HartEnd :=
  let c := h.kr (BitVec.ofNat 5 e)
  let (id, s) := s.newId
  let r := { messageRequest id (.hart h.id) (.recv count x y) c.objPa count (x + 16 * y) e none with order := 2 }
  let (_, s) := s.epScope c.objPa
  match (s.addReq r).tryRecv r with
  | (s, true) => s.hartStall h.id id
  | (s, false) =>
    if nb then ((s.dropReq id).modHart h.id fun h => h.setX 5 0x200000000, .next)
    else (s.mustWait r 4 r.obj 0 .unknown).hartStall h.id id

/-- krecv on a notification (R377). -/
def State.hartNwait (s : State) (h : Hart) (nb : Bool) (e : Nat) : State × HartEnd :=
  let pa := (h.kr (BitVec.ofNat 5 e)).objPa
  let mask := nwaitMask (h.argWord 0)
  let (_, s) := s.noteScope pa
  let word := BitVec.ofNat 32 (s.peek (pa + 16) 4)
  if word &&& mask ≠ 0 then
    ((s.poke (pa + 16) 4 (word &&& ~~~mask).toNat).receiveBits h.id (word &&& mask) false, .next)
  else if nb then (s.modHart h.id fun h => h.setX 5 0x200000000, .next)
  else
    let (id, s) := s.newId
    let r := { messageRequest id (.hart h.id) (.nwait (h.argWord 0)) pa 1 0 e none with order := 2 }
    ((s.addReq r).mustWait r 7 pa 0 .unknown).hartStall h.id id

/-- Whom the pending call of a slot waits for: the party that owes the reply (kind 6), room or a receiver at the endpoint
(kind 5); none when nobody holds it any more. -/
def State.callOwner (s : State) (caller : Party) (obj : Nat) : Option (Nat × Holders) :=
  let threads := (s.wgs.map fun w => (w.threads.filter fun t => t.slot == some caller && t.live).map
    fun t => Party.thread w.id t.tid).flatten
  let harts := ((List.range s.harts.length).filter fun n =>
    match s.hart? n with | some h => h.slots.any fun m => m.owed == some caller | none => false).map Party.hart
  match threads ++ harts with
  | p :: _ => some (6, .parties [p])
  | [] => if (s.ep obj).order.any fun o => o.2 == caller then some (5, .unknown) else none

/-- The call of a slot that has gone to another package, or its answer (R379). -/
def Request.away (who : Party) (r : Request) : Bool := r.who == who && r.remote.isSome

/-- A kcall while cp is set (R379): a held reply is written, under the write test (R433), else the hart waits for it. -/
def State.hartAwait (s : State) (h : Hart) (obj count x e y : Nat) : State × HartEnd :=
  let who := Party.hartSlot h.id h.kslot.toNat
  let (id, s) := s.newId
  let r := { messageRequest id who (.awaitReply count x y) obj count (x + 16 * y) e none with order := 2 }
  match s.reqs.find? (Request.away who), h.slot.held with
  | some q, _ => (s.setReq { q with size := count, kreg := x + 16 * y, auth := e }).hartStall h.id q.id
  | none, some m => ((s.clearPending r).modHart h.id fun h => h.receive (s.siftMsg m) count x y false, .next)
  | none, none =>
    match s.callOwner who obj with
    | some (kind, holders) => ((s.addReq r).mustWait r kind obj 0 holders).hartStall h.id id
    | none => (s.clearPending r, .trap (h.epTrap (BitVec.ofNat 5 e) (if s.objLive obj 2 then 2 else 4)))

/-! Teardown (R425, R426). -/

/-- Requests of an address space that still have to be performed, or wait; not the fault messages of held threads. -/
def State.spaceRequests (s : State) (asid : Nat) : List Request :=
  s.reqs.filter fun r =>
    !r.faultCall && s.asidOf r.who == some asid &&
      (match r.phase with | .done _ _ => false | .failed .. => false | _ => true) &&
      (match r.op with
        | .gangWait _ op => (match op.bind s.op? with | some o => o.phase == OpPhase.waiting | none => true)
        | .result => false
        | .follow => false
        | .twait .. => r.phase == .waiting || r.phase == .registering
        | _ => true)

def teardownFault : FaultInfo := .of cTEARDOWN 0

/-- A request fails, and with it the lanes that share its outcome. -/
def State.failShared (s : State) (r : Request) (f : FaultInfo) : State :=
  ((s.fellows r).filter fun q => q.id == r.id || q.op == .follow).foldl (fun s q => s.fail q f) s

/-- Step 2: outstanding accesses and parked waits fail TEARDOWN, with them the operations that wait for readiness; explicit
entries are freed, workgroups that load are abandoned (Tables 1.7 and 11.6). -/
def State.stopSpace (s : State) (asid : Nat) : State :=
  let s := (s.spaceRequests asid).foldl (fun s r => s.failShared r teardownFault) s
  let s := { s with
    ops := s.ops.filter fun (o : EngineOp) => !(o.asid == asid && o.phase == OpPhase.waiting)
    wgs := s.wgs.map fun (w : Workgroup) => if w.asid = asid then { w with latches := [] } else w }
  let mine (p : Party) : Bool := s.asidOf p == some asid
  let s := { s with waits := s.waits.filter fun e => !(11 ≤ e.kind && e.waiters.any mine) }
  (s.wgs.filter fun w => w.asid == asid && w.life == .loading).foldl (fun s w => s.removeWg w.id) s

/-- A launch that has not started any workgroup is rejected; one that has loses what is left to deal (R399, R425). -/
def State.endLaunch (s : State) (l : Launch) : State :=
  match l.state with
  | .taken => s.refuse l 9
  | .prologueEnded => s.refuse l 9
  | .prologue =>
    ((s.wgs.filter fun w => w.prologue && w.launch == l.id).foldl (fun s w => s.removeWg w.id) s).refuse l 9
  | .accepted => s.refuse l 9
  | _ => s.setLaunch { l with undealt := [] }

/-- Step 3: launches of the space, its tasks, its deliveries; published entries of its queues will be taken and rejected. -/
def State.stopLaunches (s : State) (aspace asid : Nat) : State :=
  let ofSpace (l : Launch) : Bool :=
    match s.queue? l.queue with
    | some q => q.opened && q.aspace.objPa == aspace
    | none => l.asid == asid
  let ls := s.launches.filter ofSpace
  let s := { s with tasks := s.tasks.filter fun t => !(ls.any fun l => l.id == t.launch) }
  let claims := s.mailClaims.filter fun m => m.asid == asid
  let s := claims.foldl (fun s m => match m.parcel with | some p => s.abandon m.sched p | none => s) s
  let s := { s with
    reqs := s.reqs.filter fun r => !(claims.any fun m => m.id == r.id)
    mailClaims := s.mailClaims.filter fun m => m.asid != asid }
  let s := ls.foldl State.endLaunch s
  { s with queues := s.queues.map fun (q : QueueState) =>
      if q.opened && q.aspace.objPa == aspace && s.published q.pa then { q with rung := true }
      else q }

/-- Steps 1 to 3 are done and XDONE has counted. -/
def State.spaceStopped (s : State) (aspace asid : Nat) : Bool :=
  !((s.hall (homeOf aspace % 4)).xinv.contains (BitVec.ofNat 64 (asid + 2 ^ 11)))
    && !(s.queues.any fun q => q.opened && q.aspace.objPa == aspace && q.rung)
    && !(s.launches.any fun l => l.asid == asid && l.state == .prologue)
    && (s.spaceRequests asid).isEmpty

/-- Teardown of the ASPACE at `pa`; it repeats harmlessly, and a space whose ASID has been released has none to invalidate. -/
def State.teardown (s : State) (pa : Nat) : State × HartEnd :=
  let asid := s.asidAt pa
  let first := s.peek (pa + 26) 1 == 0
  let s := s.poke (pa + 26) 1 1
  let s := { s with asids := s.asids.map fun (e : AsidEntry) => if e.pa = pa then { e with torn := true } else e }
  let s := if first && asid != 1024 then s.writeXinv (homeOf pa % 4) (BitVec.ofNat 64 (asid + 2 ^ 11)) else s
  let s := ((s.stopSpace asid).stopLaunches pa asid).flushEvents
  (s, if s.spaceStopped pa asid then .next else .waits)

/-- Release of the ASID (R426). -/
def State.releaseAsid (s : State) (pa : Nat) : State × HartEnd :=
  match s.asids.find? fun e => e.pa == pa with
  | none => (s, .next)
  | some e =>
    if (s.launches.any fun l => l.asid == e.asid) || (s.wgs.any fun w => w.asid == e.asid) then (s, .waits)
    else ({ s with asids := s.asids.filter fun x => x.pa != pa }, .next)

/-- ksend on an ASPACE. -/
def State.aspaceSend (s : State) (h : Hart) (count e : Nat) : State × HartEnd :=
  let k := BitVec.ofNat 5 e
  let c := h.kr k
  if !c.has pSYSTEM then (s, .trap (capTrap cPERM k false pSYSTEM c))
  else if count ≠ 0 then (s, .trap (h.epTrap k 5))
  else if h.label = 1 then s.teardown c.objPa
  else if h.label = 2 then s.releaseAsid c.objPa
  else (s, .trap (h.epTrap k 5))

/-! The REVOKER (R431, R432). -/

/-- Granule numbers whose bit is set in the bitmap of n bytes at `pa`: unlisted memory is blank. -/
def State.bitmapBits (s : State) (pa n : Nat) : List Nat :=
  ((s.mem.filter fun c => pa ≤ c.1 && c.1 < pa + n).map fun c =>
    ((List.range 8).filter c.2.getLsbD).map fun i => 8 * (c.1 - pa) + i).flatten

/-- Accepts a sweep: the REVOKER's fields and the snapshot (R429, R430). -/
def State.acceptSweep (s : State) (pa bitmap rlo rlen notify bit : Nat) (pod : Bool) : State :=
  let marked := s.bitmapBits bitmap (rlen / 128)
  let others := if pod then s.podOthers else []
  let s := s.poke (pa + 24) 1 1
  let s := s.poke (pa + 25) 1 (if pod then 1 else 0)
  let s := s.poke (pa + 32) 8 bitmap
  let s := s.poke (pa + 40) 8 rlo
  let s := s.poke (pa + 48) 8 rlen
  let s := s.poke (pa + 56) 8 notify
  let s := s.poke (pa + 64) 1 bit
  let s := { s with sweep := some ⟨1, false, rlo, rlen, marked, pod, notify, bit, others⟩ }
  others.foldl (fun s p => s.fabric p 2 0 (.passRequest p s.ownPkg rlo rlen marked)) s

/-- ksend with label 1 on the REVOKER (R431); a kN without a live header is TAG of its second operand (R387). -/
def State.sweepStart (s : State) (h : Hart) (count x e : Nat) : State × HartEnd :=
  let k := BitVec.ofNat 5 e
  let pa := (h.kr k).objPa
  let pair (i : Nat) : Nat := (h.argWord i).toNat + (h.argWord (i + 1)).toNat * 2 ^ 32
  let bitmap := pair 0
  let rlo := pair 2
  let units := (h.argWord 4).toNat
  let rlen := units * 0x200000
  let a5 := h.argWord 5
  let kn := h.kr (BitVec.ofNat 5 x)
  let bad := count != 6 || a5 &&& 0xFFFFFEE0 != 0 || bitmap % 4096 != 0 || !inHbm bitmap (rlen / 128) || units < 1 || 512 < units
    || rlo % 0x200000 != 0 || decide (2 ^ 64 < rlo + rlen)
    || (x != 0 && !(kn.valid && kn.otype == 3 && kn.has pINVOKE))
  if bad then (s, .trap (h.epTrap k 5))
  else if x != 0 && !s.objLive kn.objPa 3 then (s, .trap (capTrap cTAG (BitVec.ofNat 5 x) true 1 kn))
  else
    let (id, s) := s.newId
    let r := messageRequest id (.hart h.id) .result pa 0 0 e none
    if s.sweep.isSome then ((s.addReq r).mustWait r 5 pa 0 .unknown).hartStall h.id id
    else
      let s := s.acceptSweep pa bitmap rlo rlen (if x = 0 then 0 else kn.objPa) (a5.extractLsb' 0 5).toNat (a5.getLsbD 8)
      (s.addReq { r with phase := .travelling }).hartStall h.id id

/-- Requests that an object's revocation fails (Table 21.2). -/
def State.failWaiters (s : State) (pa : Nat) : State :=
  ((s.reqs.filter fun r => r.obj == pa && (r.phase == .waiting || r.phase == .registering) &&
      (match r.op with | .send _ => true | .recv .. => true | .awaitReply .. => true | .nwait _ => true | _ => false)).foldl
    (fun s r => if r.faultCall then s else s.fail r (endpointFault r 4)) s)

/-- Held threads whose fault message waits at a revoked endpoint cannot be answered: they end (R416). -/
def State.failHeld (s : State) (pa : Nat) : State :=
  (s.reqs.filter fun r => r.obj == pa && r.faultCall && r.phase == .waiting).foldl (fun s r =>
    match r.who with
    | .thread wg tid =>
      match s.heldFor wg tid with
      | some hr => (((s.leaveWaits r.who r.batch).dropReq r.id).event4 wg tid hr.code hr.pc).runActs [.stop wg tid]
      | none => s
    | .engine _ => s.finish r [] (some ⟨0, [2], none, none, false, r.who⟩)
    | _ => (s.leaveWaits r.who r.batch).dropReq r.id) s

/-- "Scheduling context revoked" reaches a workgroup (Table 1.7). -/
def State.ctxRevoked (s : State) (w : Workgroup) : State :=
  if w.prologue then s
  else
    match w.life with
    | .loading => s.removeWg w.id
    | .running => (s.runActs (w.threads.map fun t => .stop w.id t.tid)).retire w.id
    | .suspended =>
      let s := s.runActs (w.threads.map fun t => .stop w.id t.tid)
      (s.modWg w.id fun w => { w with life := .running, saved := none }).retire w.id
    | _ => s

/-- Table 21.2, after the header's state is set. -/
def State.revokeEffect (s : State) (type pa : Nat) : State :=
  match type with
  | 2 => ((s.failWaiters pa).failHeld pa).setEp { s.ep pa with order := [] }
  | 3 => s.failWaiters pa
  | 4 =>
    let s := s.poke (pa + 17) 1 1
    let ls := s.launches.filter fun l => l.ctx == pa
    let s := ls.foldl State.endLaunch s
    let s := { s with tasks := s.tasks.filter fun t => !(ls.any fun l => l.id == t.launch) }
    (s.wgs.filter fun w => ls.any fun l => l.id == w.launch).foldl State.ctxRevoked s
  | 6 => { s with lines := s.lines.filter fun l => l.2 != pa }
  | 7 =>
    let undistributed (l : Launch) : Bool :=
      l.queue == pa && (l.state == .taken || l.state == .prologue || l.state == .prologueEnded || l.state == .accepted)
    let s := (s.launches.filter undistributed).foldl State.endLaunch s
    let s := match s.queue? pa with
      | some q => State.rejectPublished pa q (qcbEntries s pa) s
      | none => s
    { s with queues := s.queues.filter fun q => q.pa != pa }
  | _ => s

/-- ksend with label 2 on the REVOKER (R432). -/
def State.revokeObject (s : State) (h : Hart) (count x e : Nat) : State × HartEnd :=
  let k := BitVec.ofNat 5 e
  let o := h.kr (BitVec.ofNat 5 x)
  if count ≠ 0 then (s, .trap (h.epTrap k 5))
  else if !(o.valid && 2 ≤ o.otype.toNat && o.otype.toNat ≤ 11) then
    (s, .trap (capTrap cOTYPE (BitVec.ofNat 5 x) true o.otype.toNat o))
  else if o.otype = 5 ∨ o.otype = 10 then (s, .trap (h.epTrap k 5))
  else if !s.objLive o.objPa o.otype.toNat then (s, .trap (capTrap cTAG (BitVec.ofNat 5 x) true 1 o))
  else (((s.poke (o.objPa + 1) 1 1).revokeEffect o.otype.toNat o.objPa).flushEvents, .next)

/-- ksend on the REVOKER. -/
def State.revokerSend (s : State) (h : Hart) (count x e : Nat) : State × HartEnd :=
  let k := BitVec.ofNat 5 e
  let c := h.kr k
  if !c.has pSYSTEM then (s, .trap (capTrap cPERM k false pSYSTEM c))
  else if h.label = 1 then s.sweepStart h count x e
  else if h.label = 2 then s.revokeObject h count x e
  else (s, .trap (h.epTrap k 5))

/-! The instructions. -/

/-- ksend by the otype of kE. -/
def State.hartKsend (s : State) (h : Hart) (count : BitVec 4) (x e y : BitVec 5) : State × HartEnd :=
  match s.hartEk h e [2, 3, 5, 10] with
  | some t => (s, .trap t)
  | none =>
    let c := h.kr e
    if c.remote then s.hartSend h count.toNat x.toNat e.toNat y.toNat false
    else
      match c.otype.toNat with
      | 3 =>
        if count ≠ 1 then (s, .trap (h.epTrap e 5))
        else
          let (_, s) := s.noteScope c.objPa
          ((s.nsig c.objPa (h.argWord 0)).flushEvents, .next)
      | 5 => s.aspaceSend h count.toNat e.toNat
      | 10 => s.revokerSend h count.toNat x.toNat e.toNat
      | _ => s.hartSend h count.toNat x.toNat e.toNat y.toNat false

/-- An object operation of a hart: at a quiescent point it is held, and the hart tries again at its next turn (R450). -/
def onHartObject (f : State → Hart → State × HartEnd) : State → Host.Outcome State Fault Refusal :=
  onHart fun s h => if s.th.quiescent then (s, .waits) else f s h

/-- KSEND (R376-R378). -/
def execKsend (count : BitVec 4) (x e y : BitVec 5) : State → Host.Outcome State Fault Refusal :=
  onHartObject fun s h => s.hartKsend h count x e y
/-- ASPACE_TEARDOWN (R425): ksend on an ASPACE, whose label in t0 is 1. -/
def execAspaceTeardown (count : BitVec 4) (x e y : BitVec 5) : State → Host.Outcome State Fault Refusal :=
  onHartObject fun s h => s.hartKsend h count x e y
/-- ASID_RELEASE (R426): ksend on an ASPACE, whose label is 2. -/
def execAsidRelease (count : BitVec 4) (x e y : BitVec 5) : State → Host.Outcome State Fault Refusal :=
  onHartObject fun s h => s.hartKsend h count x e y
/-- SWEEP_START (R431): ksend on the REVOKER, whose label is 1. -/
def execSweepStart (count : BitVec 4) (x e y : BitVec 5) : State → Host.Outcome State Fault Refusal :=
  onHartObject fun s h => s.hartKsend h count x e y
/-- OBJECT_REVOKE (R432): ksend on the REVOKER, whose label is 2. -/
def execObjectRevoke (count : BitVec 4) (x e y : BitVec 5) : State → Host.Outcome State Fault Refusal :=
  onHartObject fun s h => s.hartKsend h count x e y

/-- KRECV (R376-R378): a remote object faults SEALED. -/
def execKrecv (nb : Bool) (count : BitVec 4) (x e y : BitVec 5) : State → Host.Outcome State Fault Refusal :=
  onHartObject fun s h =>
    match s.hartEk h e [2, 3] with
    | some t => (s, .trap t)
    | none =>
      let c := h.kr e
      if c.remote then (s, .trap (capTrap cSEALED e false 0 c))
      else if c.otype = 3 then
        if count ≠ 1 then (s, .trap (h.epTrap e 5)) else s.hartNwait h nb e.toNat
      else s.hartRecv h nb count.toNat x.toNat e.toNat y.toNat

/-- KCALL (R376, R379). -/
def execKcall (count : BitVec 4) (x e y : BitVec 5) : State → Host.Outcome State Fault Refusal :=
  onHartObject fun s h =>
    match h.slot.pending with
    | some obj => s.hartAwait h obj count.toNat x.toNat e.toNat y.toNat
    | none =>
      match s.hartEk h e [2] with
      | some t => (s, .trap t)
      | none => s.hartSend h count.toNat x.toNat e.toNat y.toNat true

/-- KREPLY (R379): answers the caller held in the selected slot. -/
def execKreply (count : BitVec 4) (x y : BitVec 5) : State → Host.Outcome State Fault Refusal :=
  onHartObject fun s h =>
    match h.slot.owed with
    | none => (s, .trap (h.epTrap 0 3))
    | some caller =>
      match (h.transferCheck x).or (h.transferCheck y) with
      | some t => (s, .trap t)
      | none =>
        let s := s.setOwed (.hart h.id) none
        (((s.replyTo caller (h.message count.toNat x.toNat y.toNat 0 false (.hart h.id))).1).flushEvents, .next)

/-! omake (R375, R387-R393). -/

/-- What Table 19.1 gives a type for an argument: size, alignment, permissions; none when the argument is out of range. -/
def objectForm (type arg : Nat) : Option (Nat × Nat × List Nat) :=
  let zero (x : Nat × Nat × List Nat) : Option (Nat × Nat × List Nat) := if arg = 0 then some x else none
  let igt := [pINVOKE, pGLOBAL, pTRANSFER]
  match type with
  | 2 => if arg ≤ 255 then some (128 + 128 * arg, 128, igt) else none
  | 3 => zero (64, 64, igt)
  | 4 => zero (64, 64, igt)
  | 5 => zero (64, 64, igt ++ [pSYSTEM])
  | 6 => if arg ≤ 23 then some (64, 64, [pINVOKE, pGLOBAL]) else none
  | 7 => if [2, 4, 8, 16, 32, 64, 128, 256, 512, 1024, 2048, 4096].contains arg then some (256 + 256 * arg, 256, igt) else none
  | 8 => if 1 ≤ arg ∧ arg ≤ 2 ^ 20 then some (256 + 128 * ((arg + 511) / 512), 256, igt ++ [pLOAD, pSTORE]) else none
  | 9 => zero (256, 128, igt)
  | 10 => zero (256, 256, [pINVOKE, pGLOBAL, pSYSTEM])
  | 11 => if arg % 4096 = 0 ∧ 8192 ≤ arg then some (arg, 4096, igt) else none
  | _ => none

def State.freeAsid (s : State) : Option Nat := (List.range 1024).find? fun a => !(s.asids.any fun e => e.asid == a)
def State.freeDoorbell (s : State) : Option Nat := (List.range 4096).find? fun a => !(s.queues.any fun q => q.num == a)
/-- A type's resource is exhausted (Table 19.1). -/
def State.noResource (s : State) (type arg : Nat) : Bool :=
  match type with
  | 5 => s.freeAsid.isNone
  | 6 => s.lines.any fun l => l.1 == arg
  | 7 => s.freeDoorbell.isNone
  | 10 => s.revoker.isSome
  | _ => false

/-- A range of whole granules becomes zeros without tags, poison or reservations; caches give up its lines (R98, R102). -/
def State.zeroRange (s : State) (pa n : Nat) : State :=
  let inside (a : Nat) : Bool := pa ≤ a && a < pa + n
  let holds (line : Nat) : Bool := pa < 128 * line + 128 && 128 * line < pa + n
  { s with
    l1 := s.l1.filter fun x => !holds x.2
    directory := s.directory.filter fun line => !holds line
    mem := s.mem.filter fun c => !inside c.1
    tags := s.tags.filter fun g => !inside (16 * g)
    poison := s.poison.filter fun g => !inside (16 * g)
    reservations := s.reservations.filter fun r => !inside r.2 }

/-- The object's memory as omake leaves it (R387-R393), and what the device keeps for it. -/
def State.initObject (s : State) (type arg at_ size : Nat) : State :=
  let s := s.zeroRange at_ (if type = 11 then 64 else size)
  let s := s.poke at_ 8 (type + size * 2 ^ 16)
  let s := { s with
    eps := s.eps.filter fun e => e.pa != at_
    notes := s.notes.filter fun e => e.pa != at_
    sizes := (s.sizes.filter fun x => x.1 != at_) ++ [(at_, size)] }
  match type with
  | 2 => s.poke (at_ + 16) 1 3
  | 3 => s.poke (at_ + 20) 1 3
  | 5 =>
    let asid := s.freeAsid.getD 0
    { s.poke (at_ + 24) 2 asid with asids := s.asids ++ [⟨asid, at_, false, none⟩] }
  | 6 => { s.poke (at_ + 16) 1 arg with lines := s.lines ++ [(arg, at_)] }
  | 7 =>
    let n := s.freeDoorbell.getD 0
    let s := (s.poke (at_ + 52) 4 n).poke (at_ + 72) 8 1
    { s with queues := s.queues ++ [⟨at_, n, homeOf at_ % 4, false, .null, .null, 0, false, false, 0⟩] }
  | 8 => { s.poke (at_ + 208) 1 (homeOf at_ % 4) with grains := (s.grains.filter fun g => g.1 != at_) ++ [(at_, arg)] }
  | 10 => { s with revoker := some at_ }
  | 11 => s.poke (at_ + 16) 8 64
  | _ => s

def roundUp (x a : Nat) : Nat := (x + a - 1) / a * a

/-- OMAKE (R375); the capability it writes meets the write test of a sweep (R433). An object outside HBM4E and the vaults is cause 28 with XPERM, detail 1 (R387). -/
def execOmake (d u t : BitVec 5) : State → Host.Outcome State Fault Refusal :=
  onHartObject fun s h =>
    let c := h.kr u
    let w := h.xr t
    let type := (w.extractLsb' 0 8).toNat
    let arg := (w.extractLsb' 8 40).toNat
    let flt (code : BitVec 8) (detail : Nat) : State × HartEnd := (s, .trap (capTrap code u false detail c))
    if !c.valid then flt cTAG 0
    else if c.otype ≠ 11 then flt cOTYPE c.otype.toNat
    else if !c.has pINVOKE then flt cPERM pINVOKE
    else if !s.objLive c.objPa 11 then flt cTAG 0
    else if type < 2 ∨ 11 < type ∨ w.extractLsb' 48 16 ≠ 0 then flt cOTYPE type
    else
      match objectForm type arg with
      | none => flt cOTYPE type
      | some (size, align, perms) =>
        if s.noResource type arg then flt cOTYPE type
        else
          let at_ := roundUp (c.objPa + s.peek (c.objPa + 16) 8) align
          let last := spaceOf (at_ + size - 1)
          if c.top < at_ + size then flt cBOUNDS 0
          else if !((spaceOf at_ == .hbm || spaceOf at_ == .vault) && last == spaceOf at_) then flt cXPERM 1
          else if type = 8 ∧ spaceOf at_ ≠ .vault then flt cOTYPE type
          else
            let s := s.poke (c.objPa + 16) 8 (at_ + size - c.objPa)
            let s := s.initObject type arg at_ size
            (s.modHart h.id fun h => h.setK d (s.sift (Cap.make at_ size (c.perms &&& permSet perms) (BitVec.ofNat 18 type))), .next)

end Sys2Proof.Machine
end

