-- ==== Sys2Proof/Machine/Sweeps.lean ====
section
/-! DEFINITION. Revocation sweeps (spec/21_revocation.md R428-R436): the phases of a sweep as steps of the device, and the
passes that packages of a pod run for each other. -/

namespace Sys2Proof.Machine

/-- A test of a capability: whether its tag is to be cleared. -/
abbrev CapTest := Cap → Bool

def clean (t : CapTest) (c : Cap) : Cap := if t c then { c with tag := false } else c

def Msg.clean (t : CapTest) (m : Msg) : Msg := { m with cap0 := m.cap0.map (Machine.clean t), cap1 := m.cap1.map (Machine.clean t) }

def Wr.clean (t : CapTest) : Wr → Wr
  | .k tid n c po => .k tid n (Machine.clean t c) po
  | w => w

def ReqOp.clean (t : CapTest) : ReqOp → ReqOp
  | .storeCap c po => .storeCap (Machine.clean t c) po
  | .send m => .send (m.clean t)
  | .reply p m => .reply p (m.clean t)
  | .spawn e o lo hi => .spawn (Machine.clean t e) (Machine.clean t o) lo hi
  | op => op

def Phase.clean (t : CapTest) : Phase → Phase
  | .done ws m => .done (ws.map (Wr.clean t)) (m.map (Msg.clean t))
  | p => p

/-- What is in flight is tested where it lands, at the latest when the registers are (R433, R435). -/
def Request.clean (t : CapTest) (r : Request) : Request :=
  { r with op := r.op.clean t, phase := r.phase.clean t, remote := r.remote.map (Machine.clean t) }

def Thread.clean (t : CapTest) (x : Thread) : Thread :=
  { x with k := x.k.map fun k => { k with cap := Machine.clean t k.cap }, pcc := Machine.clean t x.pcc }

/-- A workgroup's k-registers, pccs and results on their way. -/
def Workgroup.clean (t : CapTest) (w : Workgroup) : Workgroup :=
  { w with threads := w.threads.map (Thread.clean t), pend := w.pend.map fun p => { p with wr := p.wr.clean t } }

/-- k0-k15 and the special capability registers (Table 21.3). -/
def Hart.clean (t : CapTest) (h : Hart) : Hart :=
  { h with
    k := h.k.map (Machine.clean t)
    kd := Machine.clean t h.kd
    kc := Machine.clean t h.kc
    kmtc := Machine.clean t h.kmtc
    kmtd := Machine.clean t h.kmtd
    kmepc := Machine.clean t h.kmepc
    kstc := Machine.clean t h.kstc
    kstd := Machine.clean t h.kstd
    ksepc := Machine.clean t h.ksepc }

/-- The register phase; saved contexts lie in memory. -/
def State.cleanRegisters (s : State) (t : CapTest) : State :=
  { s with
    wgs := s.wgs.map fun w => if w.saved.isSome then w else w.clean t
    harts := s.harts.map (Hart.clean t)
    reqs := s.reqs.map (Request.clean t) }

/-- The memory phase: tags of the granules at the home and in copies, saved contexts, and the summary bits of pages that
hold no tag any more (R65). -/
def State.cleanMemory (s : State) (t : CapTest) : State :=
  let tags := s.tags.filter fun g => !t (s.capAt (16 * g))
  let copyTags (c : LineCopy) : BitVec 8 := (List.range 8).foldl (fun (x : BitVec 8) g =>
    let v := Cap.ofBits true (c.data.extractLsb' (128 * g) 128)
    if c.tags.getLsbD g && t v then setBit8 x g false else x) c.tags
  { s with
    tags := tags
    summary := s.summary.filter fun p => tags.any fun g => g / 256 == p
    copies := s.copies.map fun (c : LineCopy) => { c with tags := copyTags c }
    wgs := s.wgs.map fun w => if w.saved.isSome then w.clean t else w }

/-- The record's tags as the test leaves them. -/
def cleanRecordTags (t : CapTest) (b : List Byte) (tags : BitVec 16) : BitVec 16 :=
  (List.range 16).foldl (fun (x : BitVec 16) i =>
    if t (recCap b tags i) then x &&& ~~~((1 : BitVec 16) <<< i) else x) tags

def Launch.clean (t : CapTest) (l : Launch) : Launch :=
  { l with
    entry := Machine.clean t l.entry
    args := Machine.clean t l.args
    schedule := Machine.clean t l.schedule
    fault := Machine.clean t l.fault
    stamp := Machine.clean t l.stamp
    cnotify := Machine.clean t l.cnotify
    prologue := Machine.clean t l.prologue
    work := Machine.clean t l.work
    rtags := cleanRecordTags t l.record l.rtags }

def TensorRec.clean (t : CapTest) (r : TensorRec) : TensorRec :=
  { r with
    data := Machine.clean t r.data
    peer := Machine.clean t r.peer
    stamp := Machine.clean t r.stamp
    cbook := Machine.clean t r.cbook }

def MsgSlot.clean (t : CapTest) (m : MsgSlot) : MsgSlot := { m with held := m.held.map (Msg.clean t) }

/-- The state phase: Hall state, engine operations and latches, message slots, the Threshold's issued roots. -/
def State.cleanState (s : State) (t : CapTest) : State :=
  let cleanLatch (l : Latch) : Latch := { l with arrivals := l.arrivals.map fun a => { a with kreg := clean t a.kreg } }
  { s with
    launches := s.launches.map (Launch.clean t)
    queues := s.queues.map fun (q : QueueState) => { q with ctx := clean t q.ctx, aspace := clean t q.aspace }
    tasks := s.tasks.map fun (x : Task) => { x with entry := clean t x.entry, operands := clean t x.operands }
    ops := s.ops.map fun (o : EngineOp) => { o with record := o.record.map (TensorRec.clean t) }
    wgs := s.wgs.map fun (w : Workgroup) => { w with latches := w.latches.map cleanLatch }
    harts := s.harts.map fun (h : Hart) => { h with slots := h.slots.map (MsgSlot.clean t) }
    th := { s.th with roots := s.th.roots.map (clean t) } }

/-- The sweep's test (R429). -/
def Sweep.test (w : Sweep) : CapTest := revokedBy w.rlo w.rlen w.marked

/-- The sweep reaches a phase, which the REVOKER's status shows (Table 21.1). -/
def State.sweepPhase (s : State) (w : Sweep) (phase : Nat) : State :=
  let s := { s with sweep := some { w with phase := phase } }
  match s.revoker with
  | some pa => s.poke (pa + 24) 1 phase
  | none => s

/-- Every die's dirty lines are written back; waits for words look at what that wrote (R269). -/
def State.writeBackAll (s : State) : State :=
  ([0, 1, 2, 3].foldl (fun s d => s.writeBackDie d) s).pollWaits.flushEvents

/-- SWEEP_REGISTER_PHASE: the start phase ends with the write-back of every die's dirty lines and the write test in force; in
the phase that follows the registers are tested (Table 21.3). -/
def execSweepRegisterPhase (s : State) : Host.Outcome State Fault Refusal :=
  .next (match s.sweep with
    | some w =>
      if w.phase = 1 then s.writeBackAll.sweepPhase w 2
      else if w.phase = 2 then { s.cleanRegisters w.test with sweep := some { w with scanned := true } }
      else s
    | none => s)

/-- SWEEP_MEMORY_PHASE, once the registers have been tested (Table 21.3). -/
def execSweepMemoryPhase (s : State) : Host.Outcome State Fault Refusal :=
  .next (match s.sweep with
    | some w => if w.phase ≠ 2 || !w.scanned then s else (s.sweepPhase w 3).cleanMemory w.test
    | none => s)

/-- SWEEP_STATE_PHASE (Table 21.3). -/
def execSweepStatePhase (s : State) : Host.Outcome State Fault Refusal :=
  .next (match s.sweep with
    | some w => if w.phase ≠ 3 then s else (s.sweepPhase w 4).cleanState w.test
    | none => s)

/-- The test of a pass for another package (R436): remote capabilities of that source, their carried bits decoded by R58. -/
def RemotePass.test (p : RemotePass) : CapTest := fun (c : Cap) =>
  c.valid && c.remote && c.source == p.source && c.bounds.isSome && p.rlo ≤ c.base && c.base < p.rlo + p.rlen
    && NSet.has p.marked ((c.base - p.rlo) / 16)

/-- Runs a pass through the phases and acknowledges it. -/
def State.runPass (s : State) (p : RemotePass) : State :=
  let s := s.writeBackAll
  (((s.cleanRegisters p.test).cleanMemory p.test).cleanState p.test).fabric p.source 2 0 (.passAck p.source)

/-- Passes that waited for this package's sweep. -/
def State.runPasses (s : State) : State := s.passes.foldl State.runPass { s with passes := [] }

/-- The sweep completes (Table 21.3): gen advances, then the completion bit is signalled; waiting passes run. -/
def State.finishSweep (s : State) (w : Sweep) : State :=
  let s := match s.revoker with
    | some pa => (s.poke (pa + 16) 8 (s.peek (pa + 16) 8 + 1)).poke (pa + 24) 1 0
    | none => s
  let s := { s with sweep := none }
  let s := if w.notify = 0 then s else s.signal w.notify w.bit
  s.runPasses.pollWaits.flushEvents

/-- SWEEP_COMPLETE: without outstanding passes the sweep completes; else it awaits them. -/
def execSweepComplete (s : State) : Host.Outcome State Fault Refusal :=
  .next (match s.sweep with
    | some w => if w.phase ≠ 4 then s else if w.waiting.isEmpty then s.finishSweep w else s.sweepPhase w 5
    | none => s)

/-- Granule numbers of a snapshot's bytes. -/
def snapshotBits (b : List Byte) : List Nat :=
  (b.zipIdx.map fun (x, j) => ((List.range 8).filter x.getLsbD).map fun i => 8 * j + i).flatten

/-- REMOTE_PASS_REQUEST from package `who` over [`value`, `value` + `value2`) with the snapshot `bytes` (R436). -/
def execRemotePassRequest (s : State) : Host.Outcome State Fault Refusal :=
  let p : RemotePass := ⟨s.ev.who, s.ev.value.toNat, s.ev.value2.toNat, snapshotBits s.ev.bytes⟩
  .next (if s.sweep.isSome then { s with passes := s.passes ++ [p] } else s.runPass p)

/-- REMOTE_PASS_ACK from package `who`. -/
def execRemotePassAck (s : State) : Host.Outcome State Fault Refusal :=
  .next (match s.sweep with
    | some w =>
      let w := { w with waiting := w.waiting.filter fun p => p != s.ev.who }
      if w.phase = 5 ∧ w.waiting.isEmpty then s.finishSweep w else { s with sweep := some w }
    | none => s)

/-- REMOTE_PASS_TIMEOUT: status 6, gen unchanged (R436). -/
def execRemotePassTimeout (s : State) : Host.Outcome State Fault Refusal :=
  .next (match s.sweep with
    | some w =>
      if w.phase ≠ 5 then s
      else
        let s := s.sweepPhase w 6
        ({ s with sweep := none } : State).runPasses.flushEvents
    | none => s)

end Sys2Proof.Machine
end

