-- ==== Sys2Proof/Machine/Fleet.lean ====
section
/-! DEFINITION. The fleet commands of the mailbox (spec/24 R461-R471), the Prabex pairs and their flits (spec/23 R456, R457,
spec/24 R466), accesses and messages that arrive from another package (spec/10 R248, spec/11 R272), and errors of stored
data (spec/04 R127). -/

namespace Sys2Proof.Machine

/-! Pairs (R457, R466). -/

/-- A pair goes down: every access that travels to the package fails POISON. -/
def State.pairDown (s : State) (pkg : Nat) : State :=
  let p := s.pair pkg
  if p.down then s
  else
    let s := (s.setPair { p with down := true, oldLeft := 0 }).count hPairsDown
    (s.reqs.filter fun r => r.phase == .travelling && (match r.remote with | some c => c.source == pkg | none => false)).foldl
      (fun s r => s.fail r (poisonFault r)) s

/-- Flits of the old key that are still accepted after a rotation; one more than are left, so that 1 ends the window. -/
def oldWindow : Nat := 65537

/-- The next key of a direction, for the opposite phase: the sequence starts again under the new epoch. -/
def PairDir.next (d : PairDir) (key : BitVec 256) : PairDir := ⟨some key, d.epoch + 1, !d.phase, 0⟩
/-- New keys for both directions; the old one stays for the window. -/
def State.newKey (s : State) (pkg : Nat) : State :=
  let p := s.pair pkg
  { s.setPair { p with
      out := p.out.next (Config.exchangedKey s.freeCtr)
      inn := p.inn.next (Config.exchangedKey (s.freeCtr + 1))
      oldLeft := oldWindow
      oldKey := p.inn.key } with freeCtr := s.freeCtr + 2 }
/-- A rotation that this side starts. -/
def State.rotate (s : State) (pkg : Nat) : State := (s.newKey pkg).fabric pkg 2 0 (.rotation pkg)

/-- The other side asks for an own flit again: it is sent once more, and after that its pair is down (R457). -/
def State.resend (s : State) (pkg : Nat) (seq : DWord) : State :=
  let p := s.pair pkg
  match p.sent.find? fun f => f.seq == seq with
  | none => s
  | some f =>
    if p.resent.contains seq then s.pairDown pkg
    else (s.setPair { p with resent := p.resent ++ [seq] }).outbox (.flitAgain pkg f)

/-- FLIT_RECEIVE from package `who` on port `arg2` (R457): the flit of sequence field `value2`, whose tag checks under the key
of phase `arg` with `ok`; `value` is not zero when the link replayed it; `bytes`, when there are any, are the sequence field
of an own flit that it asks for again. A flit that fails is asked for once. -/
def execFlitReceive (s : State) : Host.Outcome State Fault Refusal :=
  let o := s.ev
  let p := s.pair o.who
  .next (if p.down then s
    else
      let s := if o.value = 0 then s else s.count (hReplay o.arg2)
      if o.ok && ((o.arg % 2 == 1) == p.inn.phase || 1 < p.oldLeft) then
        let s := s.setPair { p with
          inn := { p.inn with seq := o.value2.toNat % 2 ^ 63 + 1 }
          failed := p.failed.filter (· != o.value2)
          oldLeft := if 1 < p.oldLeft then p.oldLeft - 1 else p.oldLeft }
        if o.bytes.isEmpty then s else s.resend o.who (BitVec.ofNat 64 (natOfBytes (o.bytes.take 8)))
      else
        let s := s.count (hFlitTag o.arg2)
        if p.failed.contains o.value2 then s.pairDown o.who
        else (s.setPair { p with failed := p.failed ++ [o.value2] }).fabric o.who 2 o.arg2 (.flitRetry o.who o.value2))

/-- KEY_ROTATION_START for package `who` (R466): a direction's sequence has reached 2^47, or with `ok` the other side has
started a rotation, and this side installs its new key too. -/
def execKeyRotationStart (s : State) : Host.Outcome State Fault Refusal :=
  let p := s.pair s.ev.who
  .next (if p.down || p.oldLeft != 0 then s
    else if s.ev.ok then s.newKey s.ev.who
    else if 2 ^ 47 ≤ p.out.seq || 2 ^ 47 ≤ p.inn.seq then s.rotate s.ev.who
    else s)

/-- OLD_KEY_EXPIRY for package `who`: the window has ended. -/
def execOldKeyExpiry (s : State) : Host.Outcome State Fault Refusal :=
  let p := s.pair s.ev.who
  .next (if p.oldLeft = 1 then s.setPair { p with oldLeft := 0, oldKey := none } else s)

/-! Accesses from another package (R248). -/

/-- Seat of an access that arrives: it holds no core, and its translations are of its own (log on remote accesses). -/
def remoteSeat (asid : Nat) : Seat := ⟨2048, 4, asid, none, dieTlbs 4⟩

/-- What the operands of a REMOTE_ACCESS_REQUEST name: 0 load, 1 store, 2 capability load, 3 capability store, 4 ATOM,
5 message, 6 RED, which needs STORE alone (Table 10.2), 7 the asking back of a message (R386). The atomic operation by its
number: -/
def atomOf (n : Nat) : AtomOp :=
  match n with
  | 0 => .add
  | 1 => .addF32
  | 2 => .min
  | 3 => .max
  | 4 => .and
  | 5 => .or
  | 6 => .xor
  | 7 => .xchg
  | 8 => .cas
  | 9 => .incw
  | _ => .bfadd

/-- A fault at the origin returns with its code and detail. -/
def State.refuseRemote (s : State) (pkg req : Nat) (f : FaultInfo) : State :=
  s.answerRemote pkg req [] none none f.code.toNat f.aux1.toNat

/-- Bytes that arrive, with the poison of their words. -/
def Operands.payload (o : Operands) : List PByte := o.bytes.zipIdx.map fun (b, i) => (b, o.code.getLsbD (i / 4))

/-- The request of an access of 16 bytes, which is performed in two halves (R105); the control die's core stands for it. -/
def awayRequest (id pkg req : Nat) (op : ReqOp) (p : Placed) : Request :=
  { messageRequest id (.remote pkg req) op (p.pas.headD 0) 16 0 0 none with core := 1028, pas := p.pas, via := p.via }

/-- An access through the unsealed capability, with what it reads; none where it goes on, its upper half to be performed. -/
def State.remotePerform (s : State) (c : Cap) (kind n : Nat) : State × Except FaultInfo (Option (List Byte × Option Cap)) :=
  let o := s.ev
  let v := { o.cap2 with tag := o.cap2.valid }
  let poison : FaultInfo := .of cPOISON 0
  let perms := if kind = 4 then [pLOAD, pSTORE] else if kind = 0 ∨ kind = 2 then [pLOAD] else [pSTORE]
  let extra : Option FaultInfo :=
    if kind = 3 ∧ v.valid then
      if !c.has pSTOREK then some (.of cPERM 0 pSTOREK)
      else if !v.has pGLOBAL && !c.has pSTORELOCAL then some (.of cPERM 0 pSTORELOCAL)
      else if v.remote && !v.has pTRANSFER then some (.of cPERM 0 pTRANSFER)
      else none
    else none
  match checkAccess s (remoteSeat o.arg2) c 0 o.value.toNat
      { perms := perms, n := n, align := n, need := { w := kind == 1 || kind == 3 || 4 ≤ kind }, noDevice := decide (4 ≤ kind),
        capStore := kind == 3 && v.valid, extra := extra } with
  | (s, .fault f) => (s, .error f)
  | (s, .remote) => (s, .error (.of cSEALED 0))
  | (s, .ok p) =>
    let halves (op : ReqOp) : State :=
      let (id, s) := s.newId
      let r := awayRequest id o.who (o.value2.extractLsb' 32 32).toNat op p
      (s.addReq r).perform r
    match kind with
    | 0 =>
      if n = 16 then (halves (.load false), .ok none)
      else
        match s.pointRead 4 true p.pas with
        | (s, bs) => if bs.any Prod.snd then (s, .error poison) else (s, .ok (some (bs.map Prod.fst, none)))
    | 1 =>
      if n = 16 then (halves (.store o.payload), .ok none)
      else (s.pointWrite 4 true (p.pas.zip o.payload), .ok (some ([], none)))
    | 2 =>
      match s.pointReadCap 4 true (p.pas.headD 0) with
      | (s, _, true) => (s, .error poison)
      | (s, r, false) =>
        let r := s.sift r
        (s, .ok (some ([], some (if r.valid then s.reseal { r with tag := c.has pLOADK && p.cw && r.has pTRANSFER } else r))))
    | 3 => (s.pointWriteCap 4 true (p.pas.headD 0) (s.sift v) (o.code.getLsbD 0), .ok (some ([], none)))
    | _ =>
      let a := natOfBytes (o.bytes.take n)
      let b := natOfBytes ((o.bytes.drop n).take n)
      match s.rmw 4 p.pas (atomOf (o.value2.extractLsb' 16 8).toNat) (o.value2.getLsbD 24) a b with
      | (s, some (old, stored)) => (s, .ok (some (if kind = 4 then bytesOfNat n old ++ [if stored then 1 else 0] else [], none)))
      | (s, none) => (s, .error poison)

/-- A message that arrives: eight words, then two capabilities; `code` gives count, presence and tags, and call. -/
def Operands.remoteMsg (o : Operands) (pkg req : Nat) : Msg :=
  let cap (off bit : Nat) : Option Cap :=
    if o.code.getLsbD bit then some (Cap.ofBits (o.code.getLsbD (bit + 1)) (BitVec.ofNat 128 (natOfBytes ((o.bytes.drop off).take 16))))
    else none
  { label := o.value.extractLsb' 0 20
    vals := (List.range (min 8 (o.code.toNat % 16))).map fun i => BitVec.ofNat 32 (natOfBytes ((o.bytes.drop (4 * i)).take 4))
    cap0 := cap 32 4
    cap1 := cap 48 6
    call := o.code.getLsbD 8
    sender := .remote pkg req }

/-- A message that its sender asks back: where the endpoint has not accepted it, it goes and the answer says so; a call has
been told of and stays. -/
def State.giveBack (s : State) (pkg req : Nat) : State :=
  match s.reqs.find? fun r => r.who == .remote pkg req && (match r.op with | .send m => !m.call | _ => false)
      && (r.phase == .waiting || r.phase == .registering) with
  | some r => ((s.leaveWaits r.who r.batch).dropReq r.id).answerRemote pkg req [] none none 0 1
  | none => s

/-- REMOTE_ACCESS_REQUEST from package `who` through capability `cap` at address `value`: `arg` is its kind, `arg2` the
address space, `cap2` the capability of an STK, `code` the poison of the words stored, `value2` its size [7:0], atomic operation
[23:16] with bit 24 unsigned, and request number [63:32].
From the acceptance of a sweep to its end a revoked capability faults TAG (R436). -/
def execRemoteAccessRequest (s : State) : Host.Outcome State Fault Refusal :=
  let o := s.ev
  let req := (o.value2.extractLsb' 32 32).toNat
  let c := { o.cap with otype := 0 }
  .next (if (s.pair o.who).down then s
    else if o.arg = 7 then s.giveBack o.who req
    else if !(o.cap.tag && o.cap.remote && o.cap.source == s.ownPkg && c.valid) || (s.sweep.any fun w => w.test c) then s.refuseRemote o.who req (.of cTAG 0)
    else if o.arg = 5 then
      let pa := c.objPa
      if !c.has pINVOKE then s.refuseRemote o.who req (.of cPERM 0 pINVOKE)
      else if !s.objLive pa 2 then s.refuseRemote o.who req (.of cTAG 0)
      else
        let m := o.remoteMsg o.who req
        let (id, s) := s.newId
        let r := messageRequest id (.remote o.who req) (.send m) pa m.vals.length 0 0 none
        let (_, s) := s.epScope pa
        ((s.addReq r).sendPerform r m).flushEvents
    else
      match s.remotePerform c o.arg (o.value2.toNat % 256) with
      | (s, .ok (some (b, k))) => ((s.answerRemote o.who req b k none 0 0).pollWaits).flushEvents
      | (s, .ok none) => s.pollWaits.flushEvents
      | (s, .error f) => s.refuseRemote o.who req f)

/-- Requests of other packages that have ended are answered. -/
def State.flushRemote (s : State) : State :=
  s.reqs.foldl (fun s r =>
    match r.who, r.phase with
    | .remote pkg req, .done _ m =>
      let given (f : Msg → Option Cap) : Option Cap := (m.bind f).map s.reseal
      (s.dropReq r.id).answerRemote pkg req (match m with | some m => m.valueBytes | none => []) (given Msg.cap0)
        (given Msg.cap1) 0 0
    | .remote pkg req, .failed code _ _ aux1 _ => (s.dropReq r.id).answerRemote pkg req [] none none code.toNat aux1.toNat
    | _, _ => s) s

/-! Commands (Table 24.1). -/

/-- The window read at ARG0 where the spec gives no length: 4 KiB. -/
def windowSize : Nat := 4096
def State.arg0Bytes (s : State) (n : Nat) : List Byte := s.bytesAt s.th.arg0.toNat n
def State.bootedSvn (s : State) : Nat :=
  match s.th.booted with
  | some i => if i < 2 then Config.imageSvn (s.th.slot i) else Config.fusedSvn
  | none => 0

/-- EVIDENCE (R463): the token's length, then the token. -/
def execEvidence (s : State) : Host.Outcome State Fault Refusal :=
  let a := s.th.arg0.toNat
  .next (if !s.th.runs 0x10 then s
    else if !inHbm a 0x4000 || !inHbm s.th.arg1.toNat 64 then s.endCommand stRefused
    else
      let nonce := s.bytesAt s.th.arg1.toNat 64
      let token := (Config.evidence nonce s.th.meas s.th.dbgstat s.bootedSvn s.fenceMap s.th.replace s.th.boot).take 0x3FFC
      let s := { s with th := { s.th with nonce := nonce } }
      (s.writeOut a (bytesOfNat 4 token.length ++ token)).endCommand stDone)

/-- Every pair key is erased (R465). -/
def State.eraseKeys (s : State) : State :=
  { s with th := { s.th with pairs := s.th.pairs.map fun (p : Pair) =>
    { p with out := { p.out with key := none }, inn := { p.inn with key := none }, oldKey := none } } }

/-- DEBUG_UNLOCK (R465): a token names the nonce of the latest EVIDENCE, so before the first there is none it could name. -/
def execDebugUnlock (s : State) : Host.Outcome State Fault Refusal :=
  .next (if !s.th.runs 0x11 then s
    else if !inHbm s.th.arg0.toNat windowSize then s.endCommand stRefused
    else
      let token := s.arg0Bytes windowSize
      if !Config.debugSigned token then s.endCommand stSignature
      else if s.th.nonce.isEmpty || !Config.debugMatches token s.th.nonce then s.endCommand stRefused
      else
        let s := { s with th := { s.th with fleetRoot := none, ideStreams := [], dbgstat := 3, debugPort := true } }
        let s := (s.podOthers.foldl State.pairDown s).eraseKeys
        (s.extend 4 (Config.digest [4, 3])).endCommand stDone)

/-- PROVISION (R467). -/
def execProvision (s : State) : Host.Outcome State Fault Refusal :=
  .next (if !s.th.runs 0x14 then s
    else if !inHbm s.th.arg0.toNat windowSize || s.th.dbgstat != 0 then s.endCommand stRefused
    else
      match Config.fleetRootOf (s.arg0Bytes windowSize) with
      | some root => ({ s with th := { s.th with fleetRoot := some root } } : State).endCommand stDone
      | none => s.endCommand stSignature)

/-- HEALTH (R473): the counters in the order of Table 24.6. -/
def execHealth (s : State) : Host.Outcome State Fault Refusal :=
  .next (if !s.th.runs 0x15 then s
    else if !inHbm s.th.arg0.toNat 4096 then s.endCommand stRefused
    else (s.writeOut s.th.arg0.toNat ((s.th.health.map fun (x : Word) => bytesOfNat 4 x.toNat).flatten)).endCommand stDone)

/-- Some leaf below the table at page `tbl` maps bytes of which `on`, of an address and a size, holds. -/
def State.mapsOn (s : State) (on : Nat → Nat → Bool) : Nat → Nat → Bool
  | 0, _ => false
  | level + 1, tbl => (List.range 512).any fun i =>
    let pte := s.peek (tbl * 4096 + 8 * i) 8
    if !pteV pte then false
    else if pteR pte || pteX pte then
      if pteN pte then on (ptePpn pte / 16 * 0x10000) 0x10000 else on (ptePpn pte * 4096) (4096 * 512 ^ level)
    else s.mapsOn on level (ptePpn pte)
/-- Roots of the page tables: of each address space that is not torn down, and of each hart's satp. -/
def State.tableRoots (s : State) : List Nat :=
  (s.asids.filter fun e => !e.torn).map (fun e => match e.root with | some r => r | none => s.peek (e.pa + 16) 8 % 2 ^ 44)
    ++ (s.harts.filter fun h => satpMode h.satp != 0).map fun h => satpPpn h.satp
/-- Firmware has unmapped every page that lies on a pseudo-channel (R471). -/
def State.channelUnmapped (s : State) (n : Nat) : Bool :=
  let on (pa size : Nat) : Bool := spaceOf pa == .hbm && (List.range (size / 128)).any fun i => channelAt (pa + 128 * i) == n
  s.tableRoots.all fun root => !s.mapsOn on 4 root

/-- MAILBOX_FENCE (R471): a core is fenced once it holds no workgroup; a pseudo-channel when its pages are unmapped. -/
def execMailboxFence (s : State) : Host.Outcome State Fault Refusal :=
  let n := s.th.arg0.toNat
  .next (if !s.th.runs 0x16 then s
    else if n < 1024 then
      let s := if (s.core n).fenced || s.th.fencePending.contains n then s
        else { s with th := { s.th with fencePending := s.th.fencePending ++ [n] } }
      ((s.extend 3 s.fenceDigest).settleFences).endCommand stDone
    else if 0x10000 ≤ n ∧ n < 0x10400 ∧ n % 256 < 128 ∧ s.channelUnmapped (n - 0x10000) then
      let s := s.fencePc (n - 0x10000)
      (s.extend 3 s.fenceDigest).endCommand stDone
    else s.endCommand stRefused)

/-- REKEY (R466): a pair already in rotation completes with that rotation (Table 24.7). -/
def execRekey (s : State) : Host.Outcome State Fault Refusal :=
  let n := s.th.arg0.toNat
  .next (if !s.th.runs 0x17 then s
    else if !(s.podOthers.contains n) || (s.pair n).down then s.endCommand stRefused
    else if (s.pair n).oldLeft ≠ 0 then s.endCommand stDone
    else (s.rotate n).endCommand stDone)

/-! Checkpoints (R468, R469, Table 24.4). -/

/-- Chunks of a module: HBM4E, vaults, accumulator stores, scratchpads, of 4 MiB each. -/
def chunkCount : Nat := 131072 + 1024 + 2048 + 128

/-- Contexts and launches that a header's image restores: the save area's layout is not given (log 25). -/
opaque restoredContexts : List Byte → List Workgroup × List Launch

structure Descriptor where
  policy : List Byte
  chunks : Nat
  count : Nat
  work : Nat
  deriving DecidableEq, Repr

def State.checkpoint (s : State) : Descriptor :=
  let a := s.th.arg0.toNat
  ⟨s.bytesAt (s.peek a 8) windowSize, s.peek (a + 8) 8, s.peek (a + 16) 8, s.peek (a + 24) 8⟩
/-- The descriptor and the regions it names lie in HBM4E. -/
def State.descriptorOk (s : State) : Bool :=
  let d := s.checkpoint
  inHbm s.th.arg0.toNat 32 && inHbm (s.peek s.th.arg0.toNat 8) windowSize && inHbm d.chunks (8 * d.count) && inHbm d.work 0x100000

/-- Addresses of a chunk of memory, without the work region; none for an accumulator chunk. -/
def chunkRange (i work : Nat) : Option (List Nat) :=
  let at_ (base : Nat) : List Nat := ((List.range 0x400000).map (base + ·)).filter fun a => !(work ≤ a && a < work + 0x100000)
  if i < 131072 then some (at_ (i * 0x400000))
  else if i < 132096 then some (at_ (vaultBase + (i - 131072) * 0x400000))
  else if i < 134144 then none
  else some (at_ (scratchBase + (i - 134144) * 0x400000))

/-- A bitmap of n bits. -/
def bitmapBytes (bits : List Bool) : List Byte :=
  (List.range ((bits.length + 7) / 8)).map fun j =>
    BitVec.ofNat 8 ((List.range 8).foldl (fun acc k => acc + if bits.getD (8 * j + k) false then 2 ^ k else 0) 0)

/-- Accumulator tile `n`, 0-511, of a core as its owner's. -/
def State.storeTile (s : State) (core n : Nat) : Option AccTile :=
  (s.wgs.find? fun w => w.core == core && w.accBase ≤ n && n < w.accBase + w.accs.length).map fun w => w.accTile (n - w.accBase)

/-- The plain bytes of chunk i: data, tag bitmap, poison bitmap, and of a vault or scratchpad the full/empty bitmap. A tile of
an accumulator store has one poison bit for all its granules, and no tag (R61, R468). -/
def State.chunkBytes (s : State) (i work : Nat) : List Byte :=
  match chunkRange i work with
  | some pas =>
    let grains := (pas.filter fun a => a % 16 == 0)
    let fe := if hasFe (pas.headD 0) then bitmapBytes ((pas.filter fun a => a % 8 == 0).map s.feAt) else []
    pas.map s.byteAt ++ bitmapBytes (grains.map fun a => s.tagAt a && hasTags a) ++ bitmapBytes (grains.map s.poisonAt) ++ fe
  | none =>
    let core := (i - 132096) / 2
    let at_ (t : Nat) : Nat := (i - 132096) % 2 * 256 + t
    ((List.range 256).map fun t =>
      let d := (s.storeTile core (at_ t)).map AccTile.data |>.getD []
      ((List.range 4096).map fun j => bytesOfNat 4 (d.getD j 0).toNat).flatten).flatten
    ++ List.replicate 0x8000 0
    ++ ((List.range 256).map fun t => List.replicate 128 (if (s.storeTile core (at_ t)).any AccTile.poison then 0xFF else 0)).flatten

/-- Bit k of bytes. -/
def bitOf (b : List Byte) (k : Nat) : Bool := (b.getD (k / 8) 0).getLsbD (k % 8)

/-- Chunk i is written back: bytes, tags (R55) under the write test (R433), poison, full/empty bits, accumulator tiles. -/
def State.restoreChunk (s : State) (i work : Nat) (b : List Byte) : State :=
  match chunkRange i work with
  | some pas =>
    let n := pas.length
    let grains := pas.filter fun a => a % 16 == 0
    let tagBits := b.drop n
    let poisonBits := tagBits.drop (grains.length / 8)
    let feBits := poisonBits.drop (grains.length / 8)
    let s := s.putBytes ((pas.zip b).map fun (a, x) => (a, x, false))
    let s := grains.zipIdx.foldl (fun (s : State) (a, k) =>
      let s := if bitOf tagBits k && hasTags a && !s.revoked (Cap.ofBits true (BitVec.ofNat 128 (s.peek a 16))) then
          { s with tags := NSet.insert s.tags (a / 16), summary := NSet.insert s.summary (a / 4096) } else s
      if bitOf poisonBits k then { s with poison := NSet.insert s.poison (a / 16) } else s) s
    if hasFe (pas.headD 0) then
      ((pas.filter fun a => a % 8 == 0).zipIdx).foldl (fun (s : State) (a, k) => s.setFe a (bitOf feBits k)) s
    else s
  | none =>
    let core := (i - 132096) / 2
    let half := (i - 132096) % 2 * 256
    let word (t j : Nat) : Word := BitVec.ofNat 32 (natOfBytes ((b.drop (16384 * t + 4 * j)).take 4))
    { s with wgs := s.wgs.map fun (w : Workgroup) =>
        if w.core ≠ core then w
        else { w with accs := w.accs.zipIdx.map fun (x, k) =>
          let t := w.accBase + k
          if half ≤ t ∧ t < half + 256 ∧ !x.data.isEmpty then
            { x with data := (List.range 4096).map (word (t - half)), poison := bitOf (b.drop 0x408000) (1024 * (t - half)) }
          else x } }

/-- Chunk stages begin here. -/
def chunkStage : Nat := 1000

/-- Every launch is finished, or all its workgroups have been created and are suspended, without an engine operation
outstanding (R468). -/
def State.exportable (s : State) : Bool :=
  s.ops.isEmpty && (s.wgs.all fun w => w.life == .suspended)
    && s.launches.all fun l => l.state == .finished || l.state == .distributed && l.undealt.isEmpty && s.wgs.any fun w => w.launch == l.id

/-- A checkpoint's header of 4 KiB (R468): magic, version, policy hash, nonce, chunk count and the five measurements, one after
another (log 25). -/
def headerOf (hash : BitVec 384) (nonce : DWord) (count : Nat) (meas : List (BitVec 384)) : List Byte :=
  let fields := bytesOfNat 4 0x4B58434B ++ bytesOfNat 4 1 ++ bytesOfNat 48 hash.toNat ++ bytesOfNat 8 nonce.toNat ++ bytesOfNat 8 count
    ++ (meas.map fun m => bytesOfNat 48 m.toNat).flatten
  fields ++ List.replicate (4096 - fields.length) 0
/-- Bytes of a header's field. -/
def headerField (b : List Byte) (off n : Nat) : Nat := natOfBytes ((b.drop off).take n)
/-- The chunk count and nonce of a header of version 1 for a policy, of a module with this one's fences and bifurcation, which
measurement 3 holds (R469, Table 24.2; log 25). -/
def readHeader (hash : BitVec 384) (meas3 : BitVec 384) (b : List Byte) : Option (Nat × DWord) :=
  if headerField b 0 4 = 0x4B58434B ∧ headerField b 4 4 = 1 ∧ headerField b 8 48 = hash.toNat ∧ headerField b 216 48 = meas3.toNat then
    some (headerField b 64 8, BitVec.ofNat 64 (headerField b 56 8))
  else none

/-- EXPORT (R468): one stage, the header or a chunk. -/
def execExportCmd (s : State) : Host.Outcome State Fault Refusal :=
  .next (if !s.th.runs 0x12 then s
    else
      let d := s.checkpoint
      let hash := Config.policyHash d.policy
      match s.th.fleetRoot with
      | none => s.endCommand stRefused
      | some root =>
        if s.th.stage = 0 then
          if !inHbm s.th.arg0.toNat 32 || !s.descriptorOk || s.th.dbgstat != 0 || d.count != chunkCount || !s.exportable then
            s.endCommand stRefused
          else
            let (nonce, s) := s.fresh
            let header := headerOf hash nonce chunkCount s.th.meas
            let s := { s with th := { s.th with quiescent := true, header := header, ckNonce := nonce } }
            (s.outbox (.header header)).atStage chunkStage
        else
          let i := s.th.stage - chunkStage
          if chunkCount ≤ i then s.resumeHalls.endCommand stDone
          else
            let sealed := Config.sealChunk root hash s.th.ckNonce s.th.header i (s.chunkBytes i d.work)
            (s.outbox (.chunk (s.peek (d.chunks + 8 * i) 8) i sealed)).atStage (s.th.stage + 1))

/-- IMPORT (R469): one stage. What is read from the PCI Express window is `bytes`; a chunk that does not open clears memory
under boot step 1. -/
def execImportCmd (s : State) : Host.Outcome State Fault Refusal :=
  .next (if !s.th.runs 0x13 then s
    else
      let d := s.checkpoint
      let hash := Config.policyHash d.policy
      match s.th.fleetRoot with
      | none => s.endCommand stRefused
      | some root =>
        if s.th.stage = 0 then
          let admits := (List.range 4).all fun i => Config.policyAdmits d.policy i (s.th.meas.getD i 0)
          if !inHbm s.th.arg0.toNat 32 || !s.descriptorOk || s.th.dbgstat != 0 || !admits
              || decide (s.bootedSvn < Config.policySvn d.policy) then s.endCommand stRefused
          else
            match readHeader hash (s.th.meas.getD 3 0) s.ev.bytes with
            | some (count, nonce) =>
              if count ≠ chunkCount ∨ d.count ≠ chunkCount then s.endCommand stRefused
              else
                let s := { s with th := { s.th with quiescent := true, header := s.ev.bytes, ckNonce := nonce } }
                let (wgs, launches) := restoredContexts s.ev.bytes
                ({ s with wgs := wgs, launches := launches } : State).atStage chunkStage
            | none => s.endCommand stRefused
        else
          let i := s.th.stage - chunkStage
          if chunkCount ≤ i then s.resumeHalls.endCommand stDone
          else
            match Config.openChunk root hash s.th.ckNonce s.th.header i s.ev.bytes with
            | some b => (s.restoreChunk i d.work b).atStage (s.th.stage + 1)
            | none =>
              let s := { s with mem := [], tags := [], summary := [], fe := [], poison := [], wgs := [], launches := [] }
              s.resumeHalls.endCommand stSignature)

/-! Errors of stored data (R127). -/

/-- UNCORRECTABLE_ERROR at address `value`: corrected with `ok` and counted; else the granule is poisoned, at the home, or
with `arg` 1 in the copy that die `arg2` holds. -/
def execUncorrectableError (s : State) : Host.Outcome State Fault Refusal :=
  let pa := s.ev.value.toNat
  let die := if s.ev.arg = 1 then s.ev.arg2 % 4 else homeOf pa
  .next (if spaceOf pa = .none ∨ spaceOf pa = .device ∨ spaceOf pa = .pcie then s
    else if s.ev.ok then (if die < 4 then s.count (hEccCorrected die) else s)
    else
      let s := if s.ev.arg = 1 then
          match s.copy? die (pa / 128) with
          | some c => s.putCopy { c with poison := setBit8 c.poison (pa % 128 / 16) true }
          | none => s
        else { s with poison := NSet.insert s.poison (pa / 16) }
      if die < 4 then ((s.count (hEccUncorrectable die)).checkReplace).flushEvents else s)

end Sys2Proof.Machine
end

