-- ==== Sys2Proof/Machine/FpFun.lean ====
section
/-! DEFINITION. The floating-point functions FRCP FRSQ FSQRT FEX2 FLG2 FSIN FCOS FTANH
(spec/09_floating_point_and_lanes.md R215, R216; spec/03 R75). Reciprocals and roots are exact integer arithmetic; the
others are computed in fixed point with far more bits than any rounding decision needs (log 12). -/

namespace Sys2Proof.Machine

/-- floor of the square root, bit by bit from bit `k - 1` down. -/
def isqrtAux (n : Nat) : Nat → Nat → Nat
  | 0, r => r
  | k + 1, r =>
    let r' := r + 2 ^ k
    isqrtAux n k (if r' * r' ≤ n then r' else r)

def isqrt (n : Nat) : Nat := isqrtAux n (bitLen n / 2 + 1) 0

/-- Fixed point for the transcendental functions: numbers scaled by 2^fxBits. -/
def fxBits : Nat := 520
/-- pi · 2^520, truncated. -/
def fxPi : Nat := 0x3243f6a8885a308d313198a2e03707344a4093822299f31d0082efa98ec4e6c89452821e638d01377be5466cf34e90c6cc0ac29b7c97c50dd3f84d5b5b547091792
/-- ln 2 · 2^520, truncated. -/
def fxLn2 : Nat := 0xb17217f7d1cf79abc9e3b39803f2f6af40f343267298b62d8a0d175b8baafa2be7b876206debac98559552fb4afa1b10ed2eae35c138214427573b291169b8253e

def fxMul (a b : Nat) : Nat := (a * b) >>> fxBits

/-- Terms of the exponential series: `t` is the current term, `k` its index. -/
def fxExpAux (x : Nat) : Nat → Nat → Nat → Nat → Nat
  | 0, _, _, acc => acc
  | fuel + 1, k, t, acc =>
    let t' := fxMul t x / (k + 1)
    fxExpAux x fuel (k + 1) t' (acc + t')

/-- exp of a fixed-point number below 1. -/
def fxExp (x : Nat) : Nat := fxExpAux x 110 0 (2 ^ fxBits) (2 ^ fxBits)

/-- The alternating series of sine and cosine: terms x^(k+2)/((k+1)(k+2)). -/
def fxTrigAux (x2 : Nat) : Nat → Nat → Nat → Int → Int → Int
  | 0, _, _, _, acc => acc
  | fuel + 1, k, t, sg, acc =>
    let t' := fxMul t x2 / ((k + 1) * (k + 2))
    fxTrigAux x2 fuel (k + 2) t' (-sg) (acc - sg * (t' : Int))

def fxSin (x : Nat) : Nat := (fxTrigAux (fxMul x x) 60 1 x 1 x).toNat
def fxCos (x : Nat) : Nat := (fxTrigAux (fxMul x x) 60 0 (2 ^ fxBits) 1 (2 ^ fxBits : Nat)).toNat

/-- The series of the inverse hyperbolic tangent: z^(2k+1)/(2k+1). -/
def fxAtanhAux (z2 : Nat) : Nat → Nat → Nat → Nat → Nat
  | 0, _, _, acc => acc
  | fuel + 1, n, p, acc =>
    let p' := fxMul p z2
    fxAtanhAux z2 fuel (n + 2) p' (acc + p' / (n + 2))

def fxAtanh (z : Nat) : Nat := fxAtanhAux (fxMul z z) 170 1 z z

/-- FRCP (R215). -/
def frcpVal (x : FVal) : FVal × FpFlags :=
  match x with
  | .nan s => (.nan false, if s then flagNV else 0)
  | .inf n => (.zero n, 0)
  | .num n m e _ =>
    if m = 0 then (.inf n, flagDZ)
    else
      let q := 2 ^ 100 / m
      (.num n q (-e - 100) (q * m != 2 ^ 100), 0)

/-- FSQRT (R215). -/
def fsqrtVal (x : FVal) : FVal × FpFlags :=
  match x with
  | .nan s => (.nan false, if s then flagNV else 0)
  | .inf n => if n then (.nan false, flagNV) else (.inf false, 0)
  | .num n m e _ =>
    if m = 0 then (.zero n, 0)
    else if n then (.nan false, flagNV)
    else
      let odd := e % 2 != 0
      let m' := (if odd then 2 * m else m) <<< 80
      let e' := (if odd then e - 1 else e) - 80
      let r := isqrt m'
      (.num false r (e' / 2) (r * r != m'), 0)

/-- FRSQ (R215). -/
def frsqVal (x : FVal) : FVal × FpFlags :=
  match x with
  | .nan s => (.nan false, if s then flagNV else 0)
  | .inf n => if n then (.nan false, flagNV) else (.zero false, 0)
  | .num n m e _ =>
    if m = 0 then (.inf n, flagDZ)
    else if n then (.nan false, flagNV)
    else
      let odd := e % 2 != 0
      let m' := if odd then 2 * m else m
      let e' := if odd then e - 1 else e
      let r := isqrt (2 ^ 160 / m')
      (.num false r (-(e' / 2) - 80) (r * r * m' != 2 ^ 160), 0)

/-- A value just below or just above a power of two: what a function of a tiny operand is. -/
def nearBelow (neg : Bool) (m : Nat) (e : Int) : FVal := .num neg (m * 2 ^ 64 - 1) (e - 64) true
def nearAbove (neg : Bool) (m : Nat) (e : Int) : FVal := .num neg (m * 2 ^ 64) (e - 64) true

/-- m · 2^e as a fixed-point number, truncated. -/
def toFx (m : Nat) (e : Int) : Nat :=
  let k := e + fxBits
  if 0 ≤ k then m <<< k.toNat else m >>> (-k).toNat

/-- FEX2 (R215): 2 to an integer is exact; any other power is irrational. -/
def fex2Val (x : FVal) : FVal × FpFlags :=
  match x with
  | .nan s => (.nan false, if s then flagNV else 0)
  | .inf n => (if n then .zero false else .inf false, 0)
  | .num n m e _ =>
    if m = 0 then (.one, 0)
    else if cmpDyadic m e 1 10 == .gt then
      (if n then .num false 1 (-2000) true else .num false 1 2000 false, 0)
    else if cmpDyadic m e 1 (-60) == .lt then
      (if n then nearBelow false 1 0 else nearAbove false 1 0, 0)
    else
      let fx := toFx m e
      let ip := fx >>> fxBits
      let fr := fx - ip <<< fxBits
      if fr = 0 then (.num false 1 (if n then -(ip : Int) else ip) false, 0)
      else
        let f := if n then 2 ^ fxBits - fr else fr
        let k : Int := if n then -(ip : Int) - 1 else ip
        (.num false (fxExp (fxMul f fxLn2) >>> 20) (k - fxBits + 20) true, 0)

/-- FLG2 (R215): the logarithm of a power of two is exact; any other is irrational. -/
def flg2Val (x : FVal) : FVal × FpFlags :=
  match x with
  | .nan s => (.nan false, if s then flagNV else 0)
  | .inf n => if n then (.nan false, flagNV) else (.inf false, 0)
  | .num n m e _ =>
    if m = 0 then (.inf true, flagDZ)
    else if n then (.nan false, flagNV)
    else
      let len := bitLen m - 1
      let k : Int := (len : Int) + e
      if m = 2 ^ len then (if k = 0 then .zero false else .num (decide (k < 0)) k.natAbs 0 false, 0)
      else
        let a := m <<< (fxBits - len)
        let o := 2 ^ fxBits
        let ln := 2 * fxAtanh (((a - o) <<< fxBits) / (a + o))
        let lg := (ln <<< fxBits) / fxLn2
        let v : Int := k * (o : Int) + lg
        (.num (decide (v < 0)) (v.natAbs >>> 20) (-(fxBits : Int) + 20) true, 0)

/-- trunc34 of R216: a 34-bit significand, the rest dropped. -/
def trunc34 (x : FVal) : FVal :=
  match x with
  | .num n m e _ =>
    let d := bitLen m - 34
    .num n (m >>> d) (e + d) false
  | v => v

/-- The quadrant k mod 4 and the reduced magnitude and sign of R216's argument reduction. -/
def reduceTrig (m : Nat) (e : Int) : Nat × Bool × Nat :=
  let fx := toFx m e
  let half := fxPi / 2
  let k := (fx + half / 2) / half
  let kp := (k * fxPi) / 2
  (k % 4, decide (fx < kp), if fx < kp then kp - fx else fx - kp)

/-- Sine when `cosine` is false, cosine otherwise: the exact value, truncated to 34 bits (R216). -/
def sinCosVal (cosine : Bool) (x : FVal) : FVal × FpFlags :=
  match x with
  | .nan s => (.nan false, if s then flagNV else 0)
  | .inf _ => (.nan false, flagNV)
  | .num n m e _ =>
    if m = 0 then (if cosine then .one else .zero n, 0)
    else if cmpDyadic m e 1 (-40) == .lt then
      (trunc34 (if cosine then nearBelow false 1 0 else nearBelow n m e), flagNX)
    else
      let (k, rneg, r) := reduceTrig m e
      let q := if cosine then (k + 1) % 4 else k
      let useCos := q % 2 == 1
      let v := if useCos then fxCos r else fxSin r
      let sg := (if useCos then false else rneg) != (2 ≤ q : Bool)
      let sg := if cosine then sg else sg != n
      (trunc34 (.num sg (v >>> 20) (-(fxBits : Int) + 20) true), flagNX)

/-- Hyperbolic tangent, truncated to 34 bits (R216). -/
def ftanhVal (x : FVal) : FVal × FpFlags :=
  match x with
  | .nan s => (.nan false, if s then flagNV else 0)
  | .inf n => (if n then FVal.one.neg else .one, 0)
  | .num n m e _ =>
    if m = 0 then (.zero n, 0)
    else if cmpDyadic m e 1 (-40) == .lt then (trunc34 (nearBelow n m e), flagNX)
    else if cmpDyadic m e 1 5 == .gt then (trunc34 (nearBelow n 1 0), flagNX)
    else
      let y := (toFx m (e + 1) <<< fxBits) / fxLn2
      let k := y >>> fxBits
      let f := y - k <<< fxBits
      let ex := fxExp (fxMul f fxLn2) <<< k
      let o := 2 ^ fxBits
      (trunc34 (.num n (((ex - o) <<< fxBits) / (ex + o)) (-(fxBits : Int)) true), flagNX)

end Sys2Proof.Machine
end

