-- ==== Sys2Proof/Machine/Float.lean ====
section
/-! DEFINITION. The floating-point and packed-half instructions (spec/09_floating_point_and_lanes.md R207-R219, spec/03
R73-R81, R88, R90). -/

namespace Sys2Proof.Machine

/-- A source of an FP32 register form with its modifiers (R76). -/
def fpSrc (l : Lane) (r : BitVec 8) (neg abs : Bool) : FVal := fp32.decode (fp32.modSource neg abs (l.reg r).toNat)
def fpA (l : Lane) (b : RBody) : FVal := fpSrc l b.a b.na b.aa
def fpB (l : Lane) (b : RBody) : FVal := fpSrc l b.b b.nb b.ab
def fpC (l : Lane) (b : RBody) : FVal := fpSrc l b.c b.nc b.ac
/-- s62, the clamp bound, as the instruction's first chunk reads it (R77). -/
def clampBound (l : Lane) : Word := (l.first.reg l.tid 0xFE).val
/-- The rounding field of a register form (Table 3.3). -/
def rmOf {n : Nat} (v : BitVec n) : RMode := RMode.ofCode (v.extractLsb' 0 2)

/-- An FP32 result through the destination modifiers, with all its flags (R77, R80). -/
def fpDest (l : Lane) (b : RBody) (m : RMode) (r : FVal × FpFlags) : LaneResult :=
  let (x, fl) := fp32.dest m b.scale b.clamp (clampBound l) r.1
  toByteFl l b.d (BitVec.ofNat 32 x) (fl ||| r.2)
/-- An immediate twin's result: no modifiers (R208). -/
def fpDestI (l : Lane) (b : IBody) (m : RMode) (r : FVal × FpFlags) : LaneResult :=
  let (x, fl) := fp32.dest m 0 0 0 r.1
  toByteFl l b.d (BitVec.ofNat 32 x) (fl ||| r.2)
def fpAI (l : Lane) (b : IBody) : FVal := fp32.decode (l.reg b.a).toNat
def fpImm (b : IBody) : FVal := fp32.decode b.imm.toNat

/-- A function of one operand, rounded to nearest (R215, R216). -/
def fpFun (i : Instr) (h : Head) (b : RBody) (f : FVal → FVal × FpFlags) : State → Host.Outcome State Fault Refusal :=
  issueFixed i h fun _ l => fpDest l b .rne (f (fpA l b))

/-- FSCL's operand: a · 2^b, with b held where the result has already overflowed or vanished (R211). -/
def fsclVal (a : FVal) (b : Word) : FVal × FpFlags :=
  (match a with
    | .nan _ => .nan false
    | v => v.scale (saturate (-2000) 2000 b.toInt), nvOf [a])

/-- FCVT's result and flags, from the old value of d (R218). -/
def fcvtWord (b : RBody) (a old bound : Word) : Word × FpFlags :=
  match elemFormat (fld b.c 3 0), elemFormat (fld b.variant 5 2) with
  | some sf, some df =>
    let raw := (a.toNat >>> (sf.width * fld b.variant 7 6)) % 2 ^ sf.width
    let x := match sf with | .fp f => f.modSource b.na b.aa raw | .int _ _ => raw
    let (y, fl) := fcvtElem sf df (rmOf b.variant) b.scale b.clamp bound x
    if df.width = 32 then (BitVec.ofNat 32 y, fl)
    else
      let sh := df.width * fld b.c 5 4
      let mask : Word := BitVec.ofNat 32 ((2 ^ df.width - 1) <<< sh)
      ((old &&& ~~~mask) ||| (BitVec.ofNat 32 (y <<< sh) &&& mask), fl)
  | _, _ => (old, 0)
/-- The destination keeps bits of d, and their poison (R218). -/
def fcvtNarrow (b : RBody) : Bool := match elemFormat (fld b.variant 5 2) with | some f => f.width != 32 | none => false

/-- A packed-half result: `f` on the halves' values (R219). -/
def halfResult (l : Lane) (b : RBody) (f : FVal → FVal → FVal → FVal × FpFlags) : LaneResult :=
  let fmt := if b.variant.getLsbD 0 then bf16 else fp16
  let half (i : Nat) : Nat × FpFlags :=
    let src (r : BitVec 8) (n a : Bool) : FVal := fmt.decode (fmt.modSource n a ((l.reg r).toNat / 2 ^ (16 * i) % 65536))
    let (v, fl) := f (src b.a b.na b.aa) (src b.b b.nb b.ab) (src b.c b.nc b.ac)
    let (x, fl') := fmt.dest .rne b.scale b.clamp (clampBound l) v
    (x, fl ||| fl')
  let (lo, f0) := half 0
  let (hi, f1) := half 1
  toByteFl l b.d (BitVec.ofNat 32 (hi * 65536 + lo)) (f0 ||| f1)

/-- FADD (R210). -/
def execFadd (h : Head) (b : RBody) : State → Host.Outcome State Fault Refusal :=
  issueFixed (.fadd h b) h fun _ l => fpDest l b (rmOf b.variant) ((fpA l b).add (rmOf b.variant) (fpB l b))

/-- FADD's immediate twin (R208). -/
def execFaddImm (h : Head) (b : IBody) : State → Host.Outcome State Fault Refusal :=
  issueFixed (.faddImm h b) h fun _ l => fpDestI l b (rmOf b.variant) ((fpAI l b).add (rmOf b.variant) (fpImm b))

/-- FSUB (R210). -/
def execFsub (h : Head) (b : RBody) : State → Host.Outcome State Fault Refusal :=
  issueFixed (.fsub h b) h fun _ l => fpDest l b .rne ((fpA l b).add .rne (fpB l b).neg)

/-- FSUB's immediate twin (R208). -/
def execFsubImm (h : Head) (b : IBody) : State → Host.Outcome State Fault Refusal :=
  issueFixed (.fsubImm h b) h fun _ l => fpDestI l b .rne ((fpAI l b).add .rne (fpImm b).neg)

/-- FMUL (R210). -/
def execFmul (h : Head) (b : RBody) : State → Host.Outcome State Fault Refusal :=
  issueFixed (.fmul h b) h fun _ l => fpDest l b (rmOf b.variant) ((fpA l b).mul (fpB l b))

/-- FMUL's immediate twin (R208). -/
def execFmulImm (h : Head) (b : IBody) : State → Host.Outcome State Fault Refusal :=
  issueFixed (.fmulImm h b) h fun _ l => fpDestI l b (rmOf b.variant) ((fpAI l b).mul (fpImm b))

/-- FFMA (R210, R90). -/
def execFfma (h : Head) (b : RBody) : State → Host.Outcome State Fault Refusal :=
  issueFixed (.ffma h b) h fun _ l => fpDest l b (rmOf b.variant) (FVal.fma (rmOf b.variant) (fpA l b) (fpB l b) (fpC l b))

/-- FMIN (R212, R81): `.num` is variant<2>. -/
def execFmin (h : Head) (b : RBody) : State → Host.Outcome State Fault Refusal :=
  issueFixed (.fmin h b) h fun _ l => fpDest l b .rne (FVal.minMax false (b.variant.getLsbD 2) (fpA l b) (fpB l b))

/-- FMIN's immediate twin (R208). -/
def execFminImm (h : Head) (b : IBody) : State → Host.Outcome State Fault Refusal :=
  issueFixed (.fminImm h b) h fun _ l => fpDestI l b .rne (FVal.minMax false (b.variant.getLsbD 2) (fpAI l b) (fpImm b))

/-- FMAX (R212, R81): `.num` is variant<2>. -/
def execFmax (h : Head) (b : RBody) : State → Host.Outcome State Fault Refusal :=
  issueFixed (.fmax h b) h fun _ l => fpDest l b .rne (FVal.minMax true (b.variant.getLsbD 2) (fpA l b) (fpB l b))

/-- FMAX's immediate twin (R208). -/
def execFmaxImm (h : Head) (b : IBody) : State → Host.Outcome State Fault Refusal :=
  issueFixed (.fmaxImm h b) h fun _ l => fpDestI l b .rne (FVal.minMax true (b.variant.getLsbD 2) (fpAI l b) (fpImm b))

/-- FSET writes a predicate and raises its flags even for p7 (R213). -/
def execFset (h : Head) (b : RBody) : State → Host.Outcome State Fault Refusal :=
  issueFixed (.fset h b) h fun _ l =>
    let (r, fl) := FVal.compareBy (b.variant.extractLsb' 2 3) (fpA l b) (fpB l b)
    .ok [.p l.tid (b.d.toNat % 8) r, .flags fl]

/-- FSET's immediate twin (R208, R213). -/
def execFsetImm (h : Head) (b : IBody) : State → Host.Outcome State Fault Refusal :=
  issueFixed (.fsetImm h b) h fun _ l =>
    let (r, fl) := FVal.compareBy (b.variant.extractLsb' 2 3) (fpAI l b) (fpImm b)
    .ok [.p l.tid (b.d.toNat % 8) r, .flags fl]

/-- FRCP (R215). -/
def execFrcp (h : Head) (b : RBody) : State → Host.Outcome State Fault Refusal :=
  fpFun (.frcp h b) h b frcpVal

/-- FRSQ (R215). -/
def execFrsq (h : Head) (b : RBody) : State → Host.Outcome State Fault Refusal :=
  fpFun (.frsq h b) h b frsqVal

/-- FSQRT (R215). -/
def execFsqrt (h : Head) (b : RBody) : State → Host.Outcome State Fault Refusal :=
  fpFun (.fsqrt h b) h b fsqrtVal

/-- FEX2 (R215). -/
def execFex2 (h : Head) (b : RBody) : State → Host.Outcome State Fault Refusal :=
  fpFun (.fex2 h b) h b fex2Val

/-- FLG2 (R215). -/
def execFlg2 (h : Head) (b : RBody) : State → Host.Outcome State Fault Refusal :=
  fpFun (.flg2 h b) h b flg2Val

/-- FSIN (R216). -/
def execFsin (h : Head) (b : RBody) : State → Host.Outcome State Fault Refusal :=
  fpFun (.fsin h b) h b (sinCosVal false)

/-- FCOS (R216). -/
def execFcos (h : Head) (b : RBody) : State → Host.Outcome State Fault Refusal :=
  fpFun (.fcos h b) h b (sinCosVal true)

/-- FTANH (R216). -/
def execFtanh (h : Head) (b : RBody) : State → Host.Outcome State Fault Refusal :=
  fpFun (.ftanh h b) h b ftanhVal

/-- FRND: variant<4:3> selects the rounding (R217). -/
def execFrnd (h : Head) (b : RBody) : State → Host.Outcome State Fault Refusal :=
  fpFun (.frnd h b) h b (FVal.roundIntegral (RMode.ofCode (b.variant.extractLsb' 3 2)))

/-- FCVT (R218). -/
def execFcvt (h : Head) (b : RBody) : State → Host.Outcome State Fault Refusal :=
  issueFixed (.fcvt h b) h fun _ l =>
    let old := l.w.reg l.tid b.d.toNat
    let (x, fl) := fcvtWord b (l.reg b.a) old.val (clampBound l)
    .ok (wrByte l.tid b.d.toNat x (fcvtNarrow b && old.poison) :: if fl = 0 then [] else [.flags fl])

/-- FCLASS raises no flag (R214). -/
def execFclass (h : Head) (b : RBody) : State → Host.Outcome State Fault Refusal :=
  issueFixed (.fclass h b) h fun _ l =>
    toByte l b.d (fclass32 (BitVec.ofNat 32 (fp32.modSource b.na b.aa (l.reg b.a).toNat)))

/-- FSCL (R211). -/
def execFscl (h : Head) (b : RBody) : State → Host.Outcome State Fault Refusal :=
  issueFixed (.fscl h b) h fun _ l => fpDest l b (rmOf b.variant) (fsclVal (fpA l b) (l.reg b.b))

/-- HADD2 (R219). -/
def execHadd2 (h : Head) (b : RBody) : State → Host.Outcome State Fault Refusal :=
  issueFixed (.hadd2 h b) h fun _ l => halfResult l b fun x y _ => x.add .rne y

/-- HMUL2 (R219). -/
def execHmul2 (h : Head) (b : RBody) : State → Host.Outcome State Fault Refusal :=
  issueFixed (.hmul2 h b) h fun _ l => halfResult l b fun x y _ => x.mul y

/-- HFMA2 (R219). -/
def execHfma2 (h : Head) (b : RBody) : State → Host.Outcome State Fault Refusal :=
  issueFixed (.hfma2 h b) h fun _ l => halfResult l b fun x y z => FVal.fma .rne x y z

end Sys2Proof.Machine
end

