-- ==== Sys2Proof/Machine/Integer.lean ====
section
/-! DEFINITION. The integer instructions and SEL (spec/08_control_and_integer.md R201-R205, spec/07 R176, R187). -/

namespace Sys2Proof.Machine

/-- A register form of two operands (R201). -/
def binaryR (i : Instr) (h : Head) (b : RBody) (f : Word → Word → Word) : State → Host.Outcome State Fault Refusal :=
  issueFixed i h fun _ l => toByte l b.d (f (l.reg b.a) (l.reg b.b))
/-- A register form of one operand. -/
def unaryR (i : Instr) (h : Head) (b : RBody) (f : Word → Word) : State → Host.Outcome State Fault Refusal :=
  issueFixed i h fun _ l => toByte l b.d (f (l.reg b.a))
/-- An immediate twin: imm32 stands for b (R176). -/
def binaryI (i : Instr) (h : Head) (b : IBody) (f : Word → Word → Word) : State → Host.Outcome State Fault Refusal :=
  issueFixed i h fun _ l => toByte l b.d (f (l.reg b.a) b.imm)

/-- `.u` is variant<0>, `.sat` variant<1> (Table 7.2). -/
def RBody.isU (b : RBody) : Bool := b.variant.getLsbD 0
def RBody.isSat (b : RBody) : Bool := b.variant.getLsbD 1
def IBody.isU (b : IBody) : Bool := b.variant.getLsbD 0
def IBody.isSat (b : IBody) : Bool := b.variant.getLsbD 1

/-- IADD (R202, Table 8.4). -/
def execIadd (h : Head) (b : RBody) : State → Host.Outcome State Fault Refusal :=
  binaryR (.iadd h b) h b (opIadd (RBody.isSat b))

/-- IADD's immediate twin (R176). -/
def execIaddImm (h : Head) (b : IBody) : State → Host.Outcome State Fault Refusal :=
  binaryI (.iaddImm h b) h b (opIadd (IBody.isSat b))

/-- ISUB (R202, Table 8.4). -/
def execIsub (h : Head) (b : RBody) : State → Host.Outcome State Fault Refusal :=
  binaryR (.isub h b) h b (opIsub (RBody.isSat b))

/-- ISUB's immediate twin (R176). -/
def execIsubImm (h : Head) (b : IBody) : State → Host.Outcome State Fault Refusal :=
  binaryI (.isubImm h b) h b (opIsub (IBody.isSat b))

/-- IMUL (R202, Table 8.4). -/
def execImul (h : Head) (b : RBody) : State → Host.Outcome State Fault Refusal :=
  binaryR (.imul h b) h b opImul

/-- IMUL's immediate twin (R176). -/
def execImulImm (h : Head) (b : IBody) : State → Host.Outcome State Fault Refusal :=
  binaryI (.imulImm h b) h b opImul

/-- IMULHI (R202, Table 8.4). -/
def execImulhi (h : Head) (b : RBody) : State → Host.Outcome State Fault Refusal :=
  binaryR (.imulhi h b) h b (opImulhi (RBody.isU b))

/-- IMULHI's immediate twin (R176). -/
def execImulhiImm (h : Head) (b : IBody) : State → Host.Outcome State Fault Refusal :=
  binaryI (.imulhiImm h b) h b (opImulhi (IBody.isU b))

/-- IMIN (R202, Table 8.4). -/
def execImin (h : Head) (b : RBody) : State → Host.Outcome State Fault Refusal :=
  binaryR (.imin h b) h b (opImin (RBody.isU b))

/-- IMIN's immediate twin (R176). -/
def execIminImm (h : Head) (b : IBody) : State → Host.Outcome State Fault Refusal :=
  binaryI (.iminImm h b) h b (opImin (IBody.isU b))

/-- IMAX (R202, Table 8.4). -/
def execImax (h : Head) (b : RBody) : State → Host.Outcome State Fault Refusal :=
  binaryR (.imax h b) h b (opImax (RBody.isU b))

/-- IMAX's immediate twin (R176). -/
def execImaxImm (h : Head) (b : IBody) : State → Host.Outcome State Fault Refusal :=
  binaryI (.imaxImm h b) h b (opImax (IBody.isU b))

/-- AND (R202, Table 8.4). -/
def execAnd (h : Head) (b : RBody) : State → Host.Outcome State Fault Refusal :=
  binaryR (.and h b) h b opAnd

/-- AND's immediate twin (R176). -/
def execAndImm (h : Head) (b : IBody) : State → Host.Outcome State Fault Refusal :=
  binaryI (.andImm h b) h b opAnd

/-- OR (R202, Table 8.4). -/
def execOr (h : Head) (b : RBody) : State → Host.Outcome State Fault Refusal :=
  binaryR (.or h b) h b opOr

/-- OR's immediate twin (R176). -/
def execOrImm (h : Head) (b : IBody) : State → Host.Outcome State Fault Refusal :=
  binaryI (.orImm h b) h b opOr

/-- XOR (R202, Table 8.4). -/
def execXor (h : Head) (b : RBody) : State → Host.Outcome State Fault Refusal :=
  binaryR (.xor h b) h b opXor

/-- XOR's immediate twin (R176). -/
def execXorImm (h : Head) (b : IBody) : State → Host.Outcome State Fault Refusal :=
  binaryI (.xorImm h b) h b opXor

/-- ANDN (R202, Table 8.4). -/
def execAndn (h : Head) (b : RBody) : State → Host.Outcome State Fault Refusal :=
  binaryR (.andn h b) h b opAndn

/-- ANDN's immediate twin (R176). -/
def execAndnImm (h : Head) (b : IBody) : State → Host.Outcome State Fault Refusal :=
  binaryI (.andnImm h b) h b opAndn

/-- SHL (R202, Table 8.4). -/
def execShl (h : Head) (b : RBody) : State → Host.Outcome State Fault Refusal :=
  binaryR (.shl h b) h b opShl

/-- SHL's immediate twin (R176). -/
def execShlImm (h : Head) (b : IBody) : State → Host.Outcome State Fault Refusal :=
  binaryI (.shlImm h b) h b opShl

/-- SHR (R202, Table 8.4). -/
def execShr (h : Head) (b : RBody) : State → Host.Outcome State Fault Refusal :=
  binaryR (.shr h b) h b opShr

/-- SHR's immediate twin (R176). -/
def execShrImm (h : Head) (b : IBody) : State → Host.Outcome State Fault Refusal :=
  binaryI (.shrImm h b) h b opShr

/-- SAR (R202, Table 8.4). -/
def execSar (h : Head) (b : RBody) : State → Host.Outcome State Fault Refusal :=
  binaryR (.sar h b) h b opSar

/-- SAR's immediate twin (R176). -/
def execSarImm (h : Head) (b : IBody) : State → Host.Outcome State Fault Refusal :=
  binaryI (.sarImm h b) h b opSar

/-- ROT (R202, Table 8.4). -/
def execRot (h : Head) (b : RBody) : State → Host.Outcome State Fault Refusal :=
  binaryR (.rot h b) h b opRot

/-- ROT's immediate twin (R176). -/
def execRotImm (h : Head) (b : IBody) : State → Host.Outcome State Fault Refusal :=
  binaryI (.rotImm h b) h b opRot

/-- BFX (R203, Table 8.4). -/
def execBfx (h : Head) (b : RBody) : State → Host.Outcome State Fault Refusal :=
  binaryR (.bfx h b) h b (opBfx (RBody.isU b))

/-- BFX's immediate twin (R176). -/
def execBfxImm (h : Head) (b : IBody) : State → Host.Outcome State Fault Refusal :=
  binaryI (.bfxImm h b) h b (opBfx (IBody.isU b))

/-- IABS (R202, Table 8.4). -/
def execIabs (h : Head) (b : RBody) : State → Host.Outcome State Fault Refusal :=
  unaryR (.iabs h b) h b (opIabs (RBody.isSat b))

/-- INEG (R202, Table 8.4). -/
def execIneg (h : Head) (b : RBody) : State → Host.Outcome State Fault Refusal :=
  unaryR (.ineg h b) h b (opIneg (RBody.isSat b))

/-- POPC (R202, Table 8.4). -/
def execPopc (h : Head) (b : RBody) : State → Host.Outcome State Fault Refusal :=
  unaryR (.popc h b) h b opPopc

/-- CLZ (R202, Table 8.4). -/
def execClz (h : Head) (b : RBody) : State → Host.Outcome State Fault Refusal :=
  unaryR (.clz h b) h b opClz

/-- BREV (R202, Table 8.4). -/
def execBrev (h : Head) (b : RBody) : State → Host.Outcome State Fault Refusal :=
  unaryR (.brev h b) h b opBrev

/-- IMAD (R202, Table 8.4). -/
def execImad (h : Head) (b : RBody) : State → Host.Outcome State Fault Refusal :=
  issueFixed (.imad h b) h fun _ l =>
    toByte l b.d (opImad (RBody.isU b) (RBody.isSat b) (l.reg b.a) (l.reg b.b) (l.reg b.c))

/-- BFI: d is base and destination (R203). -/
def execBfi (h : Head) (b : RBody) : State → Host.Outcome State Fault Refusal :=
  issueFixed (.bfi h b) h fun _ l =>
    toBytePoison l b.d (opBfi (l.reg b.d) (l.reg b.b) (l.reg b.c)) (l.w.reg l.tid b.d.toNat).poison

/-- ISET writes a predicate (R204). -/
def execIset (h : Head) (b : RBody) : State → Host.Outcome State Fault Refusal :=
  issueFixed (.iset h b) h fun _ l =>
    toPred l b.d (opIset (RBody.isU b) (b.variant.extractLsb' 2 3) (l.reg b.a) (l.reg b.b))

/-- ISET's immediate twin (R204). -/
def execIsetImm (h : Head) (b : IBody) : State → Host.Outcome State Fault Refusal :=
  issueFixed (.isetImm h b) h fun _ l =>
    toPred l b.d (opIset (IBody.isU b) (b.variant.extractLsb' 2 3) (l.reg b.a) b.imm)

/-- SEL passes the chosen operand with its poison (R205). -/
def execSel (h : Head) (b : RBody) : State → Host.Outcome State Fault Refusal :=
  issueFixed (.sel h b) h fun _ l =>
    let r := l.w.reg l.tid (if l.pred b.c ^^ b.variant.getLsbD 0 then b.a else b.b).toNat
    toBytePoison l b.d r.val r.poison

/-- PLOP (R187). -/
def execPlop (h : Head) (b : RBody) : State → Host.Outcome State Fault Refusal :=
  issueFixed (.plop h b) h fun _ l =>
    toPred l b.d (opPlop (b.variant.extractLsb' 0 3) (b.variant.extractLsb' 3 2) b.na b.nb b.nc (l.pred b.a) (l.pred b.b)
      (l.pred b.d))

end Sys2Proof.Machine
end

