-- ==== Sys2Proof/Machine/LaneOps.lean ====
section
/-! DEFINITION. Lane, move and special-register instructions (spec/09_floating_point_and_lanes.md R220-R229). -/

namespace Sys2Proof.Machine

/-- MOV carries poison (R221). -/
def execMov (h : Head) (b : RBody) : State → Host.Outcome State Fault Refusal :=
  issueFixed (.mov h b) h fun _ l =>
    let r := l.w.reg l.tid b.a.toNat
    toBytePoison l b.d r.val r.poison

/-- MOVI (R221). -/
def execMovi (h : Head) (b : IBody) : State → Host.Outcome State Fault Refusal :=
  issueFixed (.movi h b) h fun _ l => toByte l b.d b.imm

/-- A member's register, or the lane's own when there is no such member (R222, R223). -/
def Peers.orOwn (ps : Peers) (l : Lane) (pos : Int) (r : BitVec 8) : VReg :=
  match ps.at_ pos with
  | some tid => ps.reg tid r
  | none => ps.reg l.tid r

/-- Lowest active position. -/
def Peers.lowest (ps : Peers) : Int := match ps.lanes with | l :: _ => l.pos | [] => 0

/-- MOVS (R222). -/
def execMovs (h : Head) (b : RBody) : State → Host.Outcome State Fault Refusal :=
  issueFixed (.movs h b) h fun ps l =>
    let pos : Int := if b.variant.getLsbD 6 then ps.lowest else fld b.variant 5 0
    let r := ps.orOwn l pos b.a
    toBytePoison l b.d r.val r.poison

/-- SHFL's source position (R223). -/
def shflPos (mode : Nat) (pos delta : Nat) : Int :=
  match mode with
  | 0 => delta
  | 1 => (pos : Int) - delta
  | 2 => (pos : Int) + delta
  | _ => ((pos ^^^ delta : Nat) : Int)

/-- SHFL (R223). -/
def execShfl (h : Head) (b : RBody) : State → Host.Outcome State Fault Refusal :=
  issueFixed (.shfl h b) h fun ps l =>
    let delta := if b.variant.getLsbD 2 then fld b.b 5 0 else (l.reg b.b).toNat
    let r := ps.orOwn l (shflPos (fld b.variant 1 0) l.pos delta) b.a
    toBytePoison l b.d r.val r.poison

/-- VOTE over the active lanes, whose predicates the first chunk reads (R224, R220). -/
def execVote (h : Head) (b : RBody) : State → Host.Outcome State Fault Refusal :=
  issueFixed (.vote h b) h fun ps l =>
    let vs := ps.lanes.map fun x => (x.pos, ps.w.preg x.tid (b.a.toNat % 8) ^^ b.variant.getLsbD 2)
    if fld b.variant 1 0 = 0 then toPred l b.d (vs.all Prod.snd)
    else if fld b.variant 1 0 = 1 then toPred l b.d (vs.any Prod.snd)
    else if fld b.variant 1 0 = 2 then toPred l b.d (vs.all Prod.snd || !vs.any Prod.snd)
    else
      let m := vs.foldl (fun m v => if v.2 then m ||| 2 ^ v.1 else m) 0
      .ok (if l.w.w = 64 then wrPair l.tid b.d.toNat (BitVec.ofNat 64 m) else [wrByte l.tid b.d.toNat (BitVec.ofNat 32 m)])

/-- LRED (R225, R89). -/
def execLred (h : Head) (b : RBody) : State → Host.Outcome State Fault Refusal :=
  issueFixed (.lred h b) h fun ps l =>
    let code := fld b.variant 3 0
    let ys := (List.range ps.w.w).map fun p =>
      match ps.lanes.find? fun x => x.pos == p with
      | some x => ((ps.reg x.tid b.a).val, (0 : FpFlags))
      | none => (lredIdentity code, 0)
    let (x, fl) := (lredRounds code 7 1 ys).getD l.pos (0, 0)
    toByteFl l b.d x fl

/-- PRMT consumes nothing; poison passes (R226). -/
def execPrmt (h : Head) (b : RBody) : State → Host.Outcome State Fault Refusal :=
  issueFixed (.prmt h b) h fun _ l =>
    let p (r : BitVec 8) : Bool := (l.w.reg l.tid r.toNat).poison
    toBytePoison l b.d (opPrmt (l.reg b.a) (l.reg b.b) (l.reg b.c)) (p b.a || p b.b || p b.c)

/-- The value of a special register (Tables 2.3, 9.11). -/
def specialReg (l : Lane) (n : Nat) : Nat :=
  match n with
  | 0x00 => l.tid
  | 0x01 => l.tid / l.w.w
  | 0x02 => l.tid % l.w.w
  | 0x03 => l.pos
  | 0x04 => l.w.role (l.tid / l.w.w)
  | 0x05 => l.w.wgid
  | 0x06 => l.w.core
  | 0x07 => l.w.w
  | 0x08 => l.w.g
  | 0x09 => l.w.agelim
  | 0x0A => if l.w.chk then 1 else 0
  | _ => l.w.fpflags.toNat

/-- GETSR (R228); of `fpflags` it issues once its group's results are written (R80, `drains`). -/
def execGetsr (h : Head) (b : IBody) : State → Host.Outcome State Fault Refusal :=
  issueFixed (.getsr h b) h fun _ l => toByte l b.d (BitVec.ofNat 32 (specialReg l b.imm.toNat))

/-- The fpflags that stand when a SETSR value written at time t has met the flags raised (R80, R230). -/
def setFpflags (w : Workgroup) (t : Nat) (x : Word) : Workgroup :=
  let w := w.settle (t - 1)
  { w with fpflags := x.extractLsb' 0 5 }

/-- SETSR of fpflags takes effect when its last chunk issues (R229). -/
def setsrEffect (b : IBody) (s : State) (c : IssueCtx) (lanes : List Lane) : Effect :=
  match lanes with
  | [] => ⟨s, [], []⟩
  | l :: _ => ⟨s.modWg c.wg fun w => setFpflags w c.last (l.reg b.a), [], []⟩

/-- SETSR (R229). -/
def execSetsr (h : Head) (b : IBody) (s : State) : Host.Outcome State Fault Refusal :=
  .next (issue (.setsr h b) h (setsrEffect b) s)

end Sys2Proof.Machine
end

