-- ==== Sys2Proof/Machine/Memory.lean ====
section
/-! DEFINITION. The memory instructions at issue (spec/10_memory_and_capability_instructions.md R231-R248): checks of each
lane's access and the request that goes to its execution point. -/

namespace Sys2Proof.Machine

def specRead (b : MBody) (own : Bool) : AccessSpec := { perms := [pLOAD], n := mBytes b, align := mAlign b, ownOnly := own }
def specWrite (b : MBody) (own : Bool) : AccessSpec :=
  { perms := [pSTORE], n := mBytes b, align := mAlign b, need := { w := true }, ownOnly := own }

/-- A plain load (R236). -/
def loadWith (i : Instr) (h : Head) (b : MBody) (own : Bool) : State → Host.Outcome State Fault Refusal :=
  issueRequests i h (accessRequest b (fun _ => .load (b.variant.getLsbD 0)) (fun _ => specRead b own) (!own) false)
/-- A plain store (R236). -/
def storeWith (i : Instr) (h : Head) (b : MBody) (own : Bool) : State → Host.Outcome State Fault Refusal :=
  issueRequests i h (accessRequest b (fun l => .store (storeData l b)) (fun _ => specWrite b own) (!own) false)

/-- LD (R236). -/
def execLd (h : Head) (b : MBody) : State → Host.Outcome State Fault Refusal := loadWith (.ld h b) h b false
/-- ST (R236). -/
def execSt (h : Head) (b : MBody) : State → Host.Outcome State Fault Refusal := storeWith (.st h b) h b false
/-- LDS: the core's own scratchpad (R236, R94). -/
def execLds (h : Head) (b : MBody) : State → Host.Outcome State Fault Refusal := loadWith (.lds h b) h b true
/-- STS: the core's own scratchpad (R236, R94). -/
def execSts (h : Head) (b : MBody) : State → Host.Outcome State Fault Refusal := storeWith (.sts h b) h b true

/-- LDK: LOADK decides the tag (R237). -/
def execLdk (h : Head) (b : MBody) : State → Host.Outcome State Fault Refusal :=
  issueRequests (.ldk h b) h
    (accessRequest b (fun l => .loadCap ((l.cap b.k).has pLOADK)) (fun _ => { specRead b false with align := 16 }) true false)

/-- Permissions and the data check of STK (R238). -/
def stkSpec (l : Lane) (b : MBody) : AccessSpec :=
  let c := (l.w.kreg l.tid (b.data.toNat % 16)).cap
  { perms := [pSTORE] ++ (if c.valid then [pSTOREK] else []) ++ (if c.valid && !c.has pGLOBAL then [pSTORELOCAL] else [])
    n := 16
    align := 16
    need := { w := true }
    capStore := c.valid
    extra := if c.valid && c.remote && !c.has pTRANSFER then some (.of cPERM (b.data.toNat % 16) 116) else none }

/-- STK does not consume its capability; a malformed one is stored untagged (R238). -/
def execStk (h : Head) (b : MBody) : State → Host.Outcome State Fault Refusal :=
  issueRequests (.stk h b) h
    (accessRequest b (fun l =>
      let r := l.w.kreg l.tid (b.data.toNat % 16)
      .storeCap { r.cap with tag := r.cap.valid } r.poison) (fun l => stkSpec l b) true false)

/-! Full/empty words (R239-R242). The wait is for the 8-byte word's bit. -/

/-- The object of a full/empty request is its 8-byte word. -/
def feRequest (f : LaneRequest) : LaneRequest := fun s c l r =>
  match f s c l r with
  | (s, .ok (some r)) => (s, .ok (some { r with obj := r.obj / 8 * 8 }))
  | x => x

def feSpec (b : MBody) (perms : List Nat) (w : Bool) : AccessSpec :=
  { perms := perms, n := mBytes b, align := mBytes b, need := { w := w, fe := true } }

/-- LDFE (R240). -/
def execLdfe (h : Head) (b : MBody) : State → Host.Outcome State Fault Refusal :=
  issueRequests (.ldfe h b) h
    (feRequest (accessRequest b (fun _ => .ldfe false) (fun _ => feSpec b [pLOAD, pSTORE] true) false true))
/-- LDFE.keep (R240). -/
def execLdfeKeep (h : Head) (b : MBody) : State → Host.Outcome State Fault Refusal :=
  issueRequests (.ldfeKeep h b) h
    (feRequest (accessRequest b (fun _ => .ldfe true) (fun _ => feSpec b [pLOAD] false) false true))
/-- STFE (R240). -/
def execStfe (h : Head) (b : MBody) : State → Host.Outcome State Fault Refusal :=
  issueRequests (.stfe h b) h
    (feRequest (accessRequest b (fun l => .stfe (storeData l b) false) (fun _ => feSpec b [pSTORE] true) false true))
/-- STFE.force never waits (R240). -/
def execStfeForce (h : Head) (b : MBody) : State → Host.Outcome State Fault Refusal :=
  issueRequests (.stfeForce h b) h
    (feRequest (accessRequest b (fun l => .stfe (storeData l b) true) (fun _ => feSpec b [pSTORE] true) false true))

/-! Atomics (R243, R244). -/

def atomSpec (b : MBody) (red : Bool) : AccessSpec :=
  { perms := if red then [pSTORE] else [pLOAD, pSTORE], n := mBytes b, align := mBytes b, need := { w := true }, noDevice := true }

/-- An atomic operation: resolved at its execution point (R163). -/
def atomWith (i : Instr) (h : Head) (b : MBody) (op : AtomOp) (red : Bool) : State → Host.Outcome State Fault Refusal :=
  issueRequests i h (accessRequest b
    (fun l => .atom op (b.variant.getLsbD 0) (runValue l b 0) (runValue l b 1) red) (fun _ => atomSpec b red) true true)

/-- ATOM.add (R244). -/
def execAtomAdd (h : Head) (b : MBody) : State → Host.Outcome State Fault Refusal := atomWith (.atomAdd h b) h b .add false

/-- RED.add (R244). -/
def execRedAdd (h : Head) (b : MBody) : State → Host.Outcome State Fault Refusal := atomWith (.redAdd h b) h b .add true

/-- ATOM.addF32 (R244). -/
def execAtomAddF32 (h : Head) (b : MBody) : State → Host.Outcome State Fault Refusal := atomWith (.atomAddF32 h b) h b .addF32 false

/-- RED.addF32 (R244). -/
def execRedAddF32 (h : Head) (b : MBody) : State → Host.Outcome State Fault Refusal := atomWith (.redAddF32 h b) h b .addF32 true

/-- ATOM.min (R244). -/
def execAtomMin (h : Head) (b : MBody) : State → Host.Outcome State Fault Refusal := atomWith (.atomMin h b) h b .min false

/-- RED.min (R244). -/
def execRedMin (h : Head) (b : MBody) : State → Host.Outcome State Fault Refusal := atomWith (.redMin h b) h b .min true

/-- ATOM.max (R244). -/
def execAtomMax (h : Head) (b : MBody) : State → Host.Outcome State Fault Refusal := atomWith (.atomMax h b) h b .max false

/-- RED.max (R244). -/
def execRedMax (h : Head) (b : MBody) : State → Host.Outcome State Fault Refusal := atomWith (.redMax h b) h b .max true

/-- ATOM.and (R244). -/
def execAtomAnd (h : Head) (b : MBody) : State → Host.Outcome State Fault Refusal := atomWith (.atomAnd h b) h b .and false

/-- RED.and (R244). -/
def execRedAnd (h : Head) (b : MBody) : State → Host.Outcome State Fault Refusal := atomWith (.redAnd h b) h b .and true

/-- ATOM.or (R244). -/
def execAtomOr (h : Head) (b : MBody) : State → Host.Outcome State Fault Refusal := atomWith (.atomOr h b) h b .or false

/-- RED.or (R244). -/
def execRedOr (h : Head) (b : MBody) : State → Host.Outcome State Fault Refusal := atomWith (.redOr h b) h b .or true

/-- ATOM.xor (R244). -/
def execAtomXor (h : Head) (b : MBody) : State → Host.Outcome State Fault Refusal := atomWith (.atomXor h b) h b .xor false

/-- RED.xor (R244). -/
def execRedXor (h : Head) (b : MBody) : State → Host.Outcome State Fault Refusal := atomWith (.redXor h b) h b .xor true

/-- ATOM.xchg (R244). -/
def execAtomXchg (h : Head) (b : MBody) : State → Host.Outcome State Fault Refusal := atomWith (.atomXchg h b) h b .xchg false

/-- ATOM.cas (R244). -/
def execAtomCas (h : Head) (b : MBody) : State → Host.Outcome State Fault Refusal := atomWith (.atomCas h b) h b .cas false

/-- ATOM.incw (R244). -/
def execAtomIncw (h : Head) (b : MBody) : State → Host.Outcome State Fault Refusal := atomWith (.atomIncw h b) h b .incw false

/-- RED.incw (R244). -/
def execRedIncw (h : Head) (b : MBody) : State → Host.Outcome State Fault Refusal := atomWith (.redIncw h b) h b .incw true

/-- ATOM.bfadd (R244). -/
def execAtomBfadd (h : Head) (b : MBody) : State → Host.Outcome State Fault Refusal := atomWith (.atomBfadd h b) h b .bfadd false

/-! Fences, cache control, prefetch. -/

/-- FENCE: 1 `.ar`, 2 `.acq`, 3 `.rel` (R181, R245). It is resolved when its steps have completed. -/
def execFence (h : Head) (b : MBody) : State → Host.Outcome State Fault Refusal :=
  issueRequests (.fence h b) h fun s _ _ r =>
    (s, .ok (some { r with
      op := .fence (b.order != 3) (b.order != 2)
      order := if b.order = 3 then 1 else 2
      scope := b.scope.toNat
      unresolved := true }))

/-- FLUSH and INVAL (R246): without `.all` the line of a checked 1-byte read. -/
def flushRequest (b : MBody) (inval : Bool) : LaneRequest := fun s c l r =>
  if b.variant.getLsbD 0 then (s, .ok (some { r with op := .flush true inval }))
  else accessRequest b (fun _ => .flush false inval) (fun _ => { perms := [pLOAD], n := 1 }) false false s c l r

/-- FLUSH (R246). -/
def execFlush (h : Head) (b : MBody) : State → Host.Outcome State Fault Refusal :=
  issueRequests (.flush h b) h (flushRequest b false)
/-- INVAL (R246). -/
def execInval (h : Head) (b : MBody) : State → Host.Outcome State Fault Refusal :=
  issueRequests (.inval h b) h (flushRequest b true)

/-- Whether a TLB on the way to the die's holds the page (R247). -/
def State.inTlb (s : State) (seat : Seat) (va : Nat) : Bool :=
  inAllocRange va || (s.tlbHit seat {} (va / 4096 % 2 ^ 36)).isSome

/-- PREF fetches a line as a weak read: a remote-home line into its die's cache, and with variant 0 an HBM4E line into the core's
L1 too (R98); whatever fails makes it do nothing (R247). -/
def prefRequest (b : MBody) : LaneRequest := fun s _ l _ =>
  let x := mAddress l b
  if x < 0 || !s.inTlb l.w.seat x.toNat then (s, .ok none)
  else
    match checkAccess s l.w.seat (l.cap b.k) b.k.toNat x { perms := [pLOAD], n := 1 } with
    | (s', .ok p) =>
      let sp := spaceOf (p.pas.headD 0)
      if p.nc || p.io || !(sp == .hbm || sp == .cxl) then (s, .ok none)
      else
        let s' := (s'.weakRead l.w.seat.die false p.pas).1
        (if b.variant.getLsbD 0 then s' else s'.fillL1 l.w.core p.pas, .ok none)
    | _ => (s, .ok none)

/-- PREF: its tag completes at issue (R247). -/
def execPref (h : Head) (b : MBody) : State → Host.Outcome State Fault Refusal :=
  issueRequests (.pref h b) h (prefRequest b)

end Sys2Proof.Machine
end

