-- ==== Sys2Proof/Machine/Messages.lean ====
section
/-! DEFINITION. Messages and notifications at issue (spec/11_waiting_and_messages.md R272-R276): SEND, RECV, CALLE, REPLY,
NSIG, NWAIT. -/

namespace Sys2Proof.Machine

def capFault (k : BitVec 4) (code : BitVec 8) (detail : Nat) (c : Cap) : FaultInfo := .of code k.toNat detail c.cursor

/-- The ek checks (R272, R387): the object's physical address, or none when the endpoint is remote. -/
def checkEk (s : State) (l : Lane) (ek : BitVec 4) (type : Nat) : Except FaultInfo (Option Nat) :=
  let k := l.cap ek
  if !k.valid then .error (capFault ek cTAG 0 k)
  else if k.otype.toNat ≠ type ∧ !k.remote then .error (capFault ek cOTYPE k.otype.toNat k)
  else if !k.has pINVOKE then .error (capFault ek cPERM pINVOKE k)
  else if k.remote then .ok none
  else if !s.objLive k.objPa type then .error (capFault ek cTAG 0 k)
  else .ok (some k.objPa)

/-- A transferred capability's check (R272). -/
def checkTransfer (l : Lane) (k : BitVec 4) : Option FaultInfo :=
  let c := l.cap k
  if k = 0 ∨ !c.valid then none
  else if !c.has pTRANSFER then some (capFault k cPERM pTRANSFER c)
  else if !c.has pGLOBAL then some (capFault k cPERM pGLOBAL c)
  else none

/-- What a lane sends (R272, R274). -/
def laneMsg (l : Lane) (b : SBody) (label : BitVec 20) (call : Bool) (sender : Party) : Msg :=
  let cap (k : BitVec 4) : Option Cap := if k = 0 then none else some { l.cap k with tag := (l.cap k).valid }
  { label := label
    vals := (List.range b.count.toNat).map fun i => l.regN (b.v.toNat + i)
    cap0 := cap b.kx0
    cap1 := cap b.kx1
    call := call
    sender := sender }

/-- Common fields of an S-format request. -/
def Request.forMessage (r : Request) (b : SBody) (op : ReqOp) (order : BitVec 2) (obj scope : Nat) : Request :=
  { r with
    op := op
    order := order
    scope := scope
    obj := obj
    size := b.count.toNat
    data := b.v.toNat
    kreg := b.kx0.toNat + 16 * b.kx1.toNat
    pred := fld b.flags 2 0
    auth := b.ek.toNat
    chans := [chanOf obj]
    unresolved := true }

/-- SEND and CALLE (R274): a remote endpoint's message travels to its origin. -/
def sendRequest (b : SBody) (call : Bool) : LaneRequest := fun s _ l r =>
  match checkEk s l b.ek 2 with
  | .error f => (s, .error f)
  | .ok obj =>
    match (checkTransfer l b.kx0).or (checkTransfer l b.kx1) with
    | some f => (s, .error f)
    | none =>
      let op := ReqOp.send (laneMsg l b b.imm call r.who)
      match obj with
      | some pa =>
        let (scope, s) := s.epScope pa
        (s, .ok (some (r.forMessage b op 3 pa scope)))
      | none =>
        let k := l.cap b.ek
        (s, .ok (some { r.forMessage b op 3 0 4 with
          remote := some k
          chans := [.fabric (k.otype.extractLsb' 0 9).toNat] }))

/-- SEND (R274). -/
def execSend (h : Head) (b : SBody) : State → Host.Outcome State Fault Refusal :=
  issueRequests (.send h b) h (sendRequest b false)
/-- CALLE (R274). -/
def execCalle (h : Head) (b : SBody) : State → Host.Outcome State Fault Refusal :=
  issueRequests (.calle h b) h (sendRequest b true)

/-- A receive on an endpoint or notification: a remote object faults SEALED (R272, R276). -/
def receiveRequest (b : SBody) (type : Nat) (op : ReqOp) : LaneRequest := fun s _ l r =>
  match checkEk s l b.ek type with
  | .error f => (s, .error f)
  | .ok none => (s, .error (capFault b.ek cSEALED 0 (l.cap b.ek)))
  | .ok (some pa) =>
    let (scope, s) := if type = 2 then s.epScope pa else s.noteScope pa
    (s, .ok (some (r.forMessage b op 2 pa scope)))

/-- RECV (R274). -/
def execRecv (h : Head) (b : SBody) : State → Host.Outcome State Fault Refusal :=
  issueRequests (.recv h b) h (receiveRequest b 2 (.recv b.count.toNat b.kx0.toNat b.kx1.toNat))
/-- NWAIT (R276). -/
def execNwait (h : Head) (b : SBody) : State → Host.Outcome State Fault Refusal :=
  issueRequests (.nwait h b) h (receiveRequest b 3 (.nwait (b.imm.zeroExtend 32)))

/-- REPLY: the slot empties and its caller is answered (R274, R275). -/
def replyRequest (b : SBody) : LaneRequest := fun s _ l r =>
  match s.wg? l.w.id |>.bind fun w => w.thread? l.tid with
  | none => (s, .ok none)
  | some t =>
    match t.slot with
    | none => (s, .error (.of cENDPOINT 0 3))
    | some caller =>
      match (checkTransfer l b.kx0).or (checkTransfer l b.kx1) with
      | some f => (s, .error f)
      | none =>
        let reply := ReqOp.reply caller (laneMsg l b 0 false r.who)
        match s.callEndpoint caller with
        | some obj =>
          let (scope, s) := s.epScope obj
          (s.setOwed r.who none, .ok (some (r.forMessage b reply 3 obj scope)))
        | none => (s.setOwed r.who none, .ok (some { r.forMessage b reply 3 0 4 with chans := [] }))

/-- REPLY (R274) releases at the scope of the call's endpoint (R123). To a caller of another package, whose endpoint the slot
does not keep, it releases at the widest scope, which holds every other (log 78). -/
def execReply (h : Head) (b : SBody) : State → Host.Outcome State Fault Refusal :=
  issueRequests (.reply h b) h (replyRequest b)

/-- NSIG (R276). -/
def nsigRequest (b : SBody) : LaneRequest := fun s c l r =>
  let bits := if b.count = 1 then l.reg b.v else b.imm.zeroExtend 32
  match receiveRequest b 3 (.nsig bits) s c l r with
  | (s, .ok (some r)) => (s, .ok (some { r with order := 3 }))
  | x => x

/-- NSIG (R276). -/
def execNsig (h : Head) (b : SBody) : State → Host.Outcome State Fault Refusal :=
  issueRequests (.nsig h b) h (nsigRequest b)

end Sys2Proof.Machine
end

