-- ==== Sys2Proof/Machine/Ports.lean ====
section
/-! DEFINITION. What reaches the package from its ports (spec/23 R451-R459, spec/18 R381, spec/19 Table 19.3, spec/04 R103,
spec/13 Table 13.6): interrupt lines, inbound accesses and MSIs, root-port errors, management messages, a core's reset. -/

namespace Sys2Proof.Machine

/-- IRQ_LINE_ASSERT of line `who` (Table 19.3); a thermal event is counted for die `arg` (Table 24.6). -/
def execIrqLineAssert (s : State) : Host.Outcome State Fault Refusal :=
  .next (if 24 ≤ s.ev.who then s
    else
      let s := if s.ev.who = 18 then s.count (hThermal (s.ev.arg % 4)) else s
      (s.assertLine s.ev.who).flushEvents)

/-- The link of a bifurcated root port is up. -/
def State.linkUp (s : State) (port : Nat) : Bool := decide (port < s.th.rootPorts) && s.th.links.getD port false

/-! The IOMMU (R453): its tables and records have the layouts of the RISC-V IOMMU architecture, which R453 names (log 16). A
translation is made from the tables as they stand, so that an invalidation has nothing to remove and a request meets the old
or the new entry (R460). -/

/-- A table word of the IOMMU, in memory that has one. -/
def State.tableWord (s : State) (pa : Nat) : Option Nat :=
  if (spaceOf pa == .hbm || spaceOf pa == .vault || spaceOf pa == .cxl) && s.populated pa then some (s.peek pa 8) else none
/-- The page number of a directory entry. -/
def dirPage (e : Nat) : Nat := e / 2 ^ 10 % 2 ^ 44
/-- A directory entry that leads on: the next table's page, or the cause of a fault from `cause`: no access, not valid, not
well formed. -/
def State.dirEntry (s : State) (pa cause : Nat) : Except Nat Nat :=
  match s.tableWord pa with
  | none => .error cause
  | some e =>
    if !e.testBit 0 then .error (cause + 1)
    else if e / 2 % 512 != 0 || e / 2 ^ 54 != 0 then .error (cause + 2)
    else .ok (dirPage e)

/-- Address of the device context of a requester: a directory of two levels, of 15 bits (causes 256-260). -/
def State.deviceContext (s : State) (rid : Nat) : Except Nat Nat :=
  let ddtp := s.th.iommu.ddtp.toNat
  if ddtp % 16 ≠ 3 then .error 256
  else if 2 ^ 15 ≤ rid then .error 260
  else
    match s.dirEntry (dirPage ddtp * 4096 + rid / 64 * 8) 257 with
    | .error c => .error c
    | .ok page =>
      let dc := page * 4096 + rid % 64 * 64
      match s.tableWord dc with
      | none => .error 257
      | some tc => if !tc.testBit 0 then .error 258 else if s.peek (dc + 8) 8 / 2 ^ 60 ≠ 0 then .error 259 else .ok dc

/-- Root page of a first stage from its mode and page; none for a bare one. -/
def stageRoot (x cause : Nat) : Except Nat (Option Nat) :=
  if x / 2 ^ 60 = 0 then .ok none else if x / 2 ^ 60 = 9 then .ok (some (x % 2 ^ 44)) else .error cause

/-- The process context of a 20-bit PASID in a directory of three levels (causes 265-267). -/
def State.processRoot (s : State) (pdtp pasid : Nat) : Except Nat (Option Nat) :=
  match s.dirEntry (pdtp % 2 ^ 44 * 4096 + pasid / 2 ^ 17 * 8) 265 with
  | .error c => .error c
  | .ok p1 =>
    match s.dirEntry (p1 * 4096 + pasid / 256 % 512 * 8) 265 with
    | .error c => .error c
    | .ok p0 =>
      let pc := p0 * 4096 + pasid % 256 * 16
      match s.tableWord pc with
      | none => .error 265
      | some ta => if !ta.testBit 0 then .error 266 else stageRoot (s.peek (pc + 8) 8) 267

/-- Root page of a request's first stage, none for a bare one (causes 259, 260, 265-267). -/
def State.stageOf (s : State) (dc : Nat) (pasid : Option Nat) : Except Nat (Option Nat) :=
  let tc := s.peek dc 8
  let fsc := s.peek (dc + 24) 8
  if tc.testBit 5 then
    match pasid.or (if tc.testBit 9 then some 0 else none) with
    | none => .ok none
    | some p =>
      if fsc / 2 ^ 60 = 0 then (if pasid.isSome then .error 260 else .ok none)
      else if fsc / 2 ^ 60 = 3 then s.processRoot fsc p
      else .error 259
  else if pasid.isSome then .error 260
  else stageRoot fsc 259

/-- The first-stage Sv48 translation of a read or write at user privilege: the A and D marks as the context's SADE bit has it
(causes 13 and 15). -/
def State.firstStage (s : State) (dc root iova : Nat) (write : Bool) : State × Except Nat Nat :=
  let cause := if write then 15 else 13
  let vpn := iova / 4096 % 2 ^ 36
  if !(iova / 2 ^ 47 == 0 || iova / 2 ^ 47 == 0x1FFFF) then (s, .error cause)
  else
    match walk s vpn 4 root with
    | none => (s, .error cause)
    | some (at_, pte, level) =>
      let pte' := pte ||| 0x40 ||| (if write then 0x80 else 0)
      if !pteU pte || !(if write then pteW pte else pteR pte) || (pte' ≠ pte && !(s.peek dc 8).testBit 8) then (s, .error cause)
      else (if pte' = pte then s else s.poke at_ 8 pte', .ok (leafPpn level pte vpn * 4096 + iova % 4096))

/-- The interrupt file's page for an address that the MSI page table of a context covers; none for another address (causes
261-263). -/
def State.msiEntry (s : State) (dc iova : Nat) : Option (Except Nat Nat) :=
  let page := BitVec.ofNat 52 (iova / 4096)
  let mask := BitVec.ofNat 52 (s.peek (dc + 40) 8)
  let pattern := BitVec.ofNat 52 (s.peek (dc + 48) 8)
  let ptp := s.peek (dc + 32) 8
  if ptp / 2 ^ 60 ≠ 1 ∨ page &&& ~~~mask ≠ pattern &&& ~~~mask then none
  else
    let index := ((List.range 52).filter mask.getLsbD).zipIdx.foldl (fun (n : Nat) x => n + if page.getLsbD x.1 then 2 ^ x.2 else 0) 0
    let pte := ptp % 2 ^ 44 * 4096 + 16 * index
    some (match s.tableWord pte with
      | none => .error 261
      | some e => if !e.testBit 0 then .error 262 else if e / 2 % 4 ≠ 3 || e.testBit 63 then .error 263 else .ok (dirPage e * 4096))

/-- What the IOMMU makes of a request: an address of memory or a window, the address of an interrupt file, or a fault's cause. -/
inductive Inbound where
  | memory (pa : Nat)
  | msi (pa : Nat)
  | fault (cause : Nat)
  deriving DecidableEq, Repr

/-- The translation of a request (R453). In bare mode an address is physical. -/
def State.iommu (s : State) (rid : Nat) (pasid : Option Nat) (iova : Nat) (write : Bool) : State × Inbound :=
  if s.th.iommu.ddtp.toNat % 16 = 1 then (s, .memory iova)
  else
    match s.deviceContext rid with
    | .error c => (s, .fault c)
    | .ok dc =>
      match s.msiEntry dc iova with
      | some (.ok page) => (s, if write then .msi (page + iova % 4096) else .fault 260)
      | some (.error c) => (s, .fault c)
      | none =>
        match s.stageOf dc pasid with
        | .error c => (s, .fault c)
        | .ok none => (s, .memory iova)
        | .ok (some root) =>
          match s.firstStage dc root iova write with
          | (s, .ok pa) => (s, .memory pa)
          | (s, .error c) => (s, .fault c)

/-- What an inbound request from a port may target (R453), of units that are not fenced: of PCI Express windows another
port's; each port has an equal share of them (log 16). -/
def State.inboundOk (s : State) (port : Nat) (pas : List Nat) : Bool :=
  !pas.isEmpty && pas.all fun pa =>
    (spaceOf pa == .hbm || spaceOf pa == .vault || spaceOf pa == .cxl
      || spaceOf pa == .pcie && (pa - 0x10000000000) / (0x10000000000 / s.th.rootPorts) != port) && s.populated pa

/-- The requester's PASID operand: 20 bits and a bit that says it is there. -/
def pasidOf (v : DWord) : Option Nat := if v.getLsbD 20 then some (v.toNat % 2 ^ 20) else none

/-- A fault record of 32 bytes: cause, PASID, type of the transaction, requester and address. -/
def faultRecord (cause rid : Nat) (pasid : Option Nat) (iova : Nat) (write : Bool) : List Byte :=
  let d0 := cause + (match pasid with | some p => p * 2 ^ 12 + 2 ^ 32 | none => 0) + (if write then 3 else 2) * 2 ^ 34 + rid * 2 ^ 40
  bytesOfNat 8 d0 ++ bytesOfNat 8 0 ++ bytesOfNat 8 iova ++ bytesOfNat 8 0
/-- The record goes to the fault queue in HBM4E; a full queue drops it and notes the overflow. -/
def State.recordFault (s : State) (record : List Byte) : State :=
  let q := s.th.iommu
  let size := 2 ^ (q.fqb.toNat % 32 + 1)
  let at_ := dirPage q.fqb.toNat * 4096 + 32 * q.fqt
  if q.fqb = 0 ∨ !inHbm at_ 32 then s
  else if (q.fqt + 1) % size = q.fqh then { s with th := { s.th with iommu := { q with fqof := true } } }
  else
    let s := s.writeOut at_ record
    { s with th := { s.th with iommu := { q with fqt := (q.fqt + 1) % size } } }
/-- A refused request: recorded in the fault queue and answered with a completer abort (R453). -/
def State.refuseInbound (s : State) (cause : Nat) (write : Bool) : State :=
  (s.recordFault (faultRecord cause (s.ev.arg % 2 ^ 16) (pasidOf s.ev.value2) s.ev.value.toNat write)).outbox
    (.completerAbort s.ev.value.toNat)

/-- A request that a root port takes: a write of at most 512 bytes, a read of at most 4,096 (R451), within 4 KiB. -/
def inboundFits (write : Bool) (iova n : Nat) : Bool :=
  decide (0 < n) && decide (n ≤ if write then 512 else 4096) && decide (iova % 4096 + n ≤ 4096)

/-- An MSI or MSI-X write reaches the interrupt file that its entry names (R381, R453); another register is refused. -/
def State.deliverMsi (s : State) (pa data : Nat) : State :=
  match devReg pa with
  | .file n level 0 => s.raiseInt n level data
  | _ => s.refuseInbound 263 true

/-- INBOUND_DMA from root port `who` (R103, R453) at address `value` of requester `arg`, whose PASID is `value2`: a write of
`bytes` with `ok`, else a read of `arg2` bytes. A request beyond Table 23.7 is an error of the port (R452; log 16). A read
that meets poison is answered with an abort. -/
def execInboundDma (s : State) : Host.Outcome State Fault Refusal :=
  let o := s.ev
  let n := if o.ok then o.bytes.length else o.arg2
  .next (if !s.linkUp o.who then s
    else if !inboundFits o.ok o.value.toNat n then (s.assertLine (4 * o.who + 1)).flushEvents
    else
      match s.iommu (o.arg % 2 ^ 16) (pasidOf o.value2) o.value.toNat o.ok with
      | (s, .fault c) => s.refuseInbound c o.ok
      | (s, .msi pa) => (s.deliverMsi pa (natOfBytes (o.bytes.take 4))).flushEvents
      | (s, .memory pa) =>
        let pas := (List.range n).map (pa + ·)
        if !s.inboundOk o.who pas then s.refuseInbound (if o.ok then 7 else 5) o.ok
        else if o.ok then
          let ws : List (Nat × PByte) := (pas.zip o.bytes).map fun (a, b) => (a, b, false)
          (if isOutside pas then s.outsideWrite ws else s.putBytes ws).pollWaits.flushEvents
        else
          let (s, bs) := if isOutside pas then s.outsideRead pas else (s, pas.map fun a => (s.byteAt a, s.poisonAt a))
          if bs.any Prod.snd then s.outbox (.completerAbort o.value.toNat)
          else s.outbox (.readCompletion o.value.toNat (bs.map Prod.fst)))

/-- INBOUND_MSI from root port `who` (R380, R381, R453): the identity `arg2` written at address `value` by requester `arg`. -/
def execInboundMsi (s : State) : Host.Outcome State Fault Refusal :=
  let o := s.ev
  .next (if !s.linkUp o.who then s
    else
      match s.iommu (o.arg % 2 ^ 16) (pasidOf o.value2) o.value.toNat true with
      | (s, .fault c) => s.refuseInbound c true
      | (s, .msi pa) => (s.deliverMsi pa o.arg2).flushEvents
      | (s, .memory _) => s.refuseInbound 7 true)

/-- ROOT_PORT_ERROR of class `arg` at port `who` (R452); class 3 is a change of the link to `ok`. -/
def execRootPortError (s : State) : Host.Outcome State Fault Refusal :=
  let p := s.ev.who
  let c := s.ev.arg
  .next (if s.th.rootPorts ≤ p ∨ 3 < c then s
    else
      let s := if c = 3 then { s with th := { s.th with links := s.th.links.set p s.ev.ok } } else s
      (s.assertLine (4 * p + c)).flushEvents)

/-- Reports of a health counter by PLDM monitoring begin here. -/
def reportSensor : Nat := 256

/-- MANAGEMENT_MESSAGE of type `arg` (R459): 0 MCTP control assigns the endpoint ID; 2 PLDM monitoring reads sensor `value`:
whether a replacement is requested, or a health counter; 5 a PLDM firmware update with the image `bytes`, refused with status 6
while a command runs; 6 the SPDM request `bytes`. -/
def execManagementMessage (s : State) : Host.Outcome State Fault Refusal :=
  .next (if !s.th.powered then s
    else if s.ev.arg = 0 then { s with th := { s.th with eid := s.ev.value.toNat % 256 } }
    else if s.ev.arg = 2 then
      if s.ev.value = 0 then s.outbox (.report reportReplace (if s.th.replace then 1 else 0))
      else
        match s.th.health[s.ev.value.toNat - 1]? with
        | some x => s.outbox (.report (reportSensor + s.ev.value.toNat - 1) x.toNat)
        | none => s
    else if s.ev.arg = 6 then s.outbox (.spdm (Config.spdmResponse s.ev.bytes s.th.meas))
    else if s.ev.arg = 5 then
      if s.th.status = 1 ∨ s.th.pldm then s.outbox (.report reportRefused stRefused)
      else { s with th := { s.th with pldm := true, pldmImage := s.ev.bytes, stage := 0 } }
    else s)

/-- CORE_RESET of core `who` (Table 13.6): halves on their way to it return to their deques. -/
def execCoreReset (s : State) : Host.Outcome State Fault Refusal := .next (s.returnTransits s.ev.who)

end Sys2Proof.Machine
end

