-- ==== Sys2Proof/Machine/Preempt.lean ====
section
/-! DEFINITION. Pre-emption (spec/20_translation_traps_preemption.md R420-R424, spec/01 Table 1.7): the Hall's decision, the
fill of the shadow bank, the swap, and the spill. A context keeps its workgroups' bank and slots, so that identities do not
change (R259). -/

namespace Sys2Proof.Machine

/-- Ranges of a workgroup's scratchpad bytes and accumulator tiles. -/
def Workgroup.scrRange (w : Workgroup) : Nat × Nat := (w.scrBase, if w.spillScr.isSome then 0 else w.scrLen)
def Workgroup.accRange (w : Workgroup) : Nat × Nat := (w.accBase, if w.spillAcc then 0 else w.accs.length)
/-- Two ranges (start, length) share a place. -/
def overlap (a b : Nat × Nat) : Bool := a.2 != 0 && b.2 != 0 && decide (a.1 < b.1 + b.2) && decide (b.1 < a.1 + a.2)

def Workgroup.scrPa (w : Workgroup) : Nat := scratchBase + w.core * 0x80000 + w.scrBase

/-- A workgroup's scratchpad bytes and accumulators leave the core (R422). -/
def State.spillPools (s : State) (w : Workgroup) : State :=
  let base := w.scrPa
  let at_ := List.range w.scrLen
  s.setWg { w with
    spillScr := some (at_.map fun i => s.byteAt (base + i), (at_.filter fun i => i % 8 == 0 && s.feAt (base + i)),
      (at_.filter fun i => i % 16 == 0 && s.poisonAt (base + i)))
    spillAcc := true }

/-- They return to the same offsets and tiles. -/
def State.unspill (s : State) (w : Workgroup) : State :=
  match w.spillScr with
  | none => s.setWg { w with spillAcc := false }
  | some (bs, fe, po) =>
    let base := w.scrPa
    let s := s.putBytes (bs.zipIdx.map fun (x, i) => (base + i, x, po.contains (i / 16 * 16)))
    let s := (List.range (w.scrLen / 8)).foldl (fun s i => s.setFe (base + 8 * i) (fe.contains (8 * i))) s
    s.setWg { w with spillScr := none, spillAcc := false }

/-- Who may come to a core: a saved context by its slot, workgroups that the shadow bank holds prepared (R18, R330; log 61), a
task in transit, a launch with a workgroup to deal (R421). -/
inductive Contender where
  | context (slot : Nat)
  | prepared
  | task (id : Nat)
  | launch (id : Nat)
  deriving DecidableEq, Repr

def State.contextOf (s : State) (core slot : Nat) : List Workgroup :=
  s.wgs.filter fun w => w.core == core && w.saved == some slot

/-- Workgroups placed in a core's shadow bank that wait for it to become active. -/
def State.prepared (s : State) (core : Nat) : List Workgroup :=
  (s.residents core (1 - (s.core core).active)).filter fun w => w.life == .loading || w.life == .suspended

/-- Contenders for a core, with their effective priorities. -/
def State.contenders (s : State) (core : Nat) : List (Contender × Nat) :=
  let slots := (s.wgs.filterMap fun w => if w.core == core then w.saved else none).eraseDups
  let ctxs := slots.map fun i => (Contender.context i, (s.contextOf core i).foldl (fun p w => max p (s.wgPrio w)) 0)
  let tasks := (s.tasks.filter fun t => t.place == .transit core).filterMap fun t =>
    (s.launch? t.launch).map fun l => (Contender.task t.id, s.launchPrio l)
  let launches := (s.launches.filter fun l => (l.state == .accepted || l.state == .distributed)
      && (s.dealEntry l core).isSome && !s.dealtBefore l).map fun l => (Contender.launch l.id, s.launchPrio l)
  let prepared := match s.prepared core with
    | [] => []
    | w :: r => [(Contender.prepared, (w :: r).foldl (fun p x => max p (s.wgPrio x)) 0)]
  if s.frozen then [] else ctxs ++ prepared ++ tasks ++ launches

/-- The bank that a contender needs: a context its own. -/
def State.bankFor (s : State) (core : Nat) : Contender → Option Nat
  | .context i => (s.contextOf core i).head?.map Workgroup.bank
  | _ => none

/-- Whether a contender's budgets fit in a bank and in the core's pools as they stand (R43, R421). -/
def State.fitsIn (s : State) (core bank : Nat) : Contender → Bool
  | .context i =>
    let ws := s.contextOf core i
    match ws with
    | [] => false
    | w :: r =>
      let others := (s.onCore core).filter fun x => !(ws.any fun y => y.id == x.id)
      poolsFit (s.residents core bank ++ r) w.need &&
        ws.all fun y => others.all fun x =>
          !(overlap x.scrRange (y.scrBase, y.scrLen)) && !(overlap x.accRange (y.accBase, y.accs.length))
  | .prepared => true
  | .task id =>
    match (s.tasks.find? fun t => t.id == id).bind fun t => s.launch? t.launch with
    | some l => s.hasRoom core bank l.need
    | none => false
  | .launch id => match s.launch? id with | some l => s.hasRoom core bank l.need | none => false

/-- The fill begins: the contender's workgroups take their places in the bank. Capabilities of a context pass the write
test (R433). -/
def State.fill (s : State) (core bank : Nat) : Contender → State
  | .context i =>
    (s.contextOf core i).foldl (fun s w =>
      let w := { w.clean s.revoked with saved := none }
      (s.setWg w).unspill w) s
  | .prepared => s
  | .task id => match s.tasks.find? fun t => t.id == id with | some t => (s.dropTask id).placeTask t core bank | none => s
  | .launch id => match s.launch? id with | some l => s.dealOne l core bank | none => s

/-- Workgroups of the active bank whose state a swap moves. -/
def State.outgoing (s : State) (core : Nat) : List Workgroup :=
  (s.residents core (s.core core).active).filter fun w => w.life == .running || w.life == .loading

/-- The state with the active bank's workgroups out of it, as a swap and a spill leave it: their pools remain. -/
def State.aside (s : State) (core : Nat) : State :=
  let out := (s.outgoing core).map Workgroup.id
  { s with wgs := s.wgs.map fun w => if out.contains w.id then { w with saved := some 16 } else w }

/-- Whether a contender fits in the bank that it is to be filled into: a context of the active bank in that bank once it is
the shadow, any other contender in the shadow bank as it stands (R421). -/
def State.fitsFor (s : State) (core : Nat) (x : Contender) : Bool :=
  let c := s.core core
  if s.bankFor core x == some c.active then (s.aside core).fitsIn core c.active x else s.fitsIn core (1 - c.active) x

/-- Spills the pools of outgoing workgroups one after another until the contender fits; none when it never does (R422). -/
def State.spillUntil (core : Nat) (x : Contender) : List Workgroup → State → Option State
  | [], s => if s.fitsFor core x then some s else none
  | w :: r, s => if s.fitsFor core x then some s else spillUntil core x r (s.spillPools w)

/-- Save slots of a core that hold nothing (R420). -/
def State.freeSaveSlot (s : State) (core : Nat) : Option Nat :=
  (List.range (s.hall (dieOfCore core)).saveslots.toNat).find? fun i =>
    (s.contextOf core i).isEmpty && (match (s.core core).spilling with | some (j, _) => j != i | none => true)

/-- A save slot of the core is free for the swap that brings a contender (R421); a context filled back frees its own, and
what lies in a bank already needs none unless something goes out (log 39). -/
def State.slotFor (s : State) (core : Nat) (x : Contender) : Bool :=
  (s.freeSaveSlot core).isSome || (match x with
    | .context i => (s.outgoing core).isEmpty
        || (decide (i < (s.hall (dieOfCore core)).saveslots.toNat) && s.bankFor core x != some (s.core core).active)
    | .prepared => (s.outgoing core).isEmpty
    | _ => false)

/-- A workgroup yields its core to this priority (R421). -/
def State.yields (s : State) (core p : Nat) : Bool :=
  let c := s.core core
  let top := (s.outgoing core).map s.wgPrio
  top.all fun q => decide (q < p) || (decide (q ≤ p) && decide (c.since + 1048576 ≤ c.clock c.active))

/-- The contender of highest priority among some. -/
def bestContender (l : List (Contender × Nat)) : Option Contender :=
  (l.foldl (fun (acc : Option (Contender × Nat)) x =>
    match acc with | none => some x | some a => if a.2 < x.2 then some x else some a) none).map Prod.fst

/-- Whether the contender fits once the outgoing workgroups' pools are spilled. -/
def State.fitsSpilled (s : State) (core : Nat) (x : Contender) : Bool :=
  (State.spillUntil core x (s.outgoing core) s).isSome

/-- Contenders that may come to a core: they outrank its active bank, fit, and have a save slot (R421). -/
def State.able (s : State) (core : Nat) : List (Contender × Nat) :=
  (s.contenders core).filter fun x => s.yields core x.2 && s.slotFor core x.1 && s.fitsSpilled core x.1

/-- PREEMPT_DECISION for core `who` (R421). A contender that fits only after a spill is filled at the swap (R422). A
context of the active bank waits for its bank to become the shadow. -/
def execPreemptDecision (s : State) : Host.Outcome State Fault Refusal :=
  let core := s.ev.who
  let c := s.core core
  let shadow := 1 - c.active
  let busy := c.swapRequested || !c.filling.isEmpty || c.spilling.isSome || c.fenced
  .next (if busy then s
    else
      match bestContender (s.able core) with
      | none => s
      | some x =>
        if s.bankFor core x == some c.active || !s.fitsIn core shadow x then s.setCore { c with swapRequested := true }
        else
          let old := if x = .prepared then [] else (s.residents core shadow).map Workgroup.id
          let s := s.fill core shadow x
          let new := ((s.residents core shadow).map Workgroup.id).filter fun i => !old.contains i
          s.setCore { s.core core with filling := new })

/-- FILL_COMPLETE of core `who` (R424): the filled workgroups are suspended in the shadow bank, and the swap is
requested. -/
def execFillComplete (s : State) : Host.Outcome State Fault Refusal :=
  let c := s.core s.ev.who
  .next (if c.filling.isEmpty then s
    else
      let now := c.clock (1 - c.active)
      let settle (w : Workgroup) : Workgroup :=
        if c.filling.contains w.id && w.life == .loading then { w with life := .suspended, savedClock := now } else w
      let s := { s with wgs := s.wgs.map settle }
      s.setCore { c with filling := [], swapRequested := s.wgs.any fun w => c.filling.contains w.id })

/-- A group stands at a pre-emption point (R423); held, filed and ended threads are in no group. -/
def Group.atPoint (g : Group) : Bool := g.entering || g.stopped || g.yieldUntil.isSome || !g.parkedOn.isEmpty

/-- Groups at a pre-emption point stop once a swap is requested (R423). -/
def State.stopAtPoints (s : State) (core : Nat) : State :=
  let c := s.core core
  if !c.swapRequested then s
  else
    let stop (g : Group) : Group := { g with stopped := g.atPoint }
    { s with wgs := s.wgs.map fun w =>
        if w.core == core && w.bank == c.active && w.life == .running then { w with groups := w.groups.map stop } else w }

/-- Every group of the active bank has reached a point. -/
def State.allAtPoints (s : State) (core : Nat) : Bool :=
  (s.issuing core (s.core core).active).all fun w => w.groups.all Group.atPoint

/-- Times of a workgroup move with its bank's clock, which stood still for it (R34, R423). -/
def Workgroup.shift (d : Nat) (w : Workgroup) : Workgroup :=
  let late (t : Nat) : Nat := t + d
  let shiftGroup (g : Group) : Group :=
    { g with
      notBefore := late g.notBefore
      recent := g.recent.map fun t => if t = 0 then 0 else late t
      older := if g.older = 0 then 0 else late g.older
      lastIssue := late g.lastIssue
      readySince := g.readySince.map late
      starved := g.starved.map late
      yieldUntil := g.yieldUntil.map late
      stopped := false }
  { w with pend := w.pend.map fun p => { p with due := late p.due }, groups := w.groups.map shiftGroup }

/-- "Resumed" of Table 1.7: recorded replies are applied, and a workgroup without live threads drains or retires. -/
def State.resumeWg (s : State) (w : Workgroup) : State :=
  let d := s.clockOf w - w.savedClock
  let s := { s with bins := s.bins.map fun (b : Bin) => if b.wg == w.id then { b with since := b.since + d } else b }
  let scope := match s.launch? w.launch with | some l => if l.flags.getLsbD 1 then max 3 l.scope else l.scope | none => 0
  let s := s.beginWg (w.shift d) scope
  let replies := w.threads.filterMap fun t =>
    match t.status with | .held h => h.reply.map fun v => (t.tid, h, v) | _ => none
  let s := replies.foldl (fun s (tid, h, v) => s.applyVerdict w.id tid h v) s
  s.retireCheck w.id

/-- The swap itself (R423): the outgoing workgroups are suspended, the other bank becomes active, and what it holds
resumes. A core's transits return (Table 13.6). -/
def State.swapBanks (s : State) (core : Nat) (slot : Option Nat) : State :=
  let c := s.core core
  let out := (s.outgoing core).map Workgroup.id
  let now := c.clock c.active
  let suspend (w : Workgroup) : Workgroup :=
    if out.contains w.id then
      { w with life := .suspended, savedClock := now, groups := w.groups.map fun g => { g with stopped := false } }
    else w
  let s := ({ s with wgs := s.wgs.map suspend }.returnTransits core)
  let bank := 1 - c.active
  let s := s.setCore { c with
    active := bank
    since := c.clock bank
    seen := c.clock bank
    pack := none
    swapRequested := false
    spilling := slot.bind fun i => if out.isEmpty then none else some (i, out) }
  ((s.residents core bank).filter fun w => w.life == .suspended).foldl State.resumeWg s

/-- A request that nothing can follow is withdrawn. -/
def State.cancelSwap (s : State) (core : Nat) : State :=
  let go (g : Group) : Group := { g with stopped := false }
  ({ s with wgs := s.wgs.map fun (w : Workgroup) => if w.core == core then { w with groups := w.groups.map go } else w }.setCore
    { s.core core with swapRequested := false }).retireEnded core

/-- An engine operation that still works on tiles of some workgroups: it has neither completed nor faulted, and has been
accepted (R291, R422). -/
def EngineOp.keeps (o : EngineOp) (wgs : List Nat) : Bool :=
  ((o.phase == .queued || o.phase == .running) && wgs.contains o.wg) || o.begun.any wgs.contains

/-- BANK_SWAP of core `who` (R422, R423): every group of the active bank has reached a pre-emption point. Where nothing has
been filled and the contender does not fit, the outgoing workgroups' engine operations have ended or faulted, and their pools
are spilled until it fits: in the shadow bank, or, for a context of the active bank, in that bank after the swap. -/
def execBankSwap (s : State) : Host.Outcome State Fault Refusal :=
  let core := s.ev.who
  let c := s.core core
  let shadow := 1 - c.active
  let out := s.outgoing core
  let ready := (s.residents core shadow).any fun w => w.life == .suspended
  .next (if s.frozen || !c.swapRequested || !c.filling.isEmpty || c.spilling.isSome || !s.allAtPoints core then s
    else if ready then
      if !out.isEmpty && (s.freeSaveSlot core).isNone then s.cancelSwap core else s.swapBanks core (s.freeSaveSlot core)
    else
      match bestContender (s.able core) with
      | none => s.cancelSwap core
      | some x =>
        if !s.fitsFor core x && s.ops.any fun o => o.keeps (out.map Workgroup.id) then s
        else
          match State.spillUntil core x out s with
          | none => s
          | some s =>
            let s := if s.bankFor core x == some c.active then s else s.fill core shadow x
            s.swapBanks core (s.freeSaveSlot core))

/-- The block at an address, from the span cache or from memory; none when its address does not translate. -/
def State.headerAt (s : State) (w : Workgroup) (pc : DWord) : Option Block :=
  match s.fetchSpan w (spanOf pc) with
  | (_, .ok d) => some (blockOf (spanOf pc) (spanHeader d))
  | (_, .error _) => none

/-- The block whose header gives a thread's live counts: that of its resume point (R136, R423). -/
def State.liveBlock (s : State) (w : Workgroup) (t : Thread) : Option Block :=
  match w.groupOf t.tid with
  | some g => if g.entering then s.headerAt w g.pc else some g.blk
  | none =>
    if t.midBlock then some t.blk
    else match s.bins.find? fun b => b.wg == w.id && b.members.contains t.tid with
      | some b => s.headerAt w b.resume
      | none => match t.status with
        | .held h => if h.place == .entry then s.headerAt w h.pc else some t.blk
        | _ => some t.blk

/-! The save area (R420). The rule gives the parts of a slot and what each thread and workgroup saves, not their order or
encoding inside a part: the order here, and free words for the records whose encoding no rule gives, are the model's
(DESIGN CHOICE, log 39). The context that a fill restores stays in State. -/

/-- Free words, as registers. -/
def freeWords : Nat → State → State × List VReg
  | 0, s => (s, [])
  | n + 1, s =>
    let (x, s) := s.fresh
    let (s, r) := freeWords n s
    (s, ⟨x.extractLsb' 0 32, false⟩ :: r)

/-- Words at rising addresses, with their poison, through the die cache to the home. -/
def State.saveWords (s : State) (die pa : Nat) (ws : List VReg) : State :=
  s.engineWrite die ((ws.map fun r => (bytesOfNat 4 r.val.toNat).map fun b => (b, r.poison)).flatten.zipIdx.map fun (b, i) => (pa + i, b))
/-- Capabilities at rising addresses, with their tags (R55) and under the write test (R433). -/
def State.saveCaps (s : State) (die pa : Nat) (cs : List KReg) : State :=
  cs.zipIdx.foldl (fun s (r, i) => s.writeCapAs die true true (pa + 16 * i) (s.sift r.cap) r.poison) s

/-- A 64-bit entry as two words. -/
def wordsOf (x : DWord) : List VReg := [⟨x.extractLsb' 0 32, false⟩, ⟨x.extractLsb' 32 32, false⟩]

/-- Writes the context of a workgroup at `pa` (R423): the capabilities of its live threads, k1 to k(livek) and pcc, then for
each thread 16 bytes more of fixed state and v0 to v(livev − 1), the s-registers, the tile-table lines, and 64 bytes of gang,
latch and flag state. Answers where it ends, aligned for the next one. -/
def State.saveContext (s : State) (w : Workgroup) (die pa : Nat) : State × Nat :=
  let ths := (w.threads.filter Thread.live).map fun t =>
    (t, match s.liveBlock w t with | some b => (b.livev, b.livek) | none => (0, 0))
  let caps := (ths.map fun (t, n) => (t.k.take (n.2 + 1)).drop 1 ++ [⟨t.pcc, false⟩]).flatten
  let (s, free) := freeWords (4 * ths.length + 16) s
  let words := (ths.zipIdx.map fun ((t, n), i) => (free.drop (4 * i)).take 4 ++ t.v.take n.1).flatten
    ++ w.s ++ (w.tiles.map wordsOf).flatten ++ free.drop (4 * ths.length)
  let at_ := pa + 16 * caps.length
  ((s.saveCaps die pa caps).saveWords die at_ words, (at_ + 4 * words.length + 15) / 16 * 16)

/-- The slot of a core in the save area of its die (R420). -/
def State.slotBase (s : State) (core slot : Nat) : Nat :=
  let h := s.hall (dieOfCore core)
  h.savebase.toNat + (core % 256 * h.saveslots.toNat + slot) * 0x900000

/-- Writes the outgoing workgroups' contexts, scratchpads and accumulators into a slot; a slot outside HBM4E takes nothing. -/
def State.writeSlot (s : State) (core slot : Nat) (ws : List Workgroup) : State :=
  let base := s.slotBase core slot
  let die := dieOfCore core
  if base + 0x900000 ≤ 0x8000000000 then
    let (s, _) := ws.foldl (fun (s, pa) w => s.saveContext w die pa) (s, base)
    ws.foldl (fun s w =>
      let s := match w.spillScr with
        | some (bs, _, po) =>
          s.engineWrite die (bs.zipIdx.map fun (b, i) => (base + 0x80000 + w.scrBase + i, b, po.contains (i / 16 * 16)))
        | none => s
      if w.spillAcc then
        w.accs.zipIdx.foldl (fun s (t, i) =>
          s.saveWords die (base + 0x100000 + (w.accBase + i) * 0x4000) (t.data.map fun x => ⟨x, t.poison⟩)) s
      else s) s
  else s

/-- SPILL_COMPLETE of core `who` (R423): the outgoing context lies in its save slot; registers above the live counts are
undefined from now on. -/
def execSpillComplete (s : State) : Host.Outcome State Fault Refusal :=
  let c := s.core s.ev.who
  .next (match c.spilling with
    | none => s
    | some (slot, ids) =>
      let save (s : State) (id : Nat) : State :=
        match s.wg? id with
        | none => s
        | some w =>
          if w.life != .suspended then s
          else
            let s := s.setWg { w with saved := some slot }
            (w.threads.filter Thread.live).foldl (fun s t =>
              match s.liveBlock w t with
              | some b => s.scramble id t.tid b.livev b.livek
              | none => s) s
      let out := (ids.filterMap s.wg?).filter fun w => w.life == .suspended
      let s := ids.foldl save (s.writeSlot s.ev.who slot out)
      s.setCore { s.core s.ev.who with spilling := none })

end Sys2Proof.Machine
end

