-- ==== Sys2Proof/Machine/Dispatch.lean ====
section
/-! DEFINITION. The dispatch: one arm for each constructor of `Instr`, each a direct call of that instruction's meaning. -/

namespace Sys2Proof.Machine

/-- The effect of one instruction or step. -/
def exec (i : Instr) (s : State) : Host.Outcome State Fault Refusal :=
  match i with
  | .nop h b => Sys2Proof.Machine.execNop h b s
  | .bra h b => Sys2Proof.Machine.execBra h b s
  | .br h b => Sys2Proof.Machine.execBr h b s
  | .brx h b => Sys2Proof.Machine.execBrx h b s
  | .call h b => Sys2Proof.Machine.execCall h b s
  | .ret h b => Sys2Proof.Machine.execRet h b s
  | .reform h b => Sys2Proof.Machine.execReform h b s
  | .exit h b => Sys2Proof.Machine.execExit h b s
  | .trap h b => Sys2Proof.Machine.execTrap h b s
  | .brk h b => Sys2Proof.Machine.execBrk h b s
  | .plop h b => Sys2Proof.Machine.execPlop h b s
  | .iadd h b => Sys2Proof.Machine.execIadd h b s
  | .iaddImm h b => Sys2Proof.Machine.execIaddImm h b s
  | .isub h b => Sys2Proof.Machine.execIsub h b s
  | .isubImm h b => Sys2Proof.Machine.execIsubImm h b s
  | .imul h b => Sys2Proof.Machine.execImul h b s
  | .imulImm h b => Sys2Proof.Machine.execImulImm h b s
  | .imulhi h b => Sys2Proof.Machine.execImulhi h b s
  | .imulhiImm h b => Sys2Proof.Machine.execImulhiImm h b s
  | .imad h b => Sys2Proof.Machine.execImad h b s
  | .imin h b => Sys2Proof.Machine.execImin h b s
  | .iminImm h b => Sys2Proof.Machine.execIminImm h b s
  | .imax h b => Sys2Proof.Machine.execImax h b s
  | .imaxImm h b => Sys2Proof.Machine.execImaxImm h b s
  | .iabs h b => Sys2Proof.Machine.execIabs h b s
  | .ineg h b => Sys2Proof.Machine.execIneg h b s
  | .and h b => Sys2Proof.Machine.execAnd h b s
  | .andImm h b => Sys2Proof.Machine.execAndImm h b s
  | .or h b => Sys2Proof.Machine.execOr h b s
  | .orImm h b => Sys2Proof.Machine.execOrImm h b s
  | .xor h b => Sys2Proof.Machine.execXor h b s
  | .xorImm h b => Sys2Proof.Machine.execXorImm h b s
  | .andn h b => Sys2Proof.Machine.execAndn h b s
  | .andnImm h b => Sys2Proof.Machine.execAndnImm h b s
  | .shl h b => Sys2Proof.Machine.execShl h b s
  | .shlImm h b => Sys2Proof.Machine.execShlImm h b s
  | .shr h b => Sys2Proof.Machine.execShr h b s
  | .shrImm h b => Sys2Proof.Machine.execShrImm h b s
  | .sar h b => Sys2Proof.Machine.execSar h b s
  | .sarImm h b => Sys2Proof.Machine.execSarImm h b s
  | .rot h b => Sys2Proof.Machine.execRot h b s
  | .rotImm h b => Sys2Proof.Machine.execRotImm h b s
  | .bfx h b => Sys2Proof.Machine.execBfx h b s
  | .bfxImm h b => Sys2Proof.Machine.execBfxImm h b s
  | .bfi h b => Sys2Proof.Machine.execBfi h b s
  | .popc h b => Sys2Proof.Machine.execPopc h b s
  | .clz h b => Sys2Proof.Machine.execClz h b s
  | .brev h b => Sys2Proof.Machine.execBrev h b s
  | .iset h b => Sys2Proof.Machine.execIset h b s
  | .isetImm h b => Sys2Proof.Machine.execIsetImm h b s
  | .sel h b => Sys2Proof.Machine.execSel h b s
  | .fadd h b => Sys2Proof.Machine.execFadd h b s
  | .faddImm h b => Sys2Proof.Machine.execFaddImm h b s
  | .fsub h b => Sys2Proof.Machine.execFsub h b s
  | .fsubImm h b => Sys2Proof.Machine.execFsubImm h b s
  | .fmul h b => Sys2Proof.Machine.execFmul h b s
  | .fmulImm h b => Sys2Proof.Machine.execFmulImm h b s
  | .ffma h b => Sys2Proof.Machine.execFfma h b s
  | .fmin h b => Sys2Proof.Machine.execFmin h b s
  | .fminImm h b => Sys2Proof.Machine.execFminImm h b s
  | .fmax h b => Sys2Proof.Machine.execFmax h b s
  | .fmaxImm h b => Sys2Proof.Machine.execFmaxImm h b s
  | .fset h b => Sys2Proof.Machine.execFset h b s
  | .fsetImm h b => Sys2Proof.Machine.execFsetImm h b s
  | .frcp h b => Sys2Proof.Machine.execFrcp h b s
  | .frsq h b => Sys2Proof.Machine.execFrsq h b s
  | .fsqrt h b => Sys2Proof.Machine.execFsqrt h b s
  | .fex2 h b => Sys2Proof.Machine.execFex2 h b s
  | .flg2 h b => Sys2Proof.Machine.execFlg2 h b s
  | .fsin h b => Sys2Proof.Machine.execFsin h b s
  | .fcos h b => Sys2Proof.Machine.execFcos h b s
  | .ftanh h b => Sys2Proof.Machine.execFtanh h b s
  | .frnd h b => Sys2Proof.Machine.execFrnd h b s
  | .fcvt h b => Sys2Proof.Machine.execFcvt h b s
  | .fclass h b => Sys2Proof.Machine.execFclass h b s
  | .fscl h b => Sys2Proof.Machine.execFscl h b s
  | .hadd2 h b => Sys2Proof.Machine.execHadd2 h b s
  | .hmul2 h b => Sys2Proof.Machine.execHmul2 h b s
  | .hfma2 h b => Sys2Proof.Machine.execHfma2 h b s
  | .mov h b => Sys2Proof.Machine.execMov h b s
  | .movi h b => Sys2Proof.Machine.execMovi h b s
  | .movs h b => Sys2Proof.Machine.execMovs h b s
  | .shfl h b => Sys2Proof.Machine.execShfl h b s
  | .vote h b => Sys2Proof.Machine.execVote h b s
  | .lred h b => Sys2Proof.Machine.execLred h b s
  | .prmt h b => Sys2Proof.Machine.execPrmt h b s
  | .getsr h b => Sys2Proof.Machine.execGetsr h b s
  | .setsr h b => Sys2Proof.Machine.execSetsr h b s
  | .ld h b => Sys2Proof.Machine.execLd h b s
  | .st h b => Sys2Proof.Machine.execSt h b s
  | .ldk h b => Sys2Proof.Machine.execLdk h b s
  | .stk h b => Sys2Proof.Machine.execStk h b s
  | .lds h b => Sys2Proof.Machine.execLds h b s
  | .sts h b => Sys2Proof.Machine.execSts h b s
  | .ldfe h b => Sys2Proof.Machine.execLdfe h b s
  | .ldfeKeep h b => Sys2Proof.Machine.execLdfeKeep h b s
  | .stfe h b => Sys2Proof.Machine.execStfe h b s
  | .stfeForce h b => Sys2Proof.Machine.execStfeForce h b s
  | .fence h b => Sys2Proof.Machine.execFence h b s
  | .flush h b => Sys2Proof.Machine.execFlush h b s
  | .inval h b => Sys2Proof.Machine.execInval h b s
  | .pref h b => Sys2Proof.Machine.execPref h b s
  | .atomAdd h b => Sys2Proof.Machine.execAtomAdd h b s
  | .atomAddF32 h b => Sys2Proof.Machine.execAtomAddF32 h b s
  | .atomMin h b => Sys2Proof.Machine.execAtomMin h b s
  | .atomMax h b => Sys2Proof.Machine.execAtomMax h b s
  | .atomAnd h b => Sys2Proof.Machine.execAtomAnd h b s
  | .atomOr h b => Sys2Proof.Machine.execAtomOr h b s
  | .atomXor h b => Sys2Proof.Machine.execAtomXor h b s
  | .atomXchg h b => Sys2Proof.Machine.execAtomXchg h b s
  | .atomCas h b => Sys2Proof.Machine.execAtomCas h b s
  | .atomIncw h b => Sys2Proof.Machine.execAtomIncw h b s
  | .atomBfadd h b => Sys2Proof.Machine.execAtomBfadd h b s
  | .redAdd h b => Sys2Proof.Machine.execRedAdd h b s
  | .redAddF32 h b => Sys2Proof.Machine.execRedAddF32 h b s
  | .redMin h b => Sys2Proof.Machine.execRedMin h b s
  | .redMax h b => Sys2Proof.Machine.execRedMax h b s
  | .redAnd h b => Sys2Proof.Machine.execRedAnd h b s
  | .redOr h b => Sys2Proof.Machine.execRedOr h b s
  | .redXor h b => Sys2Proof.Machine.execRedXor h b s
  | .redIncw h b => Sys2Proof.Machine.execRedIncw h b s
  | .kaddr h b => Sys2Proof.Machine.execKaddr h b s
  | .kbase h b => Sys2Proof.Machine.execKbase h b s
  | .klen h b => Sys2Proof.Machine.execKlen h b s
  | .kperm h b => Sys2Proof.Machine.execKperm h b s
  | .ktype h b => Sys2Proof.Machine.execKtype h b s
  | .ktag h b => Sys2Proof.Machine.execKtag h b s
  | .kseta h b => Sys2Proof.Machine.execKseta h b s
  | .kinc h b => Sys2Proof.Machine.execKinc h b s
  | .kbnd h b => Sys2Proof.Machine.execKbnd h b s
  | .kbndx h b => Sys2Proof.Machine.execKbndx h b s
  | .kandp h b => Sys2Proof.Machine.execKandp h b s
  | .kseal h b => Sys2Proof.Machine.execKseal h b s
  | .kunseal h b => Sys2Proof.Machine.execKunseal h b s
  | .ksub h b => Sys2Proof.Machine.execKsub h b s
  | .kclr h b => Sys2Proof.Machine.execKclr h b s
  | .kmov h b => Sys2Proof.Machine.execKmov h b s
  | .kentry h b => Sys2Proof.Machine.execKentry h b s
  | .bar h b => Sys2Proof.Machine.execBar h b s
  | .mwait h b => Sys2Proof.Machine.execMwait h b s
  | .mwaitEq h b => Sys2Proof.Machine.execMwaitEq h b s
  | .lock h b => Sys2Proof.Machine.execLock h b s
  | .unlock h b => Sys2Proof.Machine.execUnlock h b s
  | .wreg h b => Sys2Proof.Machine.execWreg h b s
  | .wdereg h b => Sys2Proof.Machine.execWdereg h b s
  | .whold h b => Sys2Proof.Machine.execWhold h b s
  | .send h b => Sys2Proof.Machine.execSend h b s
  | .recv h b => Sys2Proof.Machine.execRecv h b s
  | .calle h b => Sys2Proof.Machine.execCalle h b s
  | .reply h b => Sys2Proof.Machine.execReply h b s
  | .nsig h b => Sys2Proof.Machine.execNsig h b s
  | .nwait h b => Sys2Proof.Machine.execNwait h b s
  | .yield h b => Sys2Proof.Machine.execYield h b s
  | .tdef h b => Sys2Proof.Machine.execTdef h b s
  | .tstat h b => Sys2Proof.Machine.execTstat h b s
  | .twait h b => Sys2Proof.Machine.execTwait h b s
  | .trel h b => Sys2Proof.Machine.execTrel h b s
  | .gang h b => Sys2Proof.Machine.execGang h b s
  | .copy h b => Sys2Proof.Machine.execCopy h b s
  | .copym h b => Sys2Proof.Machine.execCopym h b s
  | .mma h b => Sys2Proof.Machine.execMma h b s
  | .mmak h b => Sys2Proof.Machine.execMmak h b s
  | .scacc h b => Sys2Proof.Machine.execScacc h b s
  | .aclr h b => Sys2Proof.Machine.execAclr h b s
  | .ainit h b => Sys2Proof.Machine.execAinit h b s
  | .adrain h b => Sys2Proof.Machine.execAdrain h b s
  | .launch h b => Sys2Proof.Machine.execLaunch h b s
  | .pclaim h b => Sys2Proof.Machine.execPclaim h b s
  | .pdone h b => Sys2Proof.Machine.execPdone h b s
  | .schrd h b => Sys2Proof.Machine.execSchrd h b s
  | .schwr h b => Sys2Proof.Machine.execSchwr h b s
  | .covrd h b => Sys2Proof.Machine.execCovrd h b s
  | .spawn h b => Sys2Proof.Machine.execSpawn h b s
  | .reggive h b => Sys2Proof.Machine.execReggive h b s
  | .regclaim h b => Sys2Proof.Machine.execRegclaim h b s
  | .pdim h b => Sys2Proof.Machine.execPdim h b s
  | .pcancel h b => Sys2Proof.Machine.execPcancel h b s
  | .prepeat h b => Sys2Proof.Machine.execPrepeat h b s
  | .kld d b imm => Sys2Proof.Machine.execKld d b imm s
  | .kst a b imm => Sys2Proof.Machine.execKst a b imm s
  | .kincHart d a imm => Sys2Proof.Machine.execKincHart d a imm s
  | .kandpHart d a mask => Sys2Proof.Machine.execKandpHart d a mask s
  | .kbndHart d a l => Sys2Proof.Machine.execKbndHart d a l s
  | .kbndxHart d a l => Sys2Proof.Machine.execKbndxHart d a l s
  | .kaddrHart d a => Sys2Proof.Machine.execKaddrHart d a s
  | .kaddrSet d a x => Sys2Proof.Machine.execKaddrSet d a x s
  | .ksealHart d a b => Sys2Proof.Machine.execKsealHart d a b s
  | .kunsealHart d a b => Sys2Proof.Machine.execKunsealHart d a b s
  | .kentryHart d a => Sys2Proof.Machine.execKentryHart d a s
  | .kmodeCap => Sys2Proof.Machine.execKmodeCap s
  | .kmodeInt => Sys2Proof.Machine.execKmodeInt s
  | .kmodeRd d r => Sys2Proof.Machine.execKmodeRd d r s
  | .kmodeWr r a => Sys2Proof.Machine.execKmodeWr r a s
  | .kmodeJmp d a => Sys2Proof.Machine.execKmodeJmp d a s
  | .ksend count x e y => Sys2Proof.Machine.execKsend count x e y s
  | .krecv nb count x e y => Sys2Proof.Machine.execKrecv nb count x e y s
  | .kcall count x e y => Sys2Proof.Machine.execKcall count x e y s
  | .kreply count x y => Sys2Proof.Machine.execKreply count x y s
  | .omake d u t => Sys2Proof.Machine.execOmake d u t s
  | .aspaceTeardown count x e y => Sys2Proof.Machine.execAspaceTeardown count x e y s
  | .asidRelease count x e y => Sys2Proof.Machine.execAsidRelease count x e y s
  | .sweepStart count x e y => Sys2Proof.Machine.execSweepStart count x e y s
  | .objectRevoke count x e y => Sys2Proof.Machine.execObjectRevoke count x e y s
  | .mret => Sys2Proof.Machine.execMret s
  | .sret => Sys2Proof.Machine.execSret s
  | .hartMemoryAccess a => Sys2Proof.Machine.execHartMemoryAccess a s
  | .trapEntry => Sys2Proof.Machine.execTrapEntry s
  | .mtimecmpMatch => Sys2Proof.Machine.execMtimecmpMatch s
  | .stimecmpMatch => Sys2Proof.Machine.execStimecmpMatch s
  | .interruptFileWrite => Sys2Proof.Machine.execInterruptFileWrite s
  | .doorbell => Sys2Proof.Machine.execDoorbell s
  | .ctxupd => Sys2Proof.Machine.execCtxupd s
  | .wfovf => Sys2Proof.Machine.execWfovf s
  | .xinv => Sys2Proof.Machine.execXinv s
  | .xinvComplete => Sys2Proof.Machine.execXinvComplete s
  | .registerWrite => Sys2Proof.Machine.execRegisterWrite s
  | .update => Sys2Proof.Machine.execUpdate s
  | .handover => Sys2Proof.Machine.execHandover s
  | .logread => Sys2Proof.Machine.execLogread s
  | .evidence => Sys2Proof.Machine.execEvidence s
  | .debugUnlock => Sys2Proof.Machine.execDebugUnlock s
  | .exportCmd => Sys2Proof.Machine.execExportCmd s
  | .importCmd => Sys2Proof.Machine.execImportCmd s
  | .provision => Sys2Proof.Machine.execProvision s
  | .health => Sys2Proof.Machine.execHealth s
  | .mailboxFence => Sys2Proof.Machine.execMailboxFence s
  | .rekey => Sys2Proof.Machine.execRekey s
  | .powerOn => Sys2Proof.Machine.execPowerOn s
  | .bootStep => Sys2Proof.Machine.execBootStep s
  | .bootWatchdogExpiry => Sys2Proof.Machine.execBootWatchdogExpiry s
  | .resultWriteback => Sys2Proof.Machine.execResultWriteback s
  | .blockEntry => Sys2Proof.Machine.execBlockEntry s
  | .binAgeExpiry => Sys2Proof.Machine.execBinAgeExpiry s
  | .binIdleForm => Sys2Proof.Machine.execBinIdleForm s
  | .groupStarved => Sys2Proof.Machine.execGroupStarved s
  | .yieldExpiry => Sys2Proof.Machine.execYieldExpiry s
  | .faultReply => Sys2Proof.Machine.execFaultReply s
  | .accessAtExecutionPoint => Sys2Proof.Machine.execAccessAtExecutionPoint s
  | .accessReply => Sys2Proof.Machine.execAccessReply s
  | .flushProbeReply => Sys2Proof.Machine.execFlushProbeReply s
  | .lineEviction => Sys2Proof.Machine.execLineEviction s
  | .writeBack => Sys2Proof.Machine.execWriteBack s
  | .remoteAccessRequest => Sys2Proof.Machine.execRemoteAccessRequest s
  | .flitReceive => Sys2Proof.Machine.execFlitReceive s
  | .keyRotationStart => Sys2Proof.Machine.execKeyRotationStart s
  | .oldKeyExpiry => Sys2Proof.Machine.execOldKeyExpiry s
  | .barrierPhaseComplete => Sys2Proof.Machine.execBarrierPhaseComplete s
  | .rendezvousComplete => Sys2Proof.Machine.execRendezvousComplete s
  | .registrationWalkEnd => Sys2Proof.Machine.execRegistrationWalkEnd s
  | .engineAccept => Sys2Proof.Machine.execEngineAccept s
  | .engineOperationStart => Sys2Proof.Machine.execEngineOperationStart s
  | .mmaComplete => Sys2Proof.Machine.execMmaComplete s
  | .mmakComplete => Sys2Proof.Machine.execMmakComplete s
  | .scaccComplete => Sys2Proof.Machine.execScaccComplete s
  | .aclrComplete => Sys2Proof.Machine.execAclrComplete s
  | .ainitComplete => Sys2Proof.Machine.execAinitComplete s
  | .copyComplete => Sys2Proof.Machine.execCopyComplete s
  | .copymDelivery => Sys2Proof.Machine.execCopymDelivery s
  | .drainWriteAck => Sys2Proof.Machine.execDrainWriteAck s
  | .adrainComplete => Sys2Proof.Machine.execAdrainComplete s
  | .engineFault => Sys2Proof.Machine.execEngineFault s
  | .engineFaultReply => Sys2Proof.Machine.execEngineFaultReply s
  | .mailboxDelivery => Sys2Proof.Machine.execMailboxDelivery s
  | .qcbLoad => Sys2Proof.Machine.execQcbLoad s
  | .queueEntryTake => Sys2Proof.Machine.execQueueEntryTake s
  | .prologueStart => Sys2Proof.Machine.execPrologueStart s
  | .launchValidate => Sys2Proof.Machine.execLaunchValidate s
  | .workgroupDistribute => Sys2Proof.Machine.execWorkgroupDistribute s
  | .workgroupStart => Sys2Proof.Machine.execWorkgroupStart s
  | .launchFinish => Sys2Proof.Machine.execLaunchFinish s
  | .completionStampWrite => Sys2Proof.Machine.execCompletionStampWrite s
  | .taskSpill => Sys2Proof.Machine.execTaskSpill s
  | .taskRefill => Sys2Proof.Machine.execTaskRefill s
  | .taskReady => Sys2Proof.Machine.execTaskReady s
  | .taskTake => Sys2Proof.Machine.execTaskTake s
  | .transitAck => Sys2Proof.Machine.execTransitAck s
  | .preemptDecision => Sys2Proof.Machine.execPreemptDecision s
  | .fillComplete => Sys2Proof.Machine.execFillComplete s
  | .bankSwap => Sys2Proof.Machine.execBankSwap s
  | .spillComplete => Sys2Proof.Machine.execSpillComplete s
  | .sweepRegisterPhase => Sys2Proof.Machine.execSweepRegisterPhase s
  | .sweepMemoryPhase => Sys2Proof.Machine.execSweepMemoryPhase s
  | .sweepStatePhase => Sys2Proof.Machine.execSweepStatePhase s
  | .sweepComplete => Sys2Proof.Machine.execSweepComplete s
  | .remotePassRequest => Sys2Proof.Machine.execRemotePassRequest s
  | .remotePassAck => Sys2Proof.Machine.execRemotePassAck s
  | .remotePassTimeout => Sys2Proof.Machine.execRemotePassTimeout s
  | .irqLineAssert => Sys2Proof.Machine.execIrqLineAssert s
  | .inboundDma => Sys2Proof.Machine.execInboundDma s
  | .inboundMsi => Sys2Proof.Machine.execInboundMsi s
  | .rootPortError => Sys2Proof.Machine.execRootPortError s
  | .managementMessage => Sys2Proof.Machine.execManagementMessage s
  | .powerLoss => Sys2Proof.Machine.execPowerLoss s
  | .coreReset => Sys2Proof.Machine.execCoreReset s
  | .mailboxCommandComplete => Sys2Proof.Machine.execMailboxCommandComplete s
  | .uncorrectableError => Sys2Proof.Machine.execUncorrectableError s
  | .unassignedOpcode op h body => Sys2Proof.Machine.execUnassignedOpcode op h body s
  | .hartFence fm pred succ => Sys2Proof.Machine.execHartFence fm pred succ s
  | .xkcapCsrAccess op csr rd rs1 => Sys2Proof.Machine.execXkcapCsrAccess op csr rd rs1 s

end Sys2Proof.Machine
end

