-- ==== Sys2Proof/Machine/RvFloat.lean ====
section
/-! DEFINITION. F and D of a hart (spec/18 Table 18.1; the meanings are RISC-V's, log 5): rounding modes, NaN boxing,
arithmetic, comparisons and conversions on exact values. -/

namespace Sys2Proof.Machine

def fp64 : FpFormat := ⟨11, 52, 1023, false⟩
def fmtOf (dbl : Bool) : FpFormat := if dbl then fp64 else fp32

/-- RISC-V's rounding modes: RMM beside those of the cores. -/
inductive RvRound where
  | mode (m : RMode)
  | rmm
  deriving DecidableEq, Repr

def RvRound.of (n : Nat) : Option RvRound :=
  match n with
  | 0 => some (.mode .rne)
  | 1 => some (.mode .rz)
  | 2 => some (.mode .rd)
  | 3 => some (.mode .ru)
  | 4 => some .rmm
  | _ => none
/-- The mode of an instruction: its rm field, or frm. -/
def Hart.rounding (h : Hart) (rm : Nat) : Option RvRound :=
  RvRound.of (if rm = 7 then h.fcsr.toNat / 32 else rm)

/-- The mode that gives the sign of an exact zero sum. -/
def RvRound.base : RvRound → RMode
  | .mode m => m
  | .rmm => .rne

/-- Rounds under a RISC-V mode: RMM takes ties away from zero, as if the value were a little larger. -/
def roundRv (f : FpFormat) (r : RvRound) (x : FVal) : FVal × FpFlags :=
  match r, x with
  | .rmm, .num n m e st =>
    let exact := f.round .rne x
    if exact.2 = 0 then exact else f.round .rne (.num n m e (st || m != 0))
  | r, x => f.round r.base x

/-- An operand: a single that is not NaN-boxed is the canonical NaN. -/
def fBits (dbl : Bool) (v : DWord) : Nat :=
  if dbl then v.toNat else if v.extractLsb' 32 32 = 0xFFFFFFFF then v.toNat % 2 ^ 32 else fp32.canonNan
def fVal (dbl : Bool) (v : DWord) : FVal := (fmtOf dbl).decode (fBits dbl v)
/-- A result in an f register. -/
def fBox (dbl : Bool) (bits : Nat) : DWord := loadF (wideBytes dbl) bits

def divVal (x y : FVal) : FVal × FpFlags :=
  match x, y with
  | .nan _, _ => (.nan false, nvOf [x, y])
  | _, .nan _ => (.nan false, nvOf [x, y])
  | .inf _, .inf _ => (.nan false, flagNV)
  | .inf n, .num n' _ _ _ => (.inf (n != n'), 0)
  | .num n _ _ _, .inf n' => (.zero (n != n'), 0)
  | .num n m e _, .num n' m' e' _ =>
    if m' = 0 then (if m = 0 then (.nan false, flagNV) else (.inf (n != n'), flagDZ))
    else if m = 0 then (.zero (n != n'), 0)
    else
      let a := m <<< 120
      let q := a / m'
      (.num (n != n') q (e - e' - 120) (q * m' != a), 0)

def sqrtVal (x : FVal) : FVal × FpFlags :=
  match x with
  | .nan s => (.nan false, if s then flagNV else 0)
  | .inf n => if n then (.nan false, flagNV) else (.inf false, 0)
  | .num n m e _ =>
    if m = 0 then (.zero n, 0)
    else if n then (.nan false, flagNV)
    else
      let odd := e % 2 != 0
      let m' := (if odd then 2 * m else m) <<< 140
      let e' := (if odd then e - 1 else e) - 140
      let r := isqrt m'
      (.num false r (e' / 2) (r * r != m'), 0)

/-- FCLASS. -/
def fclassRv (f : FpFormat) (bits : Nat) : Nat :=
  match f.decode bits with
  | .nan true => 0x100
  | .nan false => 0x200
  | .inf n => if n then 0x001 else 0x080
  | .num n m _ _ =>
    if m = 0 then (if n then 0x008 else 0x010)
    else if m < 2 ^ f.fbits then (if n then 0x004 else 0x020)
    else (if n then 0x002 else 0x040)

/-- A conversion to an integer of w bits: out of range it saturates and is invalid. -/
def toIntRv (r : RvRound) (signed : Bool) (w : Nat) (x : FVal) : Int × FpFlags :=
  let lo := intMin signed w
  let hi := intMax signed w
  match x with
  | .nan _ => (hi, flagNV)
  | .inf n => (if n then lo else hi, flagNV)
  | .num n m e _ =>
    let (k, exact) := match r with
      | .mode md => roundTo md n m e 0 false
      | .rmm =>
        let (k, exact) := roundTo .rne n m e 0 false
        if exact then (k, true) else ((roundTo .rne n m e 0 true).1, false)
    let v : Int := if n then -(k : Int) else k
    if v < lo then (lo, flagNV) else if hi < v then (hi, flagNV) else (v, if exact then 0 else flagNX)

/-- Result of a floating-point instruction: an f or an x register's value, with its flags. -/
inductive FOut where
  | f (v : DWord) (fl : FpFlags)
  | x (v : DWord) (fl : FpFlags)
  deriving DecidableEq, Repr

def rounded (dbl : Bool) (r : RvRound) (x : FVal × FpFlags) : FOut :=
  let (y, fl) := roundRv (fmtOf dbl) r x.1
  .f (fBox dbl ((fmtOf dbl).encode y)) (x.2 ||| fl)

/-- Sign injection. -/
def sgnj (dbl : Bool) (f3 a b : Nat) : Option Nat :=
  let w := (fmtOf dbl).width - 1
  let sa := a.testBit w
  let sb := b.testBit w
  let put (s : Bool) : Nat := a % 2 ^ w + (if s then 2 ^ w else 0)
  match f3 with
  | 0 => some (put sb)
  | 1 => some (put (!sb))
  | 2 => some (put (sa != sb))
  | _ => none

/-- An integer result in an x register: 32-bit results are sign-extended. -/
def intResult (w : Nat) (v : Int) : DWord  :=
  if w = 32 then (BitVec.ofInt 32 v).signExtend 64 else BitVec.ofInt 64 v

/-- OP-FP (0x53): `sel` is funct5, `rs2` its field; a and b are f registers, x an x register. -/
def fpOp (sel f3 rs2 : Nat) (dbl : Bool) (rm : Option RvRound) (a b x : DWord) : Option FOut :=
  let f := fmtOf dbl
  let va := fVal dbl a
  let vb := fVal dbl b
  let w := if rs2 / 2 = 0 then 32 else 64
  let signed := rs2 % 2 == 0
  match sel with
  | 0x00 => rm.map fun r => rounded dbl r (va.add r.base vb)
  | 0x01 => rm.map fun r => rounded dbl r (va.add r.base (match vb with | .num n m e st => .num (!n) m e st | .inf n => .inf (!n) | v => v))
  | 0x02 => rm.map fun r => rounded dbl r (va.mul vb)
  | 0x03 => rm.map fun r => rounded dbl r (divVal va vb)
  | 0x0B => if rs2 = 0 then rm.map fun r => rounded dbl r (sqrtVal va) else none
  | 0x04 => (sgnj dbl f3 (fBits dbl a) (fBits dbl b)).map fun v => .f (fBox dbl v) 0
  | 0x05 =>
    if f3 < 2 then
      let (y, fl) := va.minMax (f3 == 1) true vb
      some (.f (fBox dbl (if y.isNan then f.canonNan else f.encode y)) fl)
    else none
  | 0x08 =>
    -- fcvt.s.d and fcvt.d.s: rs2 names the source format.
    if rs2 = (if dbl then 0 else 1) then rm.map fun r => rounded dbl r ((fVal (!dbl) a), nvOf [fVal (!dbl) a]) else none
  | 0x14 =>
    match f3 with
    | 2 => let (r, fl) := va.compareBy 0 vb; some (.x (if r then 1 else 0) fl)
    | 1 => let (r, fl) := va.compareBy 2 vb; some (.x (if r then 1 else 0) fl)
    | 0 => let (r, fl) := va.compareBy 3 vb; some (.x (if r then 1 else 0) fl)
    | _ => none
  | 0x18 =>
    if rs2 < 4 then rm.map fun r =>
      let (v, fl) := toIntRv r signed w va
      .x (intResult w v) fl
    else none
  | 0x1A =>
    if rs2 < 4 then rm.map fun r =>
      rounded dbl r (FVal.ofInt (intOfBits signed w (x.toNat % 2 ^ w)), 0)
    else none
  | 0x1C =>
    if rs2 ≠ 0 then none
    else if f3 = 0 then some (.x (if dbl then a else (a.extractLsb' 0 32).signExtend 64) 0)
    else if f3 = 1 then some (.x (BitVec.ofNat 64 (fclassRv f (fBits dbl a))) 0)
    else none
  | 0x1E => if rs2 = 0 ∧ f3 = 0 then some (.f (if dbl then x else fBox false (x.toNat % 2 ^ 32)) 0) else none
  | _ => none

/-- FMADD, FMSUB, FNMSUB, FNMADD. -/
def fpFma (dbl negProduct negAdd : Bool) (r : RvRound) (a b c : DWord) : FOut :=
  let flip (s : Bool) (v : FVal) : FVal :=
    if s then (match v with | .num n m e st => .num (!n) m e st | .inf n => .inf (!n) | v => v) else v
  rounded dbl r (FVal.fma r.base (flip negProduct (fVal dbl a)) (fVal dbl b) (flip negAdd (fVal dbl c)))

/-- Flags accrue in fcsr, and FS becomes dirty. -/
def Hart.orFlags (h : Hart) (fl : FpFlags) : Hart :=
  if fl = 0 then h
  else { h with fcsr := h.fcsr ||| fl.zeroExtend 8, mstatus := setBit64 (h.mstatus ||| 0x6000) 63 true }

/-- A floating-point result is written. -/
def Hart.putF (h : Hart) (rd : BitVec 5) : FOut → Hart
  | .f v fl => (h.setF rd v).orFlags fl
  | .x v fl => (h.setX rd v).orFlags fl

end Sys2Proof.Machine
end

