-- ==== Sys2Proof/Machine/RvInt.lean ====
section
/-! DEFINITION. Integer instructions of the standard RISC-V extensions that a hart implements (spec/18 R362, Table 18.1:
RV64I, M, Zba, Zbb), as functions of operand values, and the expansion of C. The meanings are RISC-V's own (log 5). -/

namespace Sys2Proof.Machine

def sext32 (x : BitVec 32) : DWord := x.signExtend 64
def lo32 (x : DWord) : BitVec 32 := x.extractLsb' 0 32
def sh6 (x : DWord) : Nat := x.toNat % 64
def sh5 (x : DWord) : Nat := x.toNat % 32
def boolX (b : Bool) : DWord := if b then 1 else 0

/-- Leading and trailing zeros and set bits among the low `n` bits. -/
def leadingZeros (x : Nat) : Nat → Nat
  | 0 => 0
  | n + 1 => if x.testBit n then 0 else 1 + leadingZeros x n
def trailingZeros (x n : Nat) : Nat := ((List.range n).find? fun i => x.testBit i).getD n
def onesOf (x n : Nat) : Nat := ((List.range n).filter fun i => x.testBit i).length

/-- The eight bytes, lowest first, each changed and put together again in an order. -/
def overBytes (f : Byte → Byte) (x : DWord) : DWord := BitVec.ofNat 64 (natOfBytes ((bytesOfNat 8 x.toNat).map f))
def rev8 (x : DWord) : DWord := BitVec.ofNat 64 (natOfBytes (bytesOfNat 8 x.toNat).reverse)

/-- Division of M: by zero gives all ones or the dividend; the overflow wraps. -/
def divS (w : Nat) (a b : Int) : Int := if b = 0 then -1 else if a = -(2 ^ (w - 1)) ∧ b = -1 then a else a.tdiv b
def remS (w : Nat) (a b : Int) : Int := if b = 0 then a else if a = -(2 ^ (w - 1)) ∧ b = -1 then 0 else a.tmod b
def divU (w a b : Nat) : Nat := if b = 0 then 2 ^ w - 1 else a / b
def remU (a b : Nat) : Nat := if b = 0 then a else a % b

/-- OP (major opcode 0x33). -/
def aluOp (f7 f3 : Nat) (a b : DWord) : Option DWord :=
  match f7, f3 with
  | 0x00, 0 => some (a + b)
  | 0x00, 1 => some (a <<< sh6 b)
  | 0x00, 2 => some (boolX (a.slt b))
  | 0x00, 3 => some (boolX (a.ult b))
  | 0x00, 4 => some (a ^^^ b)
  | 0x00, 5 => some (a >>> sh6 b)
  | 0x00, 6 => some (a ||| b)
  | 0x00, 7 => some (a &&& b)
  | 0x20, 0 => some (a - b)
  | 0x20, 4 => some (~~~(a ^^^ b))
  | 0x20, 5 => some (a.sshiftRight (sh6 b))
  | 0x20, 6 => some (a ||| ~~~b)
  | 0x20, 7 => some (a &&& ~~~b)
  | 0x01, 0 => some (a * b)
  | 0x01, 1 => some (BitVec.ofInt 64 (a.toInt * b.toInt / 2 ^ 64))
  | 0x01, 2 => some (BitVec.ofInt 64 (a.toInt * b.toNat / 2 ^ 64))
  | 0x01, 3 => some (BitVec.ofNat 64 (a.toNat * b.toNat / 2 ^ 64))
  | 0x01, 4 => some (BitVec.ofInt 64 (divS 64 a.toInt b.toInt))
  | 0x01, 5 => some (BitVec.ofNat 64 (divU 64 a.toNat b.toNat))
  | 0x01, 6 => some (BitVec.ofInt 64 (remS 64 a.toInt b.toInt))
  | 0x01, 7 => some (BitVec.ofNat 64 (remU a.toNat b.toNat))
  | 0x10, 2 => some ((a <<< 1) + b)
  | 0x10, 4 => some ((a <<< 2) + b)
  | 0x10, 6 => some ((a <<< 3) + b)
  | 0x05, 4 => some (if a.slt b then a else b)
  | 0x05, 5 => some (if a.ult b then a else b)
  | 0x05, 6 => some (if a.slt b then b else a)
  | 0x05, 7 => some (if a.ult b then b else a)
  | 0x30, 1 => some (a.rotateLeft (sh6 b))
  | 0x30, 5 => some (a.rotateRight (sh6 b))
  | _, _ => none

/-- OP-32 (0x3B); `rs2` tells zext.h from the reserved forms. -/
def aluOp32 (f7 f3 rs2 : Nat) (a b : DWord) : Option DWord :=
  let x := lo32 a
  let y := lo32 b
  let zx : DWord := x.zeroExtend 64
  match f7, f3 with
  | 0x00, 0 => some (sext32 (x + y))
  | 0x00, 1 => some (sext32 (x <<< sh5 b))
  | 0x00, 5 => some (sext32 (x >>> sh5 b))
  | 0x20, 0 => some (sext32 (x - y))
  | 0x20, 5 => some (sext32 (x.sshiftRight (sh5 b)))
  | 0x01, 0 => some (sext32 (x * y))
  | 0x01, 4 => some (sext32 (BitVec.ofInt 32 (divS 32 x.toInt y.toInt)))
  | 0x01, 5 => some (sext32 (BitVec.ofNat 32 (divU 32 x.toNat y.toNat)))
  | 0x01, 6 => some (sext32 (BitVec.ofInt 32 (remS 32 x.toInt y.toInt)))
  | 0x01, 7 => some (sext32 (BitVec.ofNat 32 (remU x.toNat y.toNat)))
  | 0x04, 0 => some (zx + b)
  | 0x04, 4 => if rs2 = 0 then some ((a.extractLsb' 0 16).zeroExtend 64) else none
  | 0x10, 2 => some ((zx <<< 1) + b)
  | 0x10, 4 => some ((zx <<< 2) + b)
  | 0x10, 6 => some ((zx <<< 3) + b)
  | 0x30, 1 => some (sext32 (x.rotateLeft (sh5 b)))
  | 0x30, 5 => some (sext32 (x.rotateRight (sh5 b)))
  | _, _ => none

/-- OP-IMM (0x13) with its 12-bit immediate. -/
def aluImm (f3 : Nat) (a : DWord) (imm : BitVec 12) : Option DWord :=
  let i : DWord := imm.signExtend 64
  let hi := imm.toNat / 64
  let sh := imm.toNat % 64
  match f3 with
  | 0 => some (a + i)
  | 2 => some (boolX (a.slt i))
  | 3 => some (boolX (a.ult i))
  | 4 => some (a ^^^ i)
  | 6 => some (a ||| i)
  | 7 => some (a &&& i)
  | 1 =>
    if hi = 0 then some (a <<< sh)
    else match imm.toNat with
      | 0x600 => some (BitVec.ofNat 64 (leadingZeros a.toNat 64))
      | 0x601 => some (BitVec.ofNat 64 (trailingZeros a.toNat 64))
      | 0x602 => some (BitVec.ofNat 64 (onesOf a.toNat 64))
      | 0x604 => some ((a.extractLsb' 0 8).signExtend 64)
      | 0x605 => some ((a.extractLsb' 0 16).signExtend 64)
      | _ => none
  | 5 =>
    if hi = 0 then some (a >>> sh)
    else if hi = 0x10 then some (a.sshiftRight sh)
    else if hi = 0x18 then some (a.rotateRight sh)
    else if imm = 0x287 then some (overBytes (fun b => if b = 0 then 0 else 0xFF) a)
    else if imm = 0x6B8 then some (rev8 a)
    else none
  | _ => none

/-- OP-IMM-32 (0x1B). -/
def aluImm32 (f3 : Nat) (a : DWord) (imm : BitVec 12) : Option DWord :=
  let x := lo32 a
  let hi := imm.toNat / 32
  let sh := imm.toNat % 32
  match f3 with
  | 0 => some (sext32 (lo32 (a + imm.signExtend 64)))
  | 1 =>
    if hi = 0 then some (sext32 (x <<< sh))
    else if imm.toNat / 64 = 2 then some ((x.zeroExtend 64) <<< (imm.toNat % 64))
    else match imm.toNat with
      | 0x600 => some (BitVec.ofNat 64 (leadingZeros x.toNat 32))
      | 0x601 => some (BitVec.ofNat 64 (trailingZeros x.toNat 32))
      | 0x602 => some (BitVec.ofNat 64 (onesOf x.toNat 32))
      | _ => none
  | 5 =>
    if hi = 0 then some (sext32 (x >>> sh))
    else if hi = 0x20 then some (sext32 (x.sshiftRight sh))
    else if hi = 0x30 then some (sext32 (x.rotateRight sh))
    else none
  | _ => none

/-- Whether a branch is taken. -/
def branchTaken (f3 : Nat) (a b : DWord) : Option Bool :=
  match f3 with
  | 0 => some (a == b)
  | 1 => some (a != b)
  | 4 => some (a.slt b)
  | 5 => some (!a.slt b)
  | 6 => some (a.ult b)
  | 7 => some (!a.ult b)
  | _ => none

/-! Immediates of the 32-bit formats. -/

def immB (w : BitVec 32) : DWord :=
  (w.extractLsb' 31 1 ++ w.extractLsb' 7 1 ++ w.extractLsb' 25 6 ++ w.extractLsb' 8 4 ++ (0 : BitVec 1)).signExtend 64
def immJ (w : BitVec 32) : DWord :=
  (w.extractLsb' 31 1 ++ w.extractLsb' 12 8 ++ w.extractLsb' 20 1 ++ w.extractLsb' 21 10 ++ (0 : BitVec 1)).signExtend 64
def immU (w : BitVec 32) : DWord := (w.extractLsb' 12 20 ++ (0 : BitVec 12)).signExtend 64

/-! C: each 16-bit instruction is a 32-bit one. -/

/-- The field [hi:lo] of a compressed word, in place value `at_`. -/
def cbits (c : BitVec 16) (lo n at_ : Nat) : Nat := c.toNat / 2 ^ lo % 2 ^ n * 2 ^ at_
/-- rd' and rs': x8-x15. -/
def cReg (c : BitVec 16) (lo : Nat) : BitVec 5 := BitVec.ofNat 5 (8 + c.toNat / 2 ^ lo % 8)
def cFull (c : BitVec 16) (lo : Nat) : BitVec 5 := BitVec.ofNat 5 (c.toNat / 2 ^ lo % 32)
/-- The signed 6-bit immediate of quadrant 1. -/
def cImm6 (c : BitVec 16) : BitVec 12 := (c.extractLsb' 12 1 ++ c.extractLsb' 2 5).signExtend 12
def offW (c : BitVec 16) : BitVec 12 := BitVec.ofNat 12 (cbits c 10 3 3 + cbits c 6 1 2 + cbits c 5 1 6)
def offD (c : BitVec 16) : BitVec 12 := BitVec.ofNat 12 (cbits c 10 3 3 + cbits c 5 2 6)

def packB (imm : BitVec 13) (rs2 rs1 : BitVec 5) (f3 : BitVec 3) : BitVec 32 :=
  imm.extractLsb' 12 1 ++ imm.extractLsb' 5 6 ++ rs2 ++ rs1 ++ f3 ++ imm.extractLsb' 1 4 ++ imm.extractLsb' 11 1 ++ (0x63 : BitVec 7)
def packJ (imm : BitVec 21) (rd : BitVec 5) : BitVec 32 :=
  imm.extractLsb' 20 1 ++ imm.extractLsb' 1 10 ++ imm.extractLsb' 11 1 ++ imm.extractLsb' 12 8 ++ rd ++ (0x6F : BitVec 7)

/-- Quadrant 0. -/
def expand0 (c : BitVec 16) : Option (BitVec 32) :=
  let rd := cReg c 2
  let rs := cReg c 7
  match c.toNat / 8192 with
  | 0 =>
    let imm := cbits c 11 2 4 + cbits c 7 4 6 + cbits c 6 1 2 + cbits c 5 1 3
    if imm = 0 then none else some (packI (BitVec.ofNat 12 imm) 2 0 rd 0x13)
  | 1 => some (packI (offD c) rs 3 rd 0x07)
  | 2 => some (packI (offW c) rs 2 rd 0x03)
  | 3 => some (packI (offD c) rs 3 rd 0x03)
  | 5 => some (packS (offD c) rd rs 3 0x27)
  | 6 => some (packS (offW c) rd rs 2 0x23)
  | 7 => some (packS (offD c) rd rs 3 0x23)
  | _ => none

/-- c.j's and c.beqz's offsets. -/
def cJump (c : BitVec 16) : BitVec 21 :=
  (BitVec.ofNat 12 (cbits c 12 1 11 + cbits c 11 1 4 + cbits c 9 2 8 + cbits c 8 1 10 + cbits c 7 1 6 + cbits c 6 1 7
    + cbits c 3 3 1 + cbits c 2 1 5)).signExtend 21
def cBranch (c : BitVec 16) : BitVec 13 :=
  (BitVec.ofNat 9 (cbits c 12 1 8 + cbits c 10 2 3 + cbits c 5 2 6 + cbits c 3 2 1 + cbits c 2 1 5)).signExtend 13

/-- Quadrant 1. -/
def expand1 (c : BitVec 16) : Option (BitVec 32) :=
  let rd := cFull c 7
  let rs := cReg c 7
  let rt := cReg c 2
  let imm := cImm6 c
  let sh : BitVec 12 := BitVec.ofNat 12 (cbits c 12 1 5 + cbits c 2 5 0)
  match c.toNat / 8192 with
  | 0 => some (packI imm rd 0 rd 0x13)
  | 1 => if rd = 0 then none else some (packI imm rd 0 rd 0x1B)
  | 2 => some (packI imm 0 0 rd 0x13)
  | 3 =>
    if imm = 0 then none
    else if rd = 2 then
      let x : BitVec 10 := BitVec.ofNat 10 (cbits c 12 1 9 + cbits c 6 1 4 + cbits c 5 1 6 + cbits c 3 2 7 + cbits c 2 1 5)
      some (packI (x.signExtend 12) 2 0 2 0x13)
    else some ((imm.signExtend 20) ++ rd ++ (0x37 : BitVec 7))
  | 4 =>
    match c.toNat / 1024 % 4 with
    | 0 => some (packI sh rs 5 rs 0x13)
    | 1 => some (packI (sh + 0x400) rs 5 rs 0x13)
    | 2 => some (packI imm rs 7 rs 0x13)
    | _ =>
      match c.toNat / 4096 % 2, c.toNat / 32 % 4 with
      | 0, 0 => some (packR 0x20 rt rs 0 rs 0x33)
      | 0, 1 => some (packR 0x00 rt rs 4 rs 0x33)
      | 0, 2 => some (packR 0x00 rt rs 6 rs 0x33)
      | 0, 3 => some (packR 0x00 rt rs 7 rs 0x33)
      | 1, 0 => some (packR 0x20 rt rs 0 rs 0x3B)
      | 1, 1 => some (packR 0x00 rt rs 0 rs 0x3B)
      | _, _ => none
  | 5 => some (packJ (cJump c) 0)
  | 6 => some (packB (cBranch c) 0 rs 0)
  | _ => some (packB (cBranch c) 0 rs 1)

/-- Quadrant 2. -/
def expand2 (c : BitVec 16) : Option (BitVec 32) :=
  let rd := cFull c 7
  let rt := cFull c 2
  let ldD : BitVec 12 := BitVec.ofNat 12 (cbits c 12 1 5 + cbits c 5 2 3 + cbits c 2 3 6)
  let ldW : BitVec 12 := BitVec.ofNat 12 (cbits c 12 1 5 + cbits c 4 3 2 + cbits c 2 2 6)
  let stD : BitVec 12 := BitVec.ofNat 12 (cbits c 10 3 3 + cbits c 7 3 6)
  let stW : BitVec 12 := BitVec.ofNat 12 (cbits c 9 4 2 + cbits c 7 2 6)
  match c.toNat / 8192 with
  | 0 => some (packI (BitVec.ofNat 12 (cbits c 12 1 5 + cbits c 2 5 0)) rd 1 rd 0x13)
  | 1 => some (packI ldD 2 3 rd 0x07)
  | 2 => if rd = 0 then none else some (packI ldW 2 2 rd 0x03)
  | 3 => if rd = 0 then none else some (packI ldD 2 3 rd 0x03)
  | 4 =>
    if c.toNat / 4096 % 2 = 0 then
      if rt = 0 then (if rd = 0 then none else some (packI 0 rd 0 0 0x67))
      else some (packR 0 rt 0 0 rd 0x33)
    else if rt = 0 then (if rd = 0 then some 0x00100073 else some (packI 0 rd 0 1 0x67))
    else some (packR 0 rt rd 0 rd 0x33)
  | 5 => some (packS stD rt 2 3 0x27)
  | 6 => some (packS stW rt 2 2 0x23)
  | _ => some (packS stD rt 2 3 0x23)

/-- The 32-bit instruction of a compressed word. -/
def expandC (c : BitVec 16) : Option (BitVec 32) :=
  match c.toNat % 4 with
  | 0 => expand0 c
  | 1 => expand1 c
  | 2 => expand2 c
  | _ => none

end Sys2Proof.Machine
end

