-- ==== Sys2Proof/Machine/Rv.lean ====
section
/-! DEFINITION. A hart's standard instructions that have no row of the opcode table (spec/18 R362, Table 18.1): RV64I, M, F,
D, Zba, Zbb, Zicsr, Zifencei, the privileged instructions, and the CSRs of the privileged architecture, AIA and Sstc. The
spec names the extensions; their meanings are RISC-V's own (log 5). -/

namespace Sys2Proof.Machine

/-! CSRs. -/

/-- mstatus fields that software writes: SIE MIE SPIE MPIE SPP MPP FS MPRV SUM MXR TVM TW TSR. -/
def mstatusMask : DWord := 0x00000000007E79AA
/-- SIE SPIE SPP FS SUM MXR. -/
def sstatusMask : DWord := 0x00000000000C6122
/-- SD follows FS, which reads 3 when dirty. -/
def statusView (x mask : DWord) : DWord :=
  let v := x &&& mask
  if v.extractLsb' 13 2 = 3 then setBit64 v 63 true else v
/-- UXL and SXL read 2. -/
def Hart.readMstatus (h : Hart) : DWord := statusView h.mstatus mstatusMask ||| 0x0000000A00000000
def Hart.readSstatus (h : Hart) : DWord := statusView h.mstatus sstatusMask ||| 0x0000000200000000
/-- MPP never holds the value 2. -/
def legalMstatus (old v : DWord) : DWord :=
  if msMPP v = 2 then msSetMPP v (msMPP old) else v

/-- Machine and supervisor interrupts that exist: SSI MSI STI MTI SEI MEI. -/
def mieMask : DWord := 0xAAA
def sipMask : DWord := 0x222
/-- Exceptions that can be delegated, cause 28 among them (R370). -/
def medelegMask : DWord := 0x1000B3FF

/-- Counters that a mode below M may read. -/
def Hart.counterOk (h : Hart) (bit : Nat) : Bool :=
  h.mode == .m || (h.mcounteren.getLsbD bit && (h.mode == .s || h.scounteren.getLsbD bit))

/-- An indirectly accessed register of an interrupt file (AIA): eidelivery, eithreshold, eip and eie. -/
def IntFile.indirect (f : IntFile) (sel : Nat) : Option DWord :=
  if sel = 0x70 then some f.delivery
  else if sel = 0x72 then some f.threshold
  else if 0x80 ≤ sel ∧ sel ≤ 0xBF then
    if sel % 2 = 1 then none else some (if sel < 0x88 then f.pending.extractLsb' ((sel - 0x80) * 32) 64 else 0)
  else if 0xC0 ≤ sel ∧ sel ≤ 0xFF then
    if sel % 2 = 1 then none else some (if sel < 0xC8 then f.enable.extractLsb' ((sel - 0xC0) * 32) 64 else 0)
  else if 0x30 ≤ sel ∧ sel ≤ 0x3F then (if sel % 2 = 1 then none else some 0)
  else none
/-- 64 bits of a 256-bit array; bit 0 stays zero. -/
def putWord256 (x : BitVec 256) (at_ : Nat) (v : DWord) : BitVec 256 :=
  ((x &&& ~~~((BitVec.allOnes 64).zeroExtend 256 <<< at_)) ||| (v.zeroExtend 256 <<< at_)) &&& ~~~(1 : BitVec 256)
def IntFile.setIndirect (f : IntFile) (sel : Nat) (v : DWord) : IntFile :=
  if sel = 0x70 then (if v.toNat ≤ 1 then { f with delivery := v } else f)
  else if sel = 0x72 then { f with threshold := v &&& 0xFF }
  else if 0x80 ≤ sel ∧ sel < 0x88 then { f with pending := putWord256 f.pending ((sel - 0x80) * 32) v }
  else if 0xC0 ≤ sel ∧ sel < 0xC8 then { f with enable := putWord256 f.enable ((sel - 0xC0) * 32) v }
  else f

/-- xtopei: the top identity, in both halves. -/
def IntFile.topei (f : IntFile) : DWord :=
  match f.top with
  | some i => BitVec.ofNat 64 (i * 65536 + i)
  | none => 0
/-- A write to xtopei claims the top identity. -/
def IntFile.claim (f : IntFile) : IntFile :=
  match f.top with
  | some i => { f with pending := f.pending &&& ~~~((1 : BitVec 256) <<< i) }
  | none => f
/-- xtopi: the first pending and enabled interrupt in RISC-V's order, with the least priority number that is not 0. -/
def topiOf (p : DWord) : DWord :=
  match intOrder.find? p.getLsbD with
  | some i => BitVec.ofNat 64 (i * 65536 + 1)
  | none => 0

/-- The bits of mip that software writes, which mvip aliases while mvien is zero (Smaia): SSIP, SEIP, and STIP while it does not
follow `stimecmp`. -/
def Hart.softBits (h : Hart) : DWord := if h.menvcfg.getLsbD 63 then 0x202 else 0x222
/-- The value from which CSRRS and CSRRC form what they write: of mip without the file's signal, which only a read shows
(RISC-V). -/
def Hart.rmwValue (h : Hart) (n : Nat) (old : DWord) : DWord := if n = 0x344 then h.mip else old

/-- The value of a CSR; none where there is no such register, or the mode may not read it. -/
def Hart.csrRead (h : Hart) (n : Nat) : Option DWord :=
  match n with
  | 0x001 => if h.fsOff then none else some ((h.fcsr &&& 0x1F).zeroExtend 64)
  | 0x002 => if h.fsOff then none else some ((h.fcsr >>> 5).zeroExtend 64)
  | 0x003 => if h.fsOff then none else some (h.fcsr.zeroExtend 64)
  | 0xC00 => if h.counterOk 0 then some h.mcycle else none
  | 0xC01 => if h.counterOk 1 then some (BitVec.ofNat 64 h.time) else none
  | 0xC02 => if h.counterOk 2 then some h.instret else none
  | 0x100 => some h.readSstatus
  | 0x104 => some (h.mie &&& h.mideleg)
  | 0x105 => some h.stvec
  | 0x106 => some h.scounteren
  | 0x10A => some h.senvcfg
  | 0x140 => some h.sscratch
  | 0x141 => some h.sepc
  | 0x142 => some h.scause
  | 0x143 => some h.stval
  | 0x144 => some (h.pendingInts &&& h.mideleg)
  | 0x14D => if h.mode == .m || (h.menvcfg.getLsbD 63 && h.mcounteren.getLsbD 1) then some h.stimecmp else none
  | 0x150 => some h.siselect
  | 0x151 => h.sfile.indirect h.siselect.toNat
  | 0x15C => some h.sfile.topei
  | 0xDB0 => some (topiOf (h.pendingInts &&& h.mie &&& h.mideleg))
  | 0x180 => if h.mode == .s && h.mstatus.getLsbD msTVM then none else some h.satp
  | 0xF11 => some 0
  | 0xF12 => some 0
  | 0xF13 => some 0
  | 0xF14 => some (BitVec.ofNat 64 h.id)
  | 0xF15 => some 0
  | 0x300 => some h.readMstatus
  -- MXL 64; A C D F I M S U.
  | 0x301 => some 0x800000000014112D
  | 0x302 => some h.medeleg
  | 0x303 => some h.mideleg
  | 0x304 => some h.mie
  | 0x305 => some h.mtvec
  | 0x306 => some h.mcounteren
  | 0x308 => some 0
  | 0x309 => some (h.mip &&& h.softBits)
  | 0x30A => some h.menvcfg
  | 0x320 => some h.mcountinhibit
  | 0x340 => some h.mscratch
  | 0x341 => some h.mepc
  | 0x342 => some h.mcause
  | 0x343 => some h.mtval
  | 0x344 => some h.pendingInts
  | 0x350 => some h.miselect
  | 0x351 => h.mfile.indirect h.miselect.toNat
  | 0x35C => some h.mfile.topei
  | 0xFB0 => some (topiOf (h.pendingInts &&& h.mie &&& ~~~h.mideleg))
  | 0xB00 => some h.mcycle
  | 0xB02 => some h.instret
  -- mhpmcounter3-31 and mhpmevent3-31 read zero.
  | n => if (0xB03 ≤ n ∧ n ≤ 0xB1F) ∨ (0x323 ≤ n ∧ n ≤ 0x33F) then some 0 else none

/-- A trap vector's base is aligned to four bytes, its mode 0 or 1. -/
def legalTvec (v : DWord) : DWord := v &&& ~~~(2 : DWord)

/-- Merges the bits of a mask. -/
def merge (old v mask : DWord) : DWord := (old &&& ~~~mask) ||| (v &&& mask)

/-- Writes a CSR that exists; read-only fields keep their values. -/
def Hart.csrWrite (h : Hart) (n : Nat) (v : DWord) : Hart :=
  let dirty (h : Hart) : Hart := { h with mstatus := setBit64 (h.mstatus ||| 0x6000) 63 true }
  match n with
  | 0x001 => dirty { h with fcsr := (h.fcsr &&& 0xE0) ||| (v.extractLsb' 0 8 &&& 0x1F) }
  | 0x002 => dirty { h with fcsr := (h.fcsr &&& 0x1F) ||| (v.extractLsb' 0 8 <<< 5) }
  | 0x003 => dirty { h with fcsr := v.extractLsb' 0 8 }
  | 0x100 => { h with mstatus := merge h.mstatus v sstatusMask }
  | 0x104 => { h with mie := merge h.mie v (h.mideleg &&& sipMask) }
  | 0x105 => { h with stvec := legalTvec v }
  | 0x106 => { h with scounteren := v &&& 7 }
  | 0x10A => { h with senvcfg := v &&& 1 }
  | 0x140 => { h with sscratch := v }
  | 0x141 => { h with sepc := v &&& ~~~(1 : DWord) }
  | 0x142 => { h with scause := v }
  | 0x143 => { h with stval := v }
  | 0x144 => { h with mip := merge h.mip v (h.mideleg &&& 2) }
  | 0x14D => Hart.matchS { h with stimecmp := v }
  | 0x150 => { h with siselect := v }
  | 0x151 => { h with sfile := h.sfile.setIndirect h.siselect.toNat v }
  | 0x15C => { h with sfile := h.sfile.claim }
  | 0x180 => if satpMode v = 0 ∨ satpMode v = 9 then { h with satp := v &&& 0xF03FFFFFFFFFFFFF } else h
  | 0x300 => { h with mstatus := merge h.mstatus (legalMstatus h.mstatus v) mstatusMask }
  | 0x302 => { h with medeleg := v &&& medelegMask }
  | 0x303 => { h with mideleg := v &&& sipMask }
  | 0x304 => { h with mie := v &&& mieMask }
  | 0x305 => { h with mtvec := legalTvec v }
  | 0x306 => { h with mcounteren := v &&& 7 }
  | 0x30A => Hart.matchS { h with menvcfg := v &&& 0xC000000000000001 }
  | 0x320 => { h with mcountinhibit := v &&& 5 }
  | 0x340 => { h with mscratch := v }
  | 0x341 => { h with mepc := v &&& ~~~(1 : DWord) }
  | 0x342 => { h with mcause := v }
  | 0x343 => { h with mtval := v }
  | 0x309 => { h with mip := merge h.mip v h.softBits }
  | 0x344 => { h with mip := merge h.mip v h.softBits }
  | 0x350 => { h with miselect := v }
  | 0x351 => { h with mfile := h.mfile.setIndirect h.miselect.toNat v }
  | 0x35C => { h with mfile := h.mfile.claim }
  | 0xB00 => { h with mcycle := v }
  | 0xB02 => { h with instret := if h.mcountinhibit.getLsbD 2 then v else v - 1 }
  | _ => h

/-- A CSR instruction on a standard register: the illegal-instruction exception where the register does not exist, the
mode may not use it, or it is read-only and would be written. A write of minstret takes the place of its count. -/
def Hart.csrExec (h : Hart) (op : CsrOp) (csr : BitVec 12) (rd rs1 : BitVec 5) : Except HTrap Hart :=
  match h.csrRead csr.toNat with
  | none => .error .illegal
  | some old =>
    let new := csrNew op rs1 (h.xr rs1) (h.rmwValue csr.toNat old)
    if !h.csrAllowed csr || (new.isSome && csr.extractLsb' 10 2 == 3) then .error .illegal
    else
      let h := match new with | some v => h.csrWrite csr.toNat v | none => h
      .ok (h.setX rd old)

/-! Execution. -/

/-- SYSTEM (0x73). -/
def Hart.system (h : Hart) (w : BitVec 32) : Hart × HartEnd :=
  let f3 := (w.extractLsb' 12 3).toNat
  if w = 0x00000073 then (h, .trap (.exc (match h.mode with | .u => 8 | .s => 9 | .m => 11) 0))
  else if w = 0x00100073 then (h, .trap (.exc 3 h.pc))
  else if w = 0x10500073 then
    if h.mode == .u || (h.mode == .s && h.mstatus.getLsbD msTW) then (h, .trap .illegal) else ({ h with run := .wfi }, .next)
  else if w.extractLsb' 25 7 = 9 ∧ f3 = 0 ∧ w.extractLsb' 7 5 = 0 then
    if h.mode == .u || (h.mode == .s && h.mstatus.getLsbD msTVM) then (h, .trap .illegal) else (h, .next)
  else
    match csrOpOf f3 with
    | none => (h, .trap .illegal)
    | some op =>
      match h.csrExec op (w.extractLsb' 20 12) (w.extractLsb' 7 5) (w.extractLsb' 15 5) with
      | .ok h => (h, .next)
      | .error t => (h, .trap t)

/-- A floating-point instruction that has no memory operand. -/
def Hart.float (h : Hart) (w : BitVec 32) : Hart × HartEnd :=
  let op := (w.extractLsb' 0 7).toNat
  let rd := w.extractLsb' 7 5
  let f3 := (w.extractLsb' 12 3).toNat
  let rs1 := w.extractLsb' 15 5
  let rs2 := w.extractLsb' 20 5
  let fmt := (w.extractLsb' 25 2).toNat
  let sel := (w.extractLsb' 27 5).toNat
  let fr (n : BitVec 5) : DWord := h.f.getD n.toNat 0
  if h.fsOff || 2 ≤ fmt then (h, .trap .illegal)
  else
    let out := if op = 0x53 then fpOp sel f3 rs2.toNat (fmt == 1) (h.rounding f3) (fr rs1) (fr rs2) (h.xr rs1)
      else (h.rounding f3).map fun r =>
        fpFma (fmt == 1) (op == 0x4B || op == 0x4F) (op == 0x47 || op == 0x4F) r (fr rs1) (fr rs2) (fr (BitVec.ofNat 5 sel))
    match out with
    | some o => (h.putF rd o, .next)
    | none => (h, .trap .illegal)

/-- A standard instruction of `len` bytes. -/
def Hart.standard (h : Hart) (w : BitVec 32) (len : Nat) : Hart × HartEnd :=
  let rd := w.extractLsb' 7 5
  let f3 := (w.extractLsb' 12 3).toNat
  let f7 := (w.extractLsb' 25 7).toNat
  let a := h.xr (w.extractLsb' 15 5)
  let b := h.xr (w.extractLsb' 20 5)
  let put (v : Option DWord) : Hart × HartEnd :=
    match v with | some v => (h.setX rd v, .next) | none => (h, .trap .illegal)
  let link := h.pc + BitVec.ofNat 64 len
  match (w.extractLsb' 0 7).toNat with
  | 0x13 => put (aluImm f3 a (w.extractLsb' 20 12))
  | 0x1B => put (aluImm32 f3 a (w.extractLsb' 20 12))
  | 0x33 => put (aluOp f7 f3 a b)
  | 0x3B => put (aluOp32 f7 f3 (w.extractLsb' 20 5).toNat a b)
  | 0x37 => put (some (immU w))
  | 0x17 => put (some (h.pc + immU w))
  | 0x6F => ((h.setX rd link).goto (h.pc + immJ w), .moved)
  | 0x67 =>
    if f3 ≠ 0 then (h, .trap .illegal)
    else ((h.setX rd link).goto ((a + (w.extractLsb' 20 12).signExtend 64) &&& ~~~(1 : DWord)), .moved)
  | 0x63 =>
    match branchTaken f3 a b with
    | none => (h, .trap .illegal)
    | some true => (h.goto (h.pc + immB w), .moved)
    | some false => (h, .next)
  | 0x0F => if f3 = 1 then (h, .next) else (h, .trap .illegal)
  | 0x73 => h.system w
  | 0x53 => h.float w
  | 0x43 => h.float w
  | 0x47 => h.float w
  | 0x4B => h.float w
  | 0x4F => h.float w
  | _ => (h, .trap .illegal)

/-- Hart n runs a standard instruction. -/
def State.runStandard (s : State) (n len : Nat) (w : BitVec 32) : State :=
  match s.hart? n with
  | none => s
  | some h => match h.standard w len with | (h, e) => (s.setHart h).endHart n len e

end Sys2Proof.Machine
end

