-- ==== Sys2Proof/Machine/Turn.lean ====
section
/-! DEFINITION. Whose turn it is and what it does (log 2): a core lands its results, lets groups enter blocks, forms bins
and chooses the group that issues (spec/01 R19-R29, R34; spec/05 R134, R139); a hart takes an interrupt, ends a wait or
fetches an instruction (spec/18 R362-R368, R378); a step of the device takes its operands from the agenda. -/

namespace Sys2Proof.Machine

/-- What a step comes to: an instruction to execute in a state, or a state in which nothing more is done. -/
inductive Todo where
  | run (i : Instr) (s : State)
  | rest (s : State)
  deriving Repr

/-- Effects that follow from the state alone: lock and monitor words compared again, fences of emptied cores, answers that
leave for other packages, events of the Halls. -/
def State.poll (s : State) : State := s.pollWaits.settleFences.flushRemote.flushEvents

/-! A core's turn. -/

/-- A group inside a block that reaches a span fetches it; a span that is not the continuation R134 requires faults
BAD_TARGET 5. The address word names the last slot of the span before; a fetch that fails is reported at the span in the same
way, and the span is not checked against the bounds of pcc (DESIGN CHOICE, log 55). -/
def State.reachSpan (s : State) (w : Workgroup) (g : Group) : State :=
  let x := spanOf g.pc
  let first := slotOf g.pc == 0 && x != g.blk.span
  let via := x - 128 + 11
  let faultAll (s : State) (f : FaultInfo) : State :=
    s.runActs (g.tids.map fun t => .fault w.id t { f with addr := via } ⟨x, x, false, .span⟩)
  let judge (s : State) (d : BitVec 1024) : State :=
    if first && spanHeader d != contHeader ((x - g.blk.span).toNat / 128) then faultAll s (.of cBADTARGET 5) else s
  if g.entering || g.stopped || !g.parkedOn.isEmpty then s
  else
    match s.span? w.core w.asid x with
    | some e => judge s e.data
    | none =>
      match s.fetchSpan w x with
      | (s, .ok d) => judge s d
      | (s, .error f) => faultAll s f

/-- Groups of the active bank, as (workgroup, group). -/
def State.bankGroups (s : State) (core : Nat) : List (Nat × Nat) :=
  ((s.issuing core (s.core core).active).map fun w => w.groups.map fun g => (w.id, g.id)).flatten

/-- Every group that can enter its block does, and one inside a block reaches its span. -/
def State.enterAll (s : State) (core : Nat) : State :=
  (s.bankGroups core).foldl (fun s (wg, grp) =>
    match (s.wg? wg).bind fun w => (w.group? grp).map fun g => (w, g) with
    | some (w, g) => if s.canEnter w g then s.enterBlock w g else s.reachSpan w g
    | none => s) s

/-- Bins whose age has come are formed (R24). -/
def State.formAged (s : State) (core : Nat) : State :=
  ((s.binsOf core (s.core core).active).filter s.binAged).foldl State.formBin s

/-- Readiness is noted, and groups starve (R22). -/
def State.noteReady (s : State) (core : Nat) : State :=
  let bank := (s.core core).active
  let s := s.observe core bank
  { s with wgs := s.wgs.map fun w =>
      if w.core == core && w.bank == bank && w.life == .running then
        { w with groups := w.groups.map fun g => g.starve w.agelim (s.clockOf w) }
      else w }

/-- A group's effective priority (R22). -/
def State.groupPrio (s : State) (w : Workgroup) (g : Group) : Nat :=
  g.tids.foldl (fun p t => max p (s.effPrio (.thread w.id t))) 0

/-- The first of two ready groups by R22. -/
def State.before (s : State) (a b : Workgroup × Group) : Bool :=
  match a.2.starved, b.2.starved with
  | some x, some y => x < y || (x == y && a.2.lastIssue < b.2.lastIssue)
  | some _, none => true
  | none, some _ => false
  | none, none =>
    let p := s.groupPrio a.1 a.2
    let q := s.groupPrio b.1 b.2
    q < p || (p == q && a.2.lastIssue < b.2.lastIssue)

/-- The group that the core issues (R22). -/
def State.choose (s : State) (core : Nat) : Option (Workgroup × Group) :=
  let ready := ((s.issuing core (s.core core).active).map fun w =>
    (w.groups.filter fun g => s.isReady w g).map fun g => (w, g)).flatten
  ready.foldl (fun (acc : Option (Workgroup × Group)) x =>
    match acc with | none => some x | some a => if s.before x a then some x else some a) none

/-- What a core does before an instruction issues. -/
def State.beforeIssue (s : State) (core : Nat) : State :=
  ((((((s.poll.retireEnded core).landDue core).stopAtPoints core).enterAll core).formAged core).noteReady core)

/-! Packed issue (R21). -/

/-- An instruction that may share an issue cycle: no gang instruction, no branch, none that blocks. -/
def packs : Instr → Bool
  | .bra .. => false
  | .br .. => false
  | .call .. => false
  | .ret .. => false
  | .brx .. => false
  | .reform .. => false
  | .exit .. => false
  | .trap .. => false
  | .brk .. => false
  | .copy .. => false
  | .copym .. => false
  | .mma .. => false
  | .mmak .. => false
  | .scacc .. => false
  | .aclr .. => false
  | .ainit .. => false
  | .adrain .. => false
  | .bar .. => false
  | .mwait .. => false
  | .mwaitEq .. => false
  | .pclaim .. => false
  | .lock .. => false
  | .ldfe .. => false
  | .ldfeKeep .. => false
  | .stfe .. => false
  | .send .. => false
  | .recv .. => false
  | .calle .. => false
  | .nwait .. => false
  | .twait .. => false
  | .yield .. => false
  | _ => true

/-- Lowest tid of a group. -/
def Group.lowestTid (g : Group) : Nat := match g.members with | m :: _ => m.2 | [] => 0

/-- What the issue of a group's instruction leaves of its issue cycle for others (R21). -/
def State.packOf (s : State) (w : Workgroup) (g : Group) (x : BitVec 80) : Option Packed :=
  let lanes := (s.issueLanes w g (decodeWord x) (Head.ofWord x)).length
  if packs (decodeWord x) && decide (lanes ≤ 16) then
    some ⟨s.clockOf w, w.bank, [(w.id, g.lowestTid)], w.asid, g.pc, lanes, 1⟩
  else none

/-- Group `grp` of workgroup `wg` issues in the cycle in which another has (R21): of one workgroup the groups count in ascending
order of their lowest tids (R49, R230). Nothing happens when it may not. -/
def State.packTurn (s : State) (c wg grp : Nat) : Todo :=
  match (s.core c).pack, (s.wg? wg).bind fun w => (w.group? grp).map fun g => (w, g) with
  | some p, some (w, g) =>
    match s.slotAt w g.pc with
    | none => .rest s
    | some x =>
      let at_ := s.setClock c p.bank p.time
      let lanes := (at_.issueLanes w g (decodeWord x) (Head.ofWord x)).length
      if w.core == c && w.bank == p.bank && (s.core c).active == p.bank && w.life == .running && w.saved.isNone
          && (s.core c).clock p.bank == p.time + 1 && g.pc == p.pc && w.asid == p.asid && decide (p.groups < 4)
          && decide (p.lanes + lanes ≤ 16) && p.taken.all (fun x => x.1 != w.id || decide (x.2 < g.lowestTid)) && at_.isReady w g then
        .run (decodeWord x)
          { at_.setCore { at_.core c with
              pack := some { p with taken := p.taken ++ [(w.id, g.lowestTid)], lanes := p.lanes + lanes, groups := p.groups + 1 } } with
            cur := .group w.id g.id }
      else .rest s
  | _, _ => .rest s

/-- The turn of core `c`: one group issues, or an issue cycle passes. -/
def State.coreTurn (s : State) (c : Nat) : Todo :=
  let s := s.beforeIssue c
  match s.choose c with
  | some (w, g) =>
    match s.slotAt w g.pc with
    | some x => .run (decodeWord x) { s.setCore { s.core c with pack := s.packOf w g x } with cur := .group w.id g.id }
    | none => .rest s
  | none =>
    let s := s.idleForm c
    let bank := (s.core c).active
    .rest (s.setClock c bank ((s.core c).clock bank + 1))

/-! A hart's turn. -/

/-- A clock period passes; the timers follow (R383). -/
def Hart.tick (h : Hart) : Hart :=
  Hart.matchS (Hart.matchM { h with
    hc := h.hc + 1
    mcycle := if h.mcountinhibit.getLsbD 0 then h.mcycle else h.mcycle + 1 })

/-- The word of a hart instruction of `len` bytes, which has a row or is a standard instruction without one. -/
def State.hartWord (s : State) (n len : Nat) (w : BitVec 32) : Todo :=
  match decodeHart w with
  | some i => .run i { s with cur := .hart n len }
  | none => .rest (s.runStandard n len w)

/-- Fetches parcel by parcel (R364); a word that is no instruction raises cause 2 (R362). -/
def State.hartFetch (s : State) (n : Nat) (h : Hart) : Todo :=
  match s.hartParcel h h.pc with
  | (s, .error t) => .rest (s.takeTrap n t)
  | (s, .ok lo) =>
    if lo % 4 = 3 then
      match s.hartParcel h (h.pc + 2) with
      | (s, .error t) => .rest (s.takeTrap n t)
      | (s, .ok hi) => s.hartWord n 4 (BitVec.ofNat 32 (lo + 65536 * hi))
    else
      match expandC (BitVec.ofNat 16 lo) with
      | some w => s.hartWord n 2 w
      | none => .rest (s.takeTrap n .illegal)

/-- A stalled hart's request: the start of a second sweep is tried again when none runs; an ended request ends the
instruction (R378, R431). -/
def State.hartWait (s : State) (n id : Nat) : State :=
  let go (s : State) : State := s.modHart n fun h => { h with run := .running }
  match s.req? id with
  | none => go s
  | some r =>
    if r.op == .result && (r.phase == .waiting || r.phase == .registering) && s.sweep.isNone then
      go ((s.leaveWaits r.who r.batch).dropReq id)
    else
      match s.hartEnds n r with
      | some (s, e) => (go s).endHart n r.pos e
      | none => s

/-- The turn of hart `n`; one that is in reset when the boot is over leaves it here (log 43). -/
def State.hartTurn (s : State) (n : Nat) : Todo :=
  let s := s.poll
  match s.hart? n with
  | none => .rest s
  | some h =>
    if h.run == .reset && !(s.th.powered && s.th.step == 10) || h.run == .halted then .rest s
    else
      let h := (if h.run == .reset then { h with run := .running } else h).tick
      let s := s.setHart h
      if h.interrupt?.isSome && s.stallEnds h then .rest (s.interruptHart n)
      else
        match h.run with
        | .stalled id => .rest (s.hartWait n id)
        | .wfi => if h.wakes then (s.setHart { h with run := .running }).hartFetch n { h with run := .running } else .rest s
        | _ => s.hartFetch n h

/-! The agenda. -/

/-- What happens when the agenda names nothing: the boot goes on, and after it hart 0 runs. -/
def State.defaultTurn (s : State) : Turn :=
  if s.th.powered && !s.th.held && decide (s.th.step < 10) then .event .bootStep .zero else .hart 0

/-- Whose turn it is, and the rest of the agenda. -/
def State.nextTurn (s : State) : Turn × State :=
  match s.agenda with
  | [] => (s.defaultTurn, s)
  | t :: r => (t, { s with agenda := r })

def State.takeTurn (s : State) : Turn → Todo
  | .core c => s.coreTurn c
  | .pack c wg grp => s.packTurn c wg grp
  | .hart n => s.hartTurn n
  | .event i o => .run i { s with cur := .none, ev := o }

/-- The next thing to do. -/
def State.prepare (s : State) : Todo := match s.nextTurn with | (t, s) => s.takeTurn t

/-! Placing an instruction where the next step fetches it (log 40). -/

/-- The bytes at hart 0's pc, which runs in M-mode without interrupts. -/
def State.withHartWord (s : State) (w : Nat) : State :=
  match s.hart? 0 with
  | none => s
  | some h =>
    let s := s.putBytes ((bytesOfNat 4 w).zipIdx.map fun (x, i) => (h.pc.toNat + i, x, false))
    { s.setHart { h with run := .running, mode := .m, mie := 0, kc := .rootCode h.pc } with agenda := [.hart 0] }

/-- A block of one slot at address 0 that holds the word: the header of Table 5.1 with every register live. -/
def oneSlotSpan (w : BitVec 80) : BitVec 1024 :=
  let header : BitVec 64 := (1 : BitVec 64) <<< 54 ||| (1 : BitVec 64) <<< 50 ||| (192 : BitVec 64) <<< 42
    ||| (15 : BitVec 64) <<< 38 ||| (0xE0 : BitVec 64)
  (header.zeroExtend 1024) ||| (w.zeroExtend 1024 <<< 64)

def oneSlotBlock : Block := ⟨0, 1, 1, 192, 15, true, true, true⟩

/-- A core that holds no workgroup. -/
def State.idleCore (s : State) : Nat :=
  ((List.range 1024).find? fun c => !(s.wgs.any fun w => w.core == c)).getD 0

/-- A workgroup of eight threads inside that block on an idle core. -/
def State.withSlot (s : State) (w : BitVec 80) : State :=
  let core := s.idleCore
  let bank := (s.core core).active
  let st : Start := ⟨.rootCode 0, [], 0, 0⟩
  let wg : Workgroup :=
    { id := s.nextId
      launch := s.nextId
      core := core
      bank := bank
      slot := 0
      wgid := 0
      w := 8
      g := 1
      nv := 192
      nk := 16
      life := .running
      prologue := false
      asid := 0
      agelim := 256
      chk := false
      roles := 0
      threads := (List.range 8).map fun t => { Thread.start t 192 16 st with blk := oneSlotBlock }
      s := startSregs st
      fpflags := 0
      pend := []
      groups := [{ Group.start (s.nextId + 1) ((List.range 8).map fun i => (i, i)) 0 ((s.core core).clock bank) with
        blk := oneSlotBlock
        entering := false }]
      gangs := [0, 0, 0]
      latches := []
      tiles := List.replicate 16 0
      accs := List.replicate 64 ⟨0, [], false⟩
      accBase := 0
      scrBase := 0
      scrLen := 0
      vaultBase := 0
      vaultLen := 0
      pools := []
      savedClock := 0
      saved := none
      spillScr := none
      spillAcc := false }
  { s with
    wgs := s.wgs ++ [wg]
    nextId := s.nextId + 2
    spans := ⟨core, 0, 0, oneSlotSpan w⟩ :: s.spans.filter fun e => e.core != core
    agenda := [.core core] }

/-- The instruction whose bits are `w`: a hart word of 32 bits, or a compute word of 80. -/
def State.placeWord (s : State) (nbits w : Nat) : State :=
  if nbits ≤ 32 then s.withHartWord (w % 2 ^ nbits) else s.withSlot (BitVec.ofNat 80 (w % 2 ^ nbits))

end Sys2Proof.Machine
end

