-- ==== Sys2Proof/Machine/Step.lean ====
section
/-! DEFINITION. One step of the device: what `State.prepare` finds to do, executed; and the placing of an instruction where
the next step fetches it. -/

namespace Sys2Proof.Machine

/-- One step. -/
def step (s : State) : Host.Outcome State Fault Refusal :=
  match s.prepare with
  | .run i s => exec i s
  | .rest s => .next s

/-- `s` with an instruction where the next step fetches it (log 40). -/
def State.withFetchWord (s : State) (nbits w : Nat) : State := s.placeWord nbits w

end Sys2Proof.Machine
end

