-- ==== Sys2Proof/Safety.lean ====
section
/-! DEFINITION. The terms in which the statements about the machine are made: when an instruction issues without a fault,
what a fixed-latency result on its way is, and what issuing leaves alone. -/

namespace Sys2Proof.Safety
open Sys2Proof.Machine

/-- The group `g` of the workgroup `w` issues instruction `i` with head `h` in state `s`, with at least one active lane, and
every active lane passes the checks that every instruction makes (spec/07 R171 decode faults, spec/06 R165 scoreboard,
spec/02 R128 consumed poison). -/
structure Issues (s : State) (i : Instr) (h : Head) (w : Workgroup) (g : Group) : Prop where
  current : s.current = some (w, g)
  ready : s.groupReady w g i h (formOf (formCtx w g 0) i).transfer = true
  active : s.issueLanes w g i h ≠ []
  clean : ∀ l ∈ s.issueLanes w g i h, s.laneFault l (s.issueCtx w g i h) g = none

/-- Time of the last chunk of the instruction's issue (spec/01 R19). -/
def lastChunk (s : State) (w : Workgroup) (g : Group) (i : Instr) (h : Head) : Nat :=
  s.clockOf w + chunksOf (s.issueLanes w g i h).length - 1

/-- The address after the instruction's, and whether it begins another block (spec/05 R134, R137). -/
def nextPc (g : Group) : DWord × Bool := g.blk.next g.pc

/-- In `t` the write `x` is on its way, made by the threads `tids`, and lands at `due`: later only where an older result
of `w` to a register that one of `held` writes lands later (spec/06 R154, R156). -/
def OnItsWay (w : Workgroup) (t : State) (x : Wr) (held : List Wr) (tids : List Nat) (due : Nat) : Prop :=
  ∃ w' d grp, t.wg? w.id = some w' ∧ (⟨d, x, tids, grp⟩ : PendWrite) ∈ w'.pend ∧ due ≤ d
    ∧ ((∀ y ∈ held, ∀ p ∈ w.pend, p.wr.same y = false) → d = due)

/-- Every active lane's results are on their way: those to a v-, k- or predicate register of each lane; to an s-register
those of the lowest active lane alone, made by all (spec/02 R49); flags with the lane's own results (spec/03 R80). Nothing
else is. -/
structure Delivered (w : Workgroup) (lanes : List Lane) (res : Lane → List Wr) (due : Nat) (t : State) : Prop where
  own : ∀ l ∈ lanes, ∀ x ∈ res l, x.isS = false → x.isFlags = false → OnItsWay w t x [x] [] due
  shared : ∀ l ∈ lanes.head?, ∀ x ∈ res l, x.isS = true → OnItsWay w t x [x] (lanes.map Lane.tid) due
  flags : ∀ l ∈ lanes, ∀ x ∈ res l, x.isFlags = true → OnItsWay w t x (res l) [l.tid] due
  only : ∀ w', t.wg? w.id = some w' → ∀ p ∈ w'.pend, p ∈ w.pend ∨
    ∃ l ∈ lanes, p.wr ∈ res l ∧ (p.wr.isS = true → lanes.head? = some l)

/-- A thread but for the block address it left by (spec/05 R139). -/
def keptThread (th : Thread) : Thread := { th with via := 0, midBlock := false }

/-- What another workgroup keeps: everything but whom its yielding groups wait for (spec/11 R277). -/
def keptOther (x : Workgroup) : Workgroup := { x with groups := x.groups.map fun g => { g with yieldOthers := [] } }

/-- What issuing leaves alone: of the whole state everything but the workgroups and the cores' clocks; of other workgroups
everything; of its own, every register of every thread, the s-registers, fpflags and every older result on its way; and its
group goes on at the next instruction. -/
structure IssueKeeps (s t : State) (w : Workgroup) (g : Group) : Prop where
  rest : t = { s with wgs := t.wgs, cores := t.cores }
  others : ∀ id, id ≠ w.id → (t.wg? id).map keptOther = (s.wg? id).map keptOther
  own : ∃ w', t.wg? w.id = some w'
    ∧ { w' with groups := w.groups, pend := w.pend, threads := w.threads } = w
    ∧ w'.threads.map keptThread = w.threads.map keptThread
    ∧ w.pend <+: w'.pend
    ∧ ∃ g', w'.group? g.id = some g' ∧ g'.pc = (nextPc g).1 ∧ g'.entering = (nextPc g).2 ∧ g'.members = g.members

/-- The issue of a fixed-latency instruction leaves all that alone, and the clock stands one issue cycle for each chunk
later. -/
structure OnlyIssued (s t : State) (w : Workgroup) (g : Group) (i : Instr) (h : Head) : Prop extends IssueKeeps s t w g where
  clock : t.clockOf w = lastChunk s w g i h + 1

/-- The instruction has been issued, and its effect comes next, in the ac of its last chunk. -/
structure AtLastChunk (s u : State) (w : Workgroup) (g : Group) (i : Instr) (h : Head) : Prop extends IssueKeeps s u w g where
  clock : u.clockOf w = lastChunk s w g i h

/-- The ac of the last chunk is over. -/
def acOver (s t : State) (w : Workgroup) (g : Group) (i : Instr) (h : Head) : State :=
  t.setClock w.core w.bank (lastChunk s w g i h + 1)

/-- Group `grp` of workgroup `wg`, standing at word `x`, may issue on core `c` in the cycle in which `p.groups` groups already
have (R21): at the same instruction address of the same address space, with at most four groups and 16 active lanes in all;
the groups of one workgroup by ascending lowest tid (R49, R230). -/
structure MayPack (s : State) (c wg grp : Nat) (p : Packed) (w : Workgroup) (g : Group) (x : BitVec 80) : Prop where
  cycle : (s.core c).pack = some p ∧ (s.core c).clock p.bank = p.time + 1
  wg : s.wg? wg = some w
  grp : w.group? grp = some g
  word : s.slotAt w g.pc = some x
  here : w.core = c ∧ w.bank = p.bank ∧ (s.core c).active = p.bank ∧ w.life = .running ∧ w.saved = none
  same : g.pc = p.pc ∧ w.asid = p.asid
  room : p.groups < 4 ∧ p.lanes + ((s.setClock c p.bank p.time).issueLanes w g (decodeWord x) (Head.ofWord x)).length ≤ 16
  order : ∀ x ∈ p.taken, x.1 = w.id → x.2 < g.lowestTid
  ready : (s.setClock c p.bank p.time).isReady w g = true

/-- The issue cycle's account once that group has issued in it. -/
def packedWith (s : State) (c : Nat) (p : Packed) (w : Workgroup) (g : Group) (x : BitVec 80) : Packed :=
  { p with
    taken := p.taken ++ [(w.id, g.lowestTid)]
    lanes := p.lanes + ((s.setClock c p.bank p.time).issueLanes w g (decodeWord x) (Head.ofWord x)).length
    groups := p.groups + 1 }

/-- Every register of every thread reads in `t` as in `s`. -/
def RegistersKept (s t : State) : Prop :=
  ∀ wg tid n, (t.wg? wg).map (fun x => (x.reg tid n, x.kreg tid n, x.preg tid n))
    = (s.wg? wg).map fun x => (x.reg tid n, x.kreg tid n, x.preg tid n)

/-- The wait tag of thread `tid` of workgroup `wg` is pending, if the instruction allocates one (spec/06 R160). -/
def TagPending (t : State) (wg tid : Nat) (h : Head) : Prop :=
  1 ≤ h.talloc.toNat → h.talloc.toNat ≤ 6 → ∀ w th, t.wg? wg = some w → w.thread? tid = some th →
    th.tags.getLsbD (h.talloc.toNat - 1) = true

/-! Encodings. -/

/-- The instruction that a hart word gives: the four requests to the control objects are KSEND words (spec/19 R409,
spec/21 R431). -/
def sameWord : Instr → Instr
  | .aspaceTeardown c x e y => .ksend c x e y
  | .asidRelease c x e y => .ksend c x e y
  | .sweepStart c x e y => .ksend c x e y
  | .objectRevoke c x e y => .ksend c x e y
  | i => i

/-! Integer arithmetic as spec/08 R202 writes it. -/

/-- wrap(x): x mod 2^32. -/
def wrap (x : Int) : Word := BitVec.ofInt 32 x
/-- sat_s(x). -/
def satSigned (x : Int) : Word := BitVec.ofInt 32 (min (max x (-2 ^ 31)) (2 ^ 31 - 1))
/-- sat_u(x). -/
def satUnsigned (x : Int) : Word := BitVec.ofInt 32 (min (max x 0) (2 ^ 32 - 1))
/-- An operand: signed, or unsigned with `.u`. -/
def operand (u : Bool) (x : Word) : Int := if u then x.toNat else x.toInt
/-- The field width n of R203 for position and length. -/
def fieldWidth (b : Word) : Nat :=
  if b.toNat % 256 < 32 then min (b.toNat / 256 % 256) (32 - b.toNat % 256) else 0

/-! Exact values of the floating-point formats, as spec/03 writes them. -/

/-- 2^e. -/
def twoTo (e : Int) : Rat := if 0 ≤ e then ((2 ^ e.toNat : Nat) : Rat) else mkRat 1 (2 ^ (-e).toNat)
/-- The value of a number: plus or minus m · 2^e. -/
def exactOf (n : Bool) (m : Nat) (e : Int) : Rat := (if n then -1 else 1) * (m : Rat) * twoTo e
/-- `x` is a number of the exact value `q`. -/
def IsValue (x : FVal) (q : Rat) : Prop := ∃ n m e, x = .num n m e false ∧ exactOf n m e = q
/-- The integer `k` is the value `q` rounded under a mode (Table 3.3). -/
def RoundsTo (mode : RMode) (q : Rat) (k : Int) : Prop :=
  match mode with
  | .rd => (k : Rat) ≤ q ∧ q < k + 1
  | .ru => (k : Rat) - 1 < q ∧ q ≤ k
  | .rz => if 0 ≤ q then (k : Rat) ≤ q ∧ q < k + 1 else (k : Rat) - 1 < q ∧ q ≤ k
  | .rne => 2 * k ≤ 2 * q + 1 ∧ 2 * q ≤ 2 * k + 1 ∧ (2 * k = 2 * q + 1 ∨ 2 * q = 2 * k + 1 → k % 2 = 0)
/-- NV for operands one of which is a signalling NaN. -/
def invalidOf (x y : FVal) : FpFlags := if x.isSignalling || y.isSignalling then 16 else 0

/-- The reduction of a list of 2^k words in halves, the lower lanes on the left (spec/03 R89). -/
def inHalvesBy (f : Word → Word → Word) : Nat → List Word → Word
  | 0, ys => ys.headD 0
  | k + 1, ys => f (inHalvesBy f k (ys.take (2 ^ k))) (inHalvesBy f k (ys.drop (2 ^ k)))

/-! Results of the fixed-latency instructions: the head of a row, and what each active lane writes. -/

/-- The writes of a lane that does not fault. -/
def written (r : LaneResult) : List Wr := match r with | .ok ws => ws | .error _ => []

/-- The integer instructions of Table 8.4, ISET (R204), SEL (R205) and PLOP (R187); variant<0> is `.u`, variant<1> `.sat`. -/
def integerRow : Instr → Option (Head × (Lane → List Wr))
  | .iadd h b => some (h, fun l => [wrByte l.tid b.d.toNat (opIadd (b.variant.getLsbD 1) (l.reg b.a) (l.reg b.b))])
  | .iaddImm h b => some (h, fun l => [wrByte l.tid b.d.toNat (opIadd (b.variant.getLsbD 1) (l.reg b.a) b.imm)])
  | .isub h b => some (h, fun l => [wrByte l.tid b.d.toNat (opIsub (b.variant.getLsbD 1) (l.reg b.a) (l.reg b.b))])
  | .isubImm h b => some (h, fun l => [wrByte l.tid b.d.toNat (opIsub (b.variant.getLsbD 1) (l.reg b.a) b.imm)])
  | .imul h b => some (h, fun l => [wrByte l.tid b.d.toNat (opImul (l.reg b.a) (l.reg b.b))])
  | .imulImm h b => some (h, fun l => [wrByte l.tid b.d.toNat (opImul (l.reg b.a) b.imm)])
  | .imulhi h b => some (h, fun l => [wrByte l.tid b.d.toNat (opImulhi (b.variant.getLsbD 0) (l.reg b.a) (l.reg b.b))])
  | .imulhiImm h b => some (h, fun l => [wrByte l.tid b.d.toNat (opImulhi (b.variant.getLsbD 0) (l.reg b.a) b.imm)])
  | .imin h b => some (h, fun l => [wrByte l.tid b.d.toNat (opImin (b.variant.getLsbD 0) (l.reg b.a) (l.reg b.b))])
  | .iminImm h b => some (h, fun l => [wrByte l.tid b.d.toNat (opImin (b.variant.getLsbD 0) (l.reg b.a) b.imm)])
  | .imax h b => some (h, fun l => [wrByte l.tid b.d.toNat (opImax (b.variant.getLsbD 0) (l.reg b.a) (l.reg b.b))])
  | .imaxImm h b => some (h, fun l => [wrByte l.tid b.d.toNat (opImax (b.variant.getLsbD 0) (l.reg b.a) b.imm)])
  | .and h b => some (h, fun l => [wrByte l.tid b.d.toNat (opAnd (l.reg b.a) (l.reg b.b))])
  | .andImm h b => some (h, fun l => [wrByte l.tid b.d.toNat (opAnd (l.reg b.a) b.imm)])
  | .or h b => some (h, fun l => [wrByte l.tid b.d.toNat (opOr (l.reg b.a) (l.reg b.b))])
  | .orImm h b => some (h, fun l => [wrByte l.tid b.d.toNat (opOr (l.reg b.a) b.imm)])
  | .xor h b => some (h, fun l => [wrByte l.tid b.d.toNat (opXor (l.reg b.a) (l.reg b.b))])
  | .xorImm h b => some (h, fun l => [wrByte l.tid b.d.toNat (opXor (l.reg b.a) b.imm)])
  | .andn h b => some (h, fun l => [wrByte l.tid b.d.toNat (opAndn (l.reg b.a) (l.reg b.b))])
  | .andnImm h b => some (h, fun l => [wrByte l.tid b.d.toNat (opAndn (l.reg b.a) b.imm)])
  | .shl h b => some (h, fun l => [wrByte l.tid b.d.toNat (opShl (l.reg b.a) (l.reg b.b))])
  | .shlImm h b => some (h, fun l => [wrByte l.tid b.d.toNat (opShl (l.reg b.a) b.imm)])
  | .shr h b => some (h, fun l => [wrByte l.tid b.d.toNat (opShr (l.reg b.a) (l.reg b.b))])
  | .shrImm h b => some (h, fun l => [wrByte l.tid b.d.toNat (opShr (l.reg b.a) b.imm)])
  | .sar h b => some (h, fun l => [wrByte l.tid b.d.toNat (opSar (l.reg b.a) (l.reg b.b))])
  | .sarImm h b => some (h, fun l => [wrByte l.tid b.d.toNat (opSar (l.reg b.a) b.imm)])
  | .rot h b => some (h, fun l => [wrByte l.tid b.d.toNat (opRot (l.reg b.a) (l.reg b.b))])
  | .rotImm h b => some (h, fun l => [wrByte l.tid b.d.toNat (opRot (l.reg b.a) b.imm)])
  | .bfx h b => some (h, fun l => [wrByte l.tid b.d.toNat (opBfx (b.variant.getLsbD 0) (l.reg b.a) (l.reg b.b))])
  | .bfxImm h b => some (h, fun l => [wrByte l.tid b.d.toNat (opBfx (b.variant.getLsbD 0) (l.reg b.a) b.imm)])
  | .imad h b => some (h, fun l => [wrByte l.tid b.d.toNat (opImad (b.variant.getLsbD 0) (b.variant.getLsbD 1) (l.reg b.a) (l.reg b.b) (l.reg b.c))])
  | .iabs h b => some (h, fun l => [wrByte l.tid b.d.toNat (opIabs (b.variant.getLsbD 1) (l.reg b.a))])
  | .ineg h b => some (h, fun l => [wrByte l.tid b.d.toNat (opIneg (b.variant.getLsbD 1) (l.reg b.a))])
  | .bfi h b => some (h, fun l => [wrByte l.tid b.d.toNat (opBfi (l.reg b.d) (l.reg b.b) (l.reg b.c))
      (l.w.reg l.tid b.d.toNat).poison])
  | .popc h b => some (h, fun l => [wrByte l.tid b.d.toNat (opPopc (l.reg b.a))])
  | .clz h b => some (h, fun l => [wrByte l.tid b.d.toNat (opClz (l.reg b.a))])
  | .brev h b => some (h, fun l => [wrByte l.tid b.d.toNat (opBrev (l.reg b.a))])
  | .iset h b => some (h, fun l => [.p l.tid (b.d.toNat % 8) (opIset (b.variant.getLsbD 0) (b.variant.extractLsb' 2 3) (l.reg b.a) (l.reg b.b))])
  | .isetImm h b => some (h, fun l => [.p l.tid (b.d.toNat % 8) (opIset (b.variant.getLsbD 0) (b.variant.extractLsb' 2 3) (l.reg b.a) b.imm)])
  | .sel h b => some (h, fun l => let r := l.w.reg l.tid (if l.pred b.c ^^ b.variant.getLsbD 0 then b.a else b.b).toNat;
    [wrByte l.tid b.d.toNat r.val r.poison])
  | .plop h b => some (h, fun l => [.p l.tid (b.d.toNat % 8) (opPlop (b.variant.extractLsb' 0 3) (b.variant.extractLsb' 3 2)
    b.na b.nb b.nc (l.pred b.a) (l.pred b.b) (l.pred b.d))])
  | _ => none

/-- The floating-point instructions with their latencies (Table 6.1): the exact result of R209-R219, rounded and clamped
once (R73, R77), with its flags (R80). -/
def floatRow : Instr → Option (Head × Nat × (Lane → List Wr))
  | .fadd h b => some (h, 4, fun l => written (fpDest l b (RMode.ofCode (b.variant.extractLsb' 0 2)) ((fpA l b).add (RMode.ofCode (b.variant.extractLsb' 0 2)) (fpB l b))))
  | .faddImm h b => some (h, 4, fun l => written (fpDestI l b (RMode.ofCode (b.variant.extractLsb' 0 2)) ((fpAI l b).add (RMode.ofCode (b.variant.extractLsb' 0 2)) (fpImm b))))
  | .fsub h b => some (h, 4, fun l => written (fpDest l b .rne ((fpA l b).add .rne (fpB l b).neg)))
  | .fsubImm h b => some (h, 4, fun l => written (fpDestI l b .rne ((fpAI l b).add .rne (fpImm b).neg)))
  | .fmul h b => some (h, 4, fun l => written (fpDest l b (RMode.ofCode (b.variant.extractLsb' 0 2)) ((fpA l b).mul (fpB l b))))
  | .fmulImm h b => some (h, 4, fun l => written (fpDestI l b (RMode.ofCode (b.variant.extractLsb' 0 2)) ((fpAI l b).mul (fpImm b))))
  | .ffma h b => some (h, 4, fun l => written (fpDest l b (RMode.ofCode (b.variant.extractLsb' 0 2)) (FVal.fma (RMode.ofCode (b.variant.extractLsb' 0 2)) (fpA l b) (fpB l b) (fpC l b))))
  | .fmin h b => some (h, 4, fun l => written (fpDest l b .rne (FVal.minMax false (b.variant.getLsbD 2) (fpA l b) (fpB l b))))
  | .fminImm h b => some (h, 4, fun l => written (fpDestI l b .rne (FVal.minMax false (b.variant.getLsbD 2) (fpAI l b) (fpImm b))))
  | .fmax h b => some (h, 4, fun l => written (fpDest l b .rne (FVal.minMax true (b.variant.getLsbD 2) (fpA l b) (fpB l b))))
  | .fmaxImm h b => some (h, 4, fun l => written (fpDestI l b .rne (FVal.minMax true (b.variant.getLsbD 2) (fpAI l b) (fpImm b))))
  | .fset h b => some (h, 4, fun l => let r := FVal.compareBy (b.variant.extractLsb' 2 3) (fpA l b) (fpB l b);
    [.p l.tid (b.d.toNat % 8) r.1, .flags r.2])
  | .fsetImm h b => some (h, 4, fun l => let r := FVal.compareBy (b.variant.extractLsb' 2 3) (fpAI l b) (fpImm b);
    [.p l.tid (b.d.toNat % 8) r.1, .flags r.2])
  | .frcp h b => some (h, 12, fun l => written (fpDest l b .rne (frcpVal (fpA l b))))
  | .frsq h b => some (h, 12, fun l => written (fpDest l b .rne (frsqVal (fpA l b))))
  | .fsqrt h b => some (h, 12, fun l => written (fpDest l b .rne (fsqrtVal (fpA l b))))
  | .fex2 h b => some (h, 12, fun l => written (fpDest l b .rne (fex2Val (fpA l b))))
  | .flg2 h b => some (h, 12, fun l => written (fpDest l b .rne (flg2Val (fpA l b))))
  | .fsin h b => some (h, 16, fun l => written (fpDest l b .rne (sinCosVal false (fpA l b))))
  | .fcos h b => some (h, 16, fun l => written (fpDest l b .rne (sinCosVal true (fpA l b))))
  | .ftanh h b => some (h, 16, fun l => written (fpDest l b .rne (ftanhVal (fpA l b))))
  | .frnd h b => some (h, 4, fun l => written (fpDest l b .rne (FVal.roundIntegral (RMode.ofCode (b.variant.extractLsb' 3 2)) (fpA l b))))
  | .fcvt h b => some (h, 4, fun l => let old := l.w.reg l.tid b.d.toNat
    let r := fcvtWord b (l.reg b.a) old.val (clampBound l);
    wrByte l.tid b.d.toNat r.1 (fcvtNarrow b && old.poison) :: if r.2 = 0 then [] else [.flags r.2])
  | .fclass h b => some (h, 4, fun l =>
    [wrByte l.tid b.d.toNat (fclass32 (BitVec.ofNat 32 (fp32.modSource b.na b.aa (l.reg b.a).toNat)))])
  | .fscl h b => some (h, 4, fun l => written (fpDest l b (RMode.ofCode (b.variant.extractLsb' 0 2)) (fsclVal (fpA l b) (l.reg b.b))))
  | .hadd2 h b => some (h, 4, fun l => written (halfResult l b fun x y _ => x.add .rne y))
  | .hmul2 h b => some (h, 4, fun l => written (halfResult l b fun x y _ => x.mul y))
  | .hfma2 h b => some (h, 4, fun l => written (halfResult l b fun x y z => FVal.fma .rne x y z))
  | _ => none

/-- What the lane instructions read of their group when their first chunk issues at `now` (spec/09 R220). -/
structure GroupView where
  w : Workgroup
  g : Group
  lanes : List Lane

/-- The register of the member at a position, or the lane's own where there is no such member. -/
def GroupView.reg (x : GroupView) (l : Lane) (pos : Int) (r : BitVec 8) : VReg :=
  match x.g.members.find? fun m => (m.1 : Int) = pos with
  | some m => x.w.reg m.2 r.toNat
  | none => x.w.reg l.tid r.toNat

/-- The predicates that VOTE sees, by position (R224). -/
def GroupView.votes (x : GroupView) (a : BitVec 8) (neg : Bool) : List (Nat × Bool) :=
  x.lanes.map fun l => (l.pos, x.w.preg l.tid (a.toNat % 8) ^^ neg)

/-- The lane, move and special-register instructions with their latencies (R221-R228). -/
def laneRow (x : GroupView) : Instr → Option (Head × Nat × (Lane → List Wr))
  | .mov h b => some (h, 2, fun l => let r := l.w.reg l.tid b.a.toNat; [wrByte l.tid b.d.toNat r.val r.poison])
  | .movi h b => some (h, 2, fun l => [wrByte l.tid b.d.toNat b.imm])
  | .movs h b => some (h, 2, fun l =>
    let lowest : Int := match x.lanes with | m :: _ => m.pos | [] => 0
    let r := x.reg l (if b.variant.getLsbD 6 then lowest else ((b.variant.toNat % 64 : Nat) : Int)) b.a;
    [wrByte l.tid b.d.toNat r.val r.poison])
  | .shfl h b => some (h, 6, fun l =>
    let n := if b.variant.getLsbD 2 then b.b.toNat % 64 else (l.reg b.b).toNat
    let r := x.reg l (shflPos (b.variant.toNat % 4) l.pos n) b.a;
    [wrByte l.tid b.d.toNat r.val r.poison])
  | .vote h b => some (h, 3, fun l =>
    let vs := x.votes b.a (b.variant.getLsbD 2)
    match b.variant.toNat % 4 with
    | 0 => [.p l.tid (b.d.toNat % 8) (vs.all Prod.snd)]
    | 1 => [.p l.tid (b.d.toNat % 8) (vs.any Prod.snd)]
    | 2 => [.p l.tid (b.d.toNat % 8) (vs.all Prod.snd || !vs.any Prod.snd)]
    | _ =>
      let m := vs.foldl (fun m v => if v.2 then m ||| 2 ^ v.1 else m) 0
      if x.w.w = 64 then wrPair l.tid b.d.toNat (BitVec.ofNat 64 m) else [wrByte l.tid b.d.toNat (BitVec.ofNat 32 m)])
  | .lred h b => some (h, 4 + 2 * x.w.w.log2, fun l =>
    let ys := (List.range x.w.w).map fun p =>
      match x.lanes.find? fun m => m.pos == p with
      | some m => ((x.w.reg m.tid b.a.toNat).val, (0 : FpFlags))
      | none => (lredIdentity (b.variant.toNat % 16), 0)
    let r := (lredRounds (b.variant.toNat % 16) 7 1 ys).getD l.pos (0, 0);
    wrByte l.tid b.d.toNat r.1 :: if r.2 = 0 then [] else [.flags r.2])
  | .prmt h b => some (h, 2, fun l =>
    let p (r : BitVec 8) : Bool := (l.w.reg l.tid r.toNat).poison
    [wrByte l.tid b.d.toNat (opPrmt (l.reg b.a) (l.reg b.b) (l.reg b.c)) (p b.a || p b.b || p b.c)])
  | .getsr h b => some (h, 2, fun l => [wrByte l.tid b.d.toNat (BitVec.ofNat 32 (specialReg l b.imm.toNat))])
  | _ => none

/-- A 64-bit value or one of its halves into the register a, as the width field says (spec/10 R249). -/
def widthWrites (l : Lane) (b : KBody) (x : DWord) : List Wr :=
  match b.variant.toNat % 4 with
  | 2 => wrPair l.tid b.a.toNat x
  | 1 => [wrByte l.tid b.a.toNat (x.extractLsb' 32 32)]
  | _ => [wrByte l.tid b.a.toNat (x.extractLsb' 0 32)]

/-- The capability instructions (R249-R256): what a lane writes, or the fault of a derivation that checks. -/
def capabilityRow : Instr → Option (Head × (Lane → Except CapFault (List Wr)))
  | .kaddr h b => some (h, fun l => .ok (widthWrites l b (l.cap b.ka).cursor))
  | .kbase h b => some (h, fun l => .ok (widthWrites l b (BitVec.ofNat 64 (capBaseRead (l.cap b.ka)))))
  | .klen h b => some (h, fun l => .ok (widthWrites l b (BitVec.ofNat 64 (capLenRead (l.cap b.ka)))))
  | .kperm h b => some (h, fun l => .ok [wrByte l.tid b.a.toNat ((l.cap b.ka).perms.zeroExtend 32)])
  | .ktype h b => some (h, fun l => .ok [wrByte l.tid b.a.toNat ((l.cap b.ka).otype.zeroExtend 32)])
  | .ktag h b => some (h, fun l => .ok [.p l.tid (b.a.toNat % 8) (l.cap b.ka).valid])
  | .ksub h b => some (h, fun l => .ok (widthWrites l b ((l.cap b.ka).cursor - (l.cap b.kb).cursor)))
  | .kseta h b => some (h, fun l => .ok [.k l.tid b.kd.toNat ((l.cap b.ka).withCursor (setaCursor l b).toNat) false])
  | .kinc h b => some (h, fun l => .ok [.k l.tid b.kd.toNat
      (capInc (l.cap b.ka) (if b.variant.getLsbD 2 then (l.reg b.a).toInt else b.imm.toInt)) false])
  | .kbnd h b => some (h, fun l => .ok [.k l.tid b.kd.toNat (capBnd (l.cap b.ka) (kLength l b)) false])
  | .kbndx h b => some (h, fun l => (capBndx (l.cap b.ka) (kLength l b)).map fun c => [.k l.tid b.kd.toNat c false])
  | .kandp h b => some (h, fun l => .ok [.k l.tid b.kd.toNat (capAndp (l.cap b.ka) (b.imm.extractLsb' 0 12)) false])
  | .kseal h b => some (h, fun l => (capSeal (l.cap b.ka) (l.cap b.kb)).map fun c => [.k l.tid b.kd.toNat c false])
  | .kunseal h b => some (h, fun l => (capUnseal (l.cap b.ka) (l.cap b.kb)).map fun c => [.k l.tid b.kd.toNat c false])
  | .kclr h b => some (h, fun l => .ok [.k l.tid b.kd.toNat .null false])
  | .kmov h b => some (h, fun l => let r := l.w.kreg l.tid b.ka.toNat; .ok [.k l.tid b.kd.toNat r.cap r.poison])
  | .kentry h b => some (h, fun l => (capEntry (l.cap b.ka)).map fun c => [.k l.tid b.kd.toNat c false])
  | _ => none

/-- What half `i` of a packed operand is, with its modifiers (spec/09 R219). -/
def halfOf (fmt : FpFormat) (l : Lane) (i : Nat) (r : BitVec 8) (neg abs : Bool) : FVal :=
  fmt.decode (fmt.modSource neg abs ((l.reg r).extractLsb' (16 * i) 16).toNat)

/-- SHFL's source position for the lane at `pos` (spec/09 R223). -/
def shuffleFrom (mode : BitVec 2) (pos delta : Nat) : Int :=
  match mode.toNat with
  | 0 => delta
  | 1 => pos - delta
  | 2 => pos + delta
  | _ => (pos ^^^ delta : Nat)

/-! Landing. -/

/-- The last of some writes to a register of a thread, if there is one. -/
def lastV (ws : List Wr) (tid n : Nat) : Option VReg :=
  ws.foldl (fun acc x => match x with | .v t m y po => if t = tid ∧ m = n then some ⟨y, po⟩ else acc | _ => acc) none
def lastS (ws : List Wr) (n : Nat) : Option VReg :=
  ws.foldl (fun acc x => match x with | .s m y po => if m = n then some ⟨y, po⟩ else acc | _ => acc) none
def lastK (ws : List Wr) (tid n : Nat) : Option KReg :=
  ws.foldl (fun acc x => match x with | .k t m c po => if t = tid ∧ m = n then some ⟨c, po⟩ else acc | _ => acc) none
def lastP (ws : List Wr) (tid n : Nat) : Option Bool :=
  ws.foldl (fun acc x => match x with | .p t m b => if t = tid ∧ m = n then some b else acc | _ => acc) none
/-- The writes on their way that are due by a time, oldest first. -/
def dueBy (w : Workgroup) (time : Nat) : List Wr := (w.pend.filter fun p => p.due ≤ time).map PendWrite.wr

/-! Memory instructions: the head and body of a row, what it asks for at its execution point, and what R231 checks. -/

/-- Natural alignment for a strong access only (spec/04 R105). -/
def strongAlign (b : MBody) : Nat := if b.order = 0 then 0 else 2 ^ b.size.toNat
def atomAccess (b : MBody) : AccessSpec :=
  ⟨[pLOAD, pSTORE], 2 ^ b.size.toNat, 2 ^ b.size.toNat, { w := true }, true, false, false, none⟩
def redAccess (b : MBody) : AccessSpec := { atomAccess b with perms := [pSTORE] }
/-- The capability that STK stores, untagged where it is malformed, with its poison (R238). -/
def storedCap (l : Lane) (b : MBody) : Cap × Bool :=
  let r := l.w.kreg l.tid (b.data.toNat % 16)
  ({ r.cap with tag := r.cap.valid }, r.poison)

structure MemoryRow where
  h : Head
  b : MBody
  op : Lane → ReqOp
  spec : Lane → AccessSpec
  /-- The instruction is resolved only at its execution point (spec/06 R163). -/
  late : Bool
  /-- Its object is the 8-byte word of a full/empty bit (R239). -/
  fe : Bool

/-- The M-format accesses: loads, stores, full/empty accesses, atomics, monitors and locks. -/
def memoryRow : Instr → Option MemoryRow
  | .ld h b => some ⟨h, b, fun _ => .load (b.variant.getLsbD 0), fun _ => ⟨[pLOAD], 2 ^ b.size.toNat, strongAlign b, {}, false, false, false, none⟩, false, false⟩
  | .lds h b => some ⟨h, b, fun _ => .load (b.variant.getLsbD 0), fun _ => ⟨[pLOAD], 2 ^ b.size.toNat, strongAlign b, {}, false, true, false, none⟩, false, false⟩
  | .st h b => some ⟨h, b, fun l => .store (storeData l b), fun _ => ⟨[pSTORE], 2 ^ b.size.toNat, strongAlign b, { w := true }, false, false, false, none⟩, false, false⟩
  | .sts h b => some ⟨h, b, fun l => .store (storeData l b), fun _ => ⟨[pSTORE], 2 ^ b.size.toNat, strongAlign b, { w := true }, false, true, false, none⟩, false, false⟩
  | .ldk h b => some ⟨h, b, fun l => .loadCap ((l.cap b.k).has pLOADK), fun _ => ⟨[pLOAD], 2 ^ b.size.toNat, 16, {}, false, false, false, none⟩, false, false⟩
  | .stk h b => some ⟨h, b, fun l => .storeCap (storedCap l b).1 (storedCap l b).2, fun l => stkSpec l b, false, false⟩
  | .ldfe h b => some ⟨h, b, fun _ => .ldfe false, fun _ => ⟨[pLOAD, pSTORE], 2 ^ b.size.toNat, 2 ^ b.size.toNat, { w := true, fe := true }, false, false, false, none⟩, true, true⟩
  | .ldfeKeep h b => some ⟨h, b, fun _ => .ldfe true, fun _ => ⟨[pLOAD], 2 ^ b.size.toNat, 2 ^ b.size.toNat, { fe := true }, false, false, false, none⟩, true, true⟩
  | .stfe h b => some ⟨h, b, fun l => .stfe (storeData l b) false, fun _ => ⟨[pSTORE], 2 ^ b.size.toNat, 2 ^ b.size.toNat, { w := true, fe := true }, false, false, false, none⟩, true, true⟩
  | .stfeForce h b => some ⟨h, b, fun l => .stfe (storeData l b) true, fun _ => ⟨[pSTORE], 2 ^ b.size.toNat, 2 ^ b.size.toNat, { w := true, fe := true }, false, false, false, none⟩, true, true⟩
  | .atomAdd h b => some ⟨h, b, fun l => .atom .add (b.variant.getLsbD 0) (runValue l b 0) (runValue l b 1) false, fun _ => atomAccess b, true, false⟩
  | .atomAddF32 h b => some ⟨h, b, fun l => .atom .addF32 (b.variant.getLsbD 0) (runValue l b 0) (runValue l b 1) false, fun _ => atomAccess b, true, false⟩
  | .atomMin h b => some ⟨h, b, fun l => .atom .min (b.variant.getLsbD 0) (runValue l b 0) (runValue l b 1) false, fun _ => atomAccess b, true, false⟩
  | .atomMax h b => some ⟨h, b, fun l => .atom .max (b.variant.getLsbD 0) (runValue l b 0) (runValue l b 1) false, fun _ => atomAccess b, true, false⟩
  | .atomAnd h b => some ⟨h, b, fun l => .atom .and (b.variant.getLsbD 0) (runValue l b 0) (runValue l b 1) false, fun _ => atomAccess b, true, false⟩
  | .atomOr h b => some ⟨h, b, fun l => .atom .or (b.variant.getLsbD 0) (runValue l b 0) (runValue l b 1) false, fun _ => atomAccess b, true, false⟩
  | .atomXor h b => some ⟨h, b, fun l => .atom .xor (b.variant.getLsbD 0) (runValue l b 0) (runValue l b 1) false, fun _ => atomAccess b, true, false⟩
  | .atomXchg h b => some ⟨h, b, fun l => .atom .xchg (b.variant.getLsbD 0) (runValue l b 0) (runValue l b 1) false, fun _ => atomAccess b, true, false⟩
  | .atomCas h b => some ⟨h, b, fun l => .atom .cas (b.variant.getLsbD 0) (runValue l b 0) (runValue l b 1) false, fun _ => atomAccess b, true, false⟩
  | .atomIncw h b => some ⟨h, b, fun l => .atom .incw (b.variant.getLsbD 0) (runValue l b 0) (runValue l b 1) false, fun _ => atomAccess b, true, false⟩
  | .atomBfadd h b => some ⟨h, b, fun l => .atom .bfadd (b.variant.getLsbD 0) (runValue l b 0) (runValue l b 1) false, fun _ => atomAccess b, true, false⟩
  | .redAdd h b => some ⟨h, b, fun l => .atom .add (b.variant.getLsbD 0) (runValue l b 0) (runValue l b 1) true, fun _ => redAccess b, true, false⟩
  | .redAddF32 h b => some ⟨h, b, fun l => .atom .addF32 (b.variant.getLsbD 0) (runValue l b 0) (runValue l b 1) true, fun _ => redAccess b, true, false⟩
  | .redMin h b => some ⟨h, b, fun l => .atom .min (b.variant.getLsbD 0) (runValue l b 0) (runValue l b 1) true, fun _ => redAccess b, true, false⟩
  | .redMax h b => some ⟨h, b, fun l => .atom .max (b.variant.getLsbD 0) (runValue l b 0) (runValue l b 1) true, fun _ => redAccess b, true, false⟩
  | .redAnd h b => some ⟨h, b, fun l => .atom .and (b.variant.getLsbD 0) (runValue l b 0) (runValue l b 1) true, fun _ => redAccess b, true, false⟩
  | .redOr h b => some ⟨h, b, fun l => .atom .or (b.variant.getLsbD 0) (runValue l b 0) (runValue l b 1) true, fun _ => redAccess b, true, false⟩
  | .redXor h b => some ⟨h, b, fun l => .atom .xor (b.variant.getLsbD 0) (runValue l b 0) (runValue l b 1) true, fun _ => redAccess b, true, false⟩
  | .redIncw h b => some ⟨h, b, fun l => .atom .incw (b.variant.getLsbD 0) (runValue l b 0) (runValue l b 1) true, fun _ => redAccess b, true, false⟩
  | .mwait h b => some ⟨h, b, fun l => .monitor false (runValue l b 0), fun _ => ⟨[pLOAD], 2 ^ b.size.toNat, 2 ^ b.size.toNat, {}, true, false, false, none⟩, true, false⟩
  | .mwaitEq h b => some ⟨h, b, fun l => .monitor true (runValue l b 0), fun _ => ⟨[pLOAD], 2 ^ b.size.toNat, 2 ^ b.size.toNat, {}, true, false, false, none⟩, true, false⟩
  | .lock h b => some ⟨h, b, fun _ => .lock, fun _ => atomAccess b, true, false⟩
  | .unlock h b => some ⟨h, b, fun _ => .unlock, fun _ => atomAccess b, true, false⟩
  | _ => none

/-- Access address (R231): base cursor, scaled index and offset. -/
def accessAddress (l : Lane) (b : MBody) : Int :=
  ((l.cap b.k).cursor.toNat : Int) + b.offset.toInt + (l.reg b.index).toInt * 2 ^ b.iscale.toNat

/-- The request that a lane sends for its checked access `p`: a strong load can still fault POISON (spec/10 R257). -/
def accessOf (r : MemoryRow) (c : IssueCtx) (l : Lane) (id batch : Nat) (lowest : Bool) (p : Placed) : Request :=
  let q := ({ baseRequest c l id batch lowest with op := r.op l, unresolved := r.late }).placed l.w.seat.die r.b (accessAddress l r.b) p
  let q := { q with unresolved := r.late || ((r.op l).reads && (r.b.order != 0 || p.io)) }
  if r.fe then { q with obj := q.obj / 8 * 8 } else q

/-- From state `s`, the lanes' accesses pass the checks of R231 one after another, in ascending position, each in the state
that the one before has left, an access to an IO page is naturally aligned (R93, R105), and none reads poison of its own core
(R163): the lanes' requests and the state at the end. -/
def AccessesPass (r : MemoryRow) (c : IssueCtx) (batch : Nat) : List Lane → Bool → State → List Request → State → Prop
  | [], _, s, rs, t => rs = [] ∧ t = s
  | l :: ls, lowest, s, rs, t =>
    ∃ s1 p rest, checkAccess s.newId.2 l.w.seat (l.cap r.b.k) r.b.k.toNat (accessAddress l r.b) (r.spec l) = (s1, .ok p)
      ∧ (p.io = true → accessAddress l r.b % (2 ^ r.b.size.toNat : Nat) = 0)
      ∧ ((r.op l).reads = true → s1.ownPoison l.w.core p.pas = false)
      ∧ rs = accessOf r c l s.nextId batch lowest p :: rest
      ∧ AccessesPass r c batch ls false (s1.sendReq (accessOf r c l s.nextId batch lowest p)) rest t

/-! What translation does to memory (spec/20 R409, R413). -/

/-- Addresses of the page-table entries that a walk reads, from the table at page `tbl`. -/
def entryPath (s : State) (vpn : Nat) : Nat → Nat → List Nat
  | 0, _ => []
  | level + 1, tbl =>
    let at_ := tbl * 4096 + vpn / 2 ^ (9 * level) % 512 * 8
    let pte := s.peek at_ 8
    at_ :: if !pteV pte || pteR pte || pteW pte || pteX pte then [] else entryPath s vpn level (ptePpn pte)

/-- The entries that the translation of one page reads, and the leaf that it marks; none where a translation cache serves it or
the address is of an identity-mapped range (R95). -/
def entriesOfPage (s : State) (seat : Seat) (need : LeafNeed) (va : Nat) : List Nat × Option Nat :=
  let vpn := va / 4096 % 2 ^ 36
  if inAllocRange va || (s.tlbHit seat need vpn).isSome then ([], none)
  else match s.rootOf seat.asid with
    | (some root, u) =>
      let u := u.cleanWalk seat.die vpn 4 root
      (entryPath u vpn 4 root, (walk u vpn 4 root).map Prod.fst)
    | (none, _) => ([], none)

/-- Those of an access's pages, each translated after the ones before. -/
def entriesOfPages (seat : Seat) (need : LeafNeed) : List Nat → State → List (List Nat × Option Nat)
  | [], _ => []
  | va :: r, s => entriesOfPage s seat need va :: entriesOfPages seat need r (s.translate seat need va).1

/-- Those of the lanes' accesses, each checked after the ones before. -/
def entriesOfLanes (r : MemoryRow) (c : IssueCtx) (batch : Nat) : List Lane → Bool → State → List (List Nat × Option Nat)
  | [], _, _ => []
  | l :: ls, lowest, s =>
    entriesOfPages l.w.seat (r.spec l).need (pagesOf (accessAddress l r.b).toNat (r.spec l).n) s.newId.2
      ++ match checkAccess s.newId.2 l.w.seat (l.cap r.b.k) r.b.k.toNat (accessAddress l r.b) (r.spec l) with
        | (s1, .ok p) => entriesOfLanes r c batch ls false (s1.sendReq (accessOf r c l s.nextId batch lowest p))
        | _ => []

/-- The byte at `a` once die d has given its copy of the line back to its home (R100): the copy's, where it is dirty. -/
def latestByte (s : State) (d a : Nat) : Byte :=
  match if remoteHome d a then s.copy? d (a / 128) else none with
  | some c => if c.dirty.getLsbD (a % 128) then c.byte (a % 128) else s.byteAt a
  | none => s.byteAt a

/-- From `s` to `t`, walks by die d have read the entries `es`. Every byte outside the entries' lines reads as before, and so do
its granule's tag and poison, its line's copies, the L1s that hold it and the directory; a byte of an entry's line holds what
die d last wrote to it; and a marked leaf's first byte has gained the A and D bits at most. -/
structure WalksRead (s t : State) (d : Nat) (es : List (List Nat × Option Nat)) : Prop where
  bytes : ∀ a, (∀ e ∈ es, e.2 ≠ some a) →
    t.byteAt a = if (es.any fun e => e.1.any fun x => x / 128 == a / 128) then latestByte s d a else s.byteAt a
  marks : ∀ a, (∃ e ∈ es, e.2 = some a) → t.byteAt a = latestByte s d a ||| (t.byteAt a &&& 0xC0)
  rest : ∀ a, (∀ e ∈ es, ∀ x ∈ e.1, x / 128 ≠ a / 128) → t.tagAt a = s.tagAt a ∧ t.poisonAt a = s.poisonAt a
    ∧ (∀ d', t.copy? d' (a / 128) = s.copy? d' (a / 128)) ∧ (∀ k, (k, a / 128) ∈ t.l1 ↔ (k, a / 128) ∈ s.l1)
    ∧ (a / 128 ∈ t.directory ↔ a / 128 ∈ s.directory)
  others : ∀ d' l, d' ≠ d → t.copy? d' l = s.copy? d' l
  summary : ∀ n, n ∈ t.summary → n ∈ s.summary ∨ ∃ e ∈ es, ∃ x ∈ e.1, x / 4096 = n

/-- Sets the wait tag of the lanes' threads, when the instruction allocates one (R160). -/
def tagged (t : State) (w : Workgroup) (h : Head) (lanes : List Lane) : State :=
  t.modWg w.id fun x => lanes.foldl (fun x l => x.setTag l.tid h.talloc.toNat true) x

/-! Other variable-latency instructions: what each active lane asks for, under the conditions on its operands that the
instruction's rule gives. -/

/-- A capability that names a live local object of a type, with INVOKE (spec/11 R272, spec/19 R387). -/
structure Names (s : State) (c : Cap) (type : Nat) : Prop where
  valid : c.valid = true
  here : c.remote = false
  otype : c.otype.toNat = type
  invoke : c.has pINVOKE = true
  live : s.objLive c.objPa type = true

/-- A capability that a message may carry: no register, an invalid one, or one with TRANSFER and GLOBAL (R272). -/
def mayCarry (l : Lane) (k : BitVec 4) : Prop :=
  k = 0 ∨ (l.cap k).valid = false ∨ (l.cap k).has pTRANSFER = true ∧ (l.cap k).has pGLOBAL = true

/-- Capability k of the lane names what is at `obj`: a live object, or the byte that its cursor points at (R270). -/
inductive NamesPlace (s : State) (l : Lane) (k : BitVec 4) : State → Nat → Prop
  | object (hv : (l.cap k).valid = true) (ht : 2 ≤ (l.cap k).otype.toNat ∧ (l.cap k).otype.toNat ≤ 10)
      (hi : (l.cap k).has pINVOKE = true) (hl : s.objLive (l.cap k).objPa (l.cap k).otype.toNat = true) :
      NamesPlace s l k s (l.cap k).objPa
  | byte (u : State) (p : Placed)
      (ht : (l.cap k).valid = false ∨ (l.cap k).otype.toNat < 2 ∨ 10 < (l.cap k).otype.toNat)
      (hp : checkAccess s l.w.seat (l.cap k) k.toNat (l.cap k).cursor.toNat { perms := [pLOAD], n := 1 } = (u, .ok p)) :
      NamesPlace s l k u (p.pas.headD 0)

/-- A wait-for table entry of a lane's thread as WREG and WHOLD fill it (Table 11.6). -/
def entryOf (id die kind obj : Nat) (state : EntryState) (r : Request) (h : Holders) (prio : Nat) (walk : Option WalkState) : WaitEntry :=
  ⟨id, die, kind, obj, 0, state, [r.who], h, prio, walk, false, r.id⟩

/-- The walk that begins with such an entry: over the table as its registration finds it (R262). -/
def walkAt (u : State) (die kind obj : Nat) (r : Request) (h : Holders) : WalkState :=
  ({ u with nextId := u.nextId + 1 } : State).walkOf (entryOf u.nextId die kind obj .waiting r h 0 none)

/-- Whom an explicit wait on the place of capability `c` is for: of an ENDPOINT its server, else whom WHOLD declares (R270,
Table 11.1). -/
def heldBy (c : Cap) : Holders := if c.valid && c.otype == 2 then .server else .unknown

/-- The table of a die is full: the overflow is counted, and the first one reported by event 1 (R260, Table 11.5). -/
def overflowed (s : State) (die obj : Nat) (who : Party) : State :=
  let n := (s.hall die).wfovf
  let u := s.setHall die { s.hall die with wfovf := if n = 0xFFFFFFFF then n else n + 1 }
  if n = 0 then u.hallEvent die 1 [BitVec.ofNat 32 die, (u.hall die).wfovf, u.identity who, loWord obj, hiWord obj] else u

/-- Die whose wait-for table the lane's thread uses (R258). -/
def waitDie (l : Lane) : Nat := dieOfCore l.w.core % 4

/-- The request of a message instruction. -/
def messageOf (r : Request) (b : SBody) (op : ReqOp) (order : BitVec 2) (obj scope : Nat) : Request :=
  { r with op := op, order := order, scope := scope, obj := obj, size := b.count.toNat, data := b.v.toNat,
           kreg := b.kx0.toNat + 16 * b.kx1.toNat, pred := b.flags.toNat % 8, auth := b.ek.toNat, chans := [chanOf obj],
           unresolved := true }

/-- A request that is done at once. -/
def atOnce (r : Request) : Request := { r with phase := .done [] none }

/-- In state `s` lane `l`, whose request `r` has been begun, asks with instruction `i` for what the last two give: the state
that it leaves, and its request if it sends one. -/
inductive LaneAsks (s : State) (l : Lane) (r : Request) : Instr → State → Option Request → Prop
  /-- FENCE (R181, R245): `.ar` 1, `.acq` 2, `.rel` 3. -/
  | fence (h : Head) (b : MBody) : LaneAsks s l r (.fence h b) s (some { r with
      op := .fence (b.order != 3) (b.order != 2), order := if b.order = 3 then 1 else 2, scope := b.scope.toNat, unresolved := true })
  /-- FLUSH and INVAL of the line of a byte that may be read, or of all (R246). -/
  | flushAll (h : Head) (b : MBody) (hv : b.variant.getLsbD 0 = true) :
      LaneAsks s l r (.flush h b) s (some { r with op := .flush true false })
  | invalAll (h : Head) (b : MBody) (hv : b.variant.getLsbD 0 = true) :
      LaneAsks s l r (.inval h b) s (some { r with op := .flush true true })
  | flushLine (h : Head) (b : MBody) (u : State) (p : Placed) (hv : b.variant.getLsbD 0 = false) (hs : b.size = 0)
      (hp : checkAccess s l.w.seat (l.cap b.k) b.k.toNat (accessAddress l b) { perms := [pLOAD], n := 1 } = (u, .ok p)) :
      LaneAsks s l r (.flush h b) u (some { ({ r with op := .flush false false }).placed l.w.seat.die b (accessAddress l b) p with
        unresolved := false })
  | invalLine (h : Head) (b : MBody) (u : State) (p : Placed) (hv : b.variant.getLsbD 0 = false) (hs : b.size = 0)
      (hp : checkAccess s l.w.seat (l.cap b.k) b.k.toNat (accessAddress l b) { perms := [pLOAD], n := 1 } = (u, .ok p)) :
      LaneAsks s l r (.inval h b) u (some { ({ r with op := .flush false true }).placed l.w.seat.die b (accessAddress l b) p with
        unresolved := false })
  /-- PREF reads the line weakly where its page's translation is cached, the access is allowed and the page is cacheable
  memory, and with variant 0 leaves it in the core's L1; else it does nothing (R247). -/
  | prefFetch (h : Head) (b : MBody) (u : State) (p : Placed) (hx : 0 ≤ accessAddress l b)
      (ht : s.inTlb l.w.seat (accessAddress l b).toNat = true)
      (hp : checkAccess s l.w.seat (l.cap b.k) b.k.toNat (accessAddress l b) { perms := [pLOAD], n := 1 } = (u, .ok p))
      (hm : p.nc = false ∧ p.io = false) (hs : spaceOf (p.pas.headD 0) = .hbm ∨ spaceOf (p.pas.headD 0) = .cxl) :
      LaneAsks s l r (.pref h b) (if b.variant.getLsbD 0 then (u.weakRead l.w.seat.die false p.pas).1
        else (u.weakRead l.w.seat.die false p.pas).1.fillL1 l.w.core p.pas) none
  | prefUncached (h : Head) (b : MBody) (hx : accessAddress l b < 0 ∨ s.inTlb l.w.seat (accessAddress l b).toNat = false) :
      LaneAsks s l r (.pref h b) s none
  | prefFails (h : Head) (b : MBody)
      (hp : ∀ u p, checkAccess s l.w.seat (l.cap b.k) b.k.toNat (accessAddress l b) { perms := [pLOAD], n := 1 } = (u, .ok p) →
        p.nc = true ∨ p.io = true ∨ spaceOf (p.pas.headD 0) ≠ .hbm ∧ spaceOf (p.pas.headD 0) ≠ .cxl) :
      LaneAsks s l r (.pref h b) s none
  /-- BAR of a member of the barrier, `.sync` 0, `.arrive` 1 or `.wait` 2, the last only after an arrival (R267). -/
  | bar (h : Head) (b : IBody) (la : Launch) (th : Thread) (key : BarKey) (counted : Option Nat)
      (hp : l.w.prologue = false) (hl : s.launch? l.w.launch = some la) (ht : l.w.thread? l.tid = some th)
      (hk : key = ⟨l.w.launch, b.imm.toNat / 16 % 8, barInst (b.imm.toNat / 16 % 8) l.w.core, b.imm.toNat % 16⟩)
      (hm : (la.mask key.level key.num).getLsbD (l.tid / l.w.w) = true)
      (hc : counted = (th.counted.find? fun c => c.1 == key).map Prod.snd)
      (hw : b.variant.toNat % 4 = 2 → counted ≠ none) :
      LaneAsks s l r (.bar h b) s (some { r with
        op := .barrier key (counted.getD 0) (b.variant.toNat % 4 != 2) (b.variant.toNat % 4 != 1)
        order := if b.variant.toNat % 4 = 2 then 2 else 3
        scope := key.level
        obj := key.inst
        size := match counted with | some p => p + 1 | none => 0
        pred := if b.variant.toNat % 4 = 1 then 7 else b.variant.toNat / 4 % 8
        unresolved := true })
  /-- WREG of a thread without an explicit entry: an armed entry with the register's priority, at most the thread's own; or,
  where the table is full, none (R270, R260). -/
  | wreg (h : Head) (b : KBody) (u : State) (obj : Nat) (hn : NamesPlace s l b.ka u obj)
      (hw : ∀ e ∈ u.waits, e.kind = 11 → r.who ∉ e.waiters) (hf : ∀ e ∈ u.waits, e.batch ≠ r.id ∧ e.id ≠ u.nextId)
      (hr : u.tableUse (waitDie l) < 32768) :
      LaneAsks s l r (.wreg h b)
        { u with
          nextId := u.nextId + 1
          waits := u.waits ++ [entryOf u.nextId (waitDie l) 11 obj .armed r (heldBy (l.cap b.ka))
            (min ((l.reg b.a).toNat % 16) (u.basePrio r.who)) (some (walkAt u (waitDie l) 11 obj r (heldBy (l.cap b.ka))))] }
        (some { r with op := .result, batch := r.id, obj := obj, pred := b.variant.toNat % 8, auth := b.ka.toNat,
                       phase := .registering, unresolved := true })
  | wregFull (h : Head) (b : KBody) (u : State) (obj : Nat) (hn : NamesPlace s l b.ka u obj)
      (hw : ∀ e ∈ u.waits, e.kind = 11 → r.who ∉ e.waiters) (hf : ∀ e ∈ u.waits, e.batch ≠ r.id)
      (hr : 32768 ≤ u.tableUse (waitDie l)) :
      LaneAsks s l r (.wreg h b) (overflowed u (waitDie l) obj r.who)
        (some { r with op := .result, batch := r.id, obj := obj, pred := b.variant.toNat % 8, auth := b.ka.toNat,
                       phase := .done (({ r with pred := b.variant.toNat % 8 }).report false) none })
  /-- WDEREG frees the thread's explicit entry for the place (R270). -/
  | wdereg (h : Head) (b : KBody) (u : State) (obj : Nat) (hn : NamesPlace s l b.ka u obj) :
      LaneAsks s l r (.wdereg h b)
        { u with waits := u.waits.filter fun e => !(e.kind == 11 && e.obj == obj && e.waiters.contains r.who) } (some (atOnce r))
  /-- WHOLD declares thread a of the workgroup as the server of an endpoint, or with `.clr` none (R271). -/
  | wholdServer (h : Head) (b : KBody) (u : State) (obj : Nat) (hn : NamesPlace s l b.ka u obj) (he : (l.cap b.ka).otype = 2)
      (ha : b.variant.getLsbD 0 = true ∨ (l.reg b.a).toNat < l.w.w * l.w.g) :
      LaneAsks s l r (.whold h b) (u.poke (obj + 20) 4
        (if b.variant.getLsbD 0 then 0 else (u.identity (.thread l.w.id (l.reg b.a).toNat)).toNat)) (some (atOnce r))
  /-- WHOLD of another place: its declaration goes, changes, or is made while the table has room (R271). -/
  | wholdClear (h : Head) (b : KBody) (u : State) (obj : Nat) (hn : NamesPlace s l b.ka u obj) (he : (l.cap b.ka).otype ≠ 2)
      (hc : b.variant.getLsbD 0 = true) :
      LaneAsks s l r (.whold h b) { u with waits := u.waits.filter fun e => !(e.kind == 12 && e.obj == obj) } (some (atOnce r))
  | wholdAgain (h : Head) (b : KBody) (u : State) (obj : Nat) (e : WaitEntry) (hn : NamesPlace s l b.ka u obj)
      (he : (l.cap b.ka).otype ≠ 2) (hc : b.variant.getLsbD 0 = false) (ha : (l.reg b.a).toNat < l.w.w * l.w.g)
      (hd : (u.waits.find? fun e => e.kind == 12 && e.obj == obj) = some e) :
      LaneAsks s l r (.whold h b) (u.setWait { e with holders := .parties [.thread l.w.id (l.reg b.a).toNat], waiters := [r.who] })
        (some (atOnce r))
  | whold (h : Head) (b : KBody) (u : State) (obj : Nat) (hn : NamesPlace s l b.ka u obj)
      (he : (l.cap b.ka).otype ≠ 2) (hc : b.variant.getLsbD 0 = false) (ha : (l.reg b.a).toNat < l.w.w * l.w.g)
      (hd : ∀ e ∈ u.waits, e.kind = 12 → e.obj ≠ obj) (hf : ∀ e ∈ u.waits, e.id ≠ u.nextId)
      (hr : u.tableUse (waitDie l) < 32768) :
      LaneAsks s l r (.whold h b)
        { u with
          nextId := u.nextId + 1
          waits := u.waits ++ [entryOf u.nextId (waitDie l) 12 obj .declared r (.parties [.thread l.w.id (l.reg b.a).toNat]) 0 none] }
        (some (atOnce r))
  | wholdFull (h : Head) (b : KBody) (u : State) (obj : Nat) (hn : NamesPlace s l b.ka u obj)
      (he : (l.cap b.ka).otype ≠ 2) (hc : b.variant.getLsbD 0 = false) (ha : (l.reg b.a).toNat < l.w.w * l.w.g)
      (hd : ∀ e ∈ u.waits, e.kind = 12 → e.obj ≠ obj) (hr : 32768 ≤ u.tableUse (waitDie l)) :
      LaneAsks s l r (.whold h b) (overflowed u (waitDie l) obj r.who) (some (atOnce r))
  /-- TWAIT on an entry that is not FAULTED (R296). -/
  | twait (h : Head) (b : RBody) (ht : tState (l.w.tile b.a.toNat) ≠ tFAULTED) :
      LaneAsks s l r (.twait h b) s (some { r with
        op := .twait b.a.toNat (b.variant.getLsbD 3), obj := l.w.core, pred := b.variant.toNat % 8, unresolved := true })
  /-- SEND and CALLE through an endpoint of this package or of another (R272, R274). -/
  | send (h : Head) (b : SBody) (hk : Names s (l.cap b.ek) 2) (h0 : mayCarry l b.kx0) (h1 : mayCarry l b.kx1) :
      LaneAsks s l r (.send h b) (s.epScope (l.cap b.ek).objPa).2
        (some (messageOf r b (.send (laneMsg l b b.imm false r.who)) 3 (l.cap b.ek).objPa (s.epScope (l.cap b.ek).objPa).1))
  | calle (h : Head) (b : SBody) (hk : Names s (l.cap b.ek) 2) (h0 : mayCarry l b.kx0) (h1 : mayCarry l b.kx1) :
      LaneAsks s l r (.calle h b) (s.epScope (l.cap b.ek).objPa).2
        (some (messageOf r b (.send (laneMsg l b b.imm true r.who)) 3 (l.cap b.ek).objPa (s.epScope (l.cap b.ek).objPa).1))
  | sendAway (h : Head) (b : SBody) (hv : (l.cap b.ek).valid = true) (hr : (l.cap b.ek).remote = true)
      (hi : (l.cap b.ek).has pINVOKE = true) (h0 : mayCarry l b.kx0) (h1 : mayCarry l b.kx1) :
      LaneAsks s l r (.send h b) s (some { messageOf r b (.send (laneMsg l b b.imm false r.who)) 3 0 4 with
        remote := some (l.cap b.ek), chans := [.fabric ((l.cap b.ek).otype.extractLsb' 0 9).toNat] })
  | calleAway (h : Head) (b : SBody) (hv : (l.cap b.ek).valid = true) (hr : (l.cap b.ek).remote = true)
      (hi : (l.cap b.ek).has pINVOKE = true) (h0 : mayCarry l b.kx0) (h1 : mayCarry l b.kx1) :
      LaneAsks s l r (.calle h b) s (some { messageOf r b (.send (laneMsg l b b.imm true r.who)) 3 0 4 with
        remote := some (l.cap b.ek), chans := [.fabric ((l.cap b.ek).otype.extractLsb' 0 9).toNat] })
  /-- RECV of an endpoint, NWAIT and NSIG of a notification (R274, R276). -/
  | recv (h : Head) (b : SBody) (hk : Names s (l.cap b.ek) 2) :
      LaneAsks s l r (.recv h b) (s.epScope (l.cap b.ek).objPa).2
        (some (messageOf r b (.recv b.count.toNat b.kx0.toNat b.kx1.toNat) 2 (l.cap b.ek).objPa (s.epScope (l.cap b.ek).objPa).1))
  | nwait (h : Head) (b : SBody) (hk : Names s (l.cap b.ek) 3) :
      LaneAsks s l r (.nwait h b) (s.noteScope (l.cap b.ek).objPa).2
        (some (messageOf r b (.nwait (b.imm.zeroExtend 32)) 2 (l.cap b.ek).objPa (s.noteScope (l.cap b.ek).objPa).1))
  | nsig (h : Head) (b : SBody) (hk : Names s (l.cap b.ek) 3) :
      LaneAsks s l r (.nsig h b) (s.noteScope (l.cap b.ek).objPa).2
        (some (messageOf r b (.nsig (if b.count = 1 then l.reg b.v else b.imm.zeroExtend 32)) 3 (l.cap b.ek).objPa
          (s.noteScope (l.cap b.ek).objPa).1))
  /-- REPLY of a thread that owes one: its slot empties, and it releases at the scope of the call's endpoint (R274, R275,
  R123); where the slot keeps no endpoint of this package, at the widest (the model's choice, log 78). -/
  | reply (h : Head) (b : SBody) (w : Workgroup) (th : Thread) (caller : Party) (obj : Nat) (hw : s.wg? l.w.id = some w)
      (ht : w.thread? l.tid = some th) (hs : th.slot = some caller) (ho : s.callEndpoint caller = some obj)
      (h0 : mayCarry l b.kx0) (h1 : mayCarry l b.kx1) :
      LaneAsks s l r (.reply h b) ((s.epScope obj).2.setOwed r.who none)
        (some (messageOf r b (.reply caller (laneMsg l b 0 false r.who)) 3 obj (s.epScope obj).1))
  | replyAway (h : Head) (b : SBody) (w : Workgroup) (th : Thread) (caller : Party) (hw : s.wg? l.w.id = some w)
      (ht : w.thread? l.tid = some th) (hs : th.slot = some caller) (ho : s.callEndpoint caller = none)
      (h0 : mayCarry l b.kx0) (h1 : mayCarry l b.kx1) :
      LaneAsks s l r (.reply h b) (s.setOwed r.who none)
        (some { messageOf r b (.reply caller (laneMsg l b 0 false r.who)) 3 0 4 with chans := [] })
  /-- LAUNCH on a queue, of a record that may be read (R335). -/
  | launch (h : Head) (b : KBody) (u : State) (p : Placed) (hq : Names s (l.cap b.ka) 7)
      (hp : checkAccess s l.w.seat (l.cap b.kb) b.kb.toNat (l.cap b.kb).cursor.toNat { perms := [pLOAD], n := 256, align := 64 }
        = (u, .ok p))
      (hk : (l.cap b.kb).has pLOADK = true) :
      LaneAsks s l r (.launch h b) (u.openQueue (l.cap b.ka).objPa).2 (some { r with
        op := .launch, unresolved := true, obj := (l.cap b.ka).objPa, x := (l.cap b.kb).cursor.toNat, pas := p.pas, size := 256,
        order := 3, scope := (u.openQueue (l.cap b.ka).objPa).1.scope, strong := p.nc || p.io, cw := p.cw, via := p.via, auth := b.kb.toNat })
  /-- SPAWN in a launch of range tasks, of an executable entry and a range, with operand words or without (R328). -/
  | spawn (h : Head) (b : KBody) (la : Launch) (u : State) (pas : List Nat) (hl : s.launch? l.w.launch = some la)
      (hf : la.flags.getLsbD 1 = true) (hv : (l.cap b.ka).valid = true) (hr : (l.cap b.ka).remote = false)
      (ho : (l.cap b.ka).otype = 1) (hx : (l.cap b.ka).has pEXEC = true)
      (hw : b.variant.toNat % 8 = 0 ∧ u = s ∧ pas = [] ∨ b.variant.toNat % 8 ≠ 0 ∧ ∃ p, p.pas = pas
        ∧ checkAccess s l.w.seat (l.cap b.kb) b.kb.toNat (l.cap b.kb).cursor.toNat
            { perms := [pLOAD], n := 8 * (b.variant.toNat % 8), align := 8, need := { fe := true } } = (u, .ok p))
      (hlt : (l.regN b.a.toNat).toNat < (l.regN (b.a.toNat + 1)).toNat) :
      LaneAsks s l r (.spawn h b) u (some { r with
        op := .spawn (l.cap b.ka) (l.cap b.kb) (l.regN b.a.toNat).toNat (l.regN (b.a.toNat + 1)).toNat
        pas := pas, order := 3, scope := 3, unresolved := true })
  | spawnNothing (h : Head) (b : KBody) (la : Launch) (u : State) (pas : List Nat) (hl : s.launch? l.w.launch = some la)
      (hf : la.flags.getLsbD 1 = true) (hv : (l.cap b.ka).valid = true) (hr : (l.cap b.ka).remote = false)
      (ho : (l.cap b.ka).otype = 1) (hx : (l.cap b.ka).has pEXEC = true)
      (hw : b.variant.toNat % 8 = 0 ∧ u = s ∧ pas = [] ∨ b.variant.toNat % 8 ≠ 0 ∧ ∃ p, p.pas = pas
        ∧ checkAccess s l.w.seat (l.cap b.kb) b.kb.toNat (l.cap b.kb).cursor.toNat
            { perms := [pLOAD], n := 8 * (b.variant.toNat % 8), align := 8, need := { fe := true } } = (u, .ok p))
      (heq : (l.regN b.a.toNat).toNat = (l.regN (b.a.toNat + 1)).toNat) :
      LaneAsks s l r (.spawn h b) u (some (atOnce r))
  /-- REGGIVE and REGCLAIM between two roles, within 8 and 192 registers (R334). -/
  | reggive (h : Head) (b : IBody) (hr : b.imm.toNat / 256 % 16 ≠ l.w.role (l.tid / l.w.w))
      (hn : b.imm.toNat % 256 + 8 ≤ s.budgetOf l) :
      LaneAsks s l r (.reggive h b) s (some { r with op := .budget true (b.imm.toNat / 256 % 16) (b.imm.toNat % 256) })
  | regclaim (h : Head) (b : IBody) (hr : b.imm.toNat / 256 % 16 ≠ l.w.role (l.tid / l.w.w))
      (hn : s.budgetOf l + b.imm.toNat % 256 ≤ 192) :
      LaneAsks s l r (.regclaim h b) s (some { r with op := .budget false (b.imm.toNat / 256 % 16) (b.imm.toNat % 256) })
  /-- PDIM in a prologue: a dimension of its scheduled launch, or the count of another (R403). -/
  | pdim (h : Head) (b : IBody) (la : Launch) (hp : l.w.prologue = true) (hl : s.launch? l.w.launch = some la)
      (hs : la.schedule.isNull = false) :
      LaneAsks s l r (.pdim h b) (s.setLaunch { la with dims := la.dims.set (b.imm.toNat % 4) (l.reg b.a).toNat }) (some (atOnce r))
  | pdimCount (h : Head) (b : IBody) (la : Launch) (hp : l.w.prologue = true) (hl : s.launch? l.w.launch = some la)
      (hs : la.schedule.isNull = true) (hk : b.imm.toNat % 4 = 0) :
      LaneAsks s l r (.pdim h b) (s.setLaunch { la with count := (l.reg b.a).toNat }) (some (atOnce r))
  /-- PREPEAT in a prologue (R403). -/
  | prepeat (h : Head) (b : RBody) (la : Launch) (hp : l.w.prologue = true) (hl : s.launch? l.w.launch = some la) :
      LaneAsks s l r (.prepeat h b) (s.setLaunch { la with repeats := true }) (some (atOnce r))

/-- The head of an instruction that sends one request for each lane. -/
def sendingHead : Instr → Option Head
  | .fence h _ => some h
  | .flush h _ => some h
  | .inval h _ => some h
  | .pref h _ => some h
  | .bar h _ => some h
  | .wreg h _ => some h
  | .wdereg h _ => some h
  | .whold h _ => some h
  | .twait h _ => some h
  | .send h _ => some h
  | .calle h _ => some h
  | .recv h _ => some h
  | .reply h _ => some h
  | .nsig h _ => some h
  | .nwait h _ => some h
  | .launch h _ => some h
  | .spawn h _ => some h
  | .reggive h _ => some h
  | .regclaim h _ => some h
  | .pdim h _ => some h
  | .prepeat h _ => some h
  | _ => none

/-- From state `s`, every lane asks with instruction `i` in ascending position, each in the state that the one before has
left: the requests sent, with their threads, and the state at the end. -/
def AllAsk (i : Instr) (c : IssueCtx) (batch : Nat) : List Lane → Bool → State → List (Nat × Request) → State → Prop
  | [], _, s, rs, t => rs = [] ∧ t = s
  | l :: ls, lowest, s, rs, t =>
    ∃ u o, LaneAsks s.newId.2 l (baseRequest c l s.nextId batch lowest) i u o ∧
      match o with
      | none => AllAsk i c batch ls lowest u rs t
      | some r => ∃ rest, rs = (l.tid, r) :: rest ∧ AllAsk i c batch ls false (u.sendReq r) rest t

/-- From state `s`, every lane makes its request without a fault, in ascending position, each in the state that the one
before has left: the requests sent, with their threads, and the state at the end. PREF's lanes send none. -/
def Sends (f : LaneRequest) (c : IssueCtx) (batch : Nat) : List Lane → Bool → State → List (Nat × Request) → State → Prop
  | [], _, s, rs, t => rs = [] ∧ t = s
  | l :: ls, lowest, s, rs, t =>
    ∃ s1 o, f s.newId.2 c l (baseRequest c l s.nextId batch lowest) = (s1, .ok o) ∧
      match o with
      | none => Sends f c batch ls lowest s1 rs t
      | some r => ∃ rest, rs = (l.tid, r) :: rest ∧ Sends f c batch ls false (s1.sendReq r) rest t

/-- Sets the wait tag of the threads that have sent a request. -/
def taggedBy (t : State) (w : Workgroup) (h : Head) (rs : List (Nat × Request)) : State :=
  if rs.isEmpty then t else t.modWg w.id fun x => rs.foldl (fun x r => x.setTag r.1 h.talloc.toNat true) x

/-! Tile instructions act once, with the operands of the lowest active lane. -/

/-- The entry that TDEF writes (R294, Table 12.1): READY, with every row and column valid. -/
def tdefEntry (line rows cols fmt swz : Nat) : DWord :=
  BitVec.ofNat 64 (tREADY * 2 ^ 61 + cols * 2 ^ 47 + rows * 2 ^ 38 + swz * 2 ^ 34 + fmt * 2 ^ 30 + cols * 2 ^ 21 + rows * 2 ^ 12 + line)

/-- What a tile instruction does in state `s` with the operands of lane `l`, where it does not fault: the new state, and
what each lane has written. -/
inductive TileActs (s : State) (l : Lane) : Instr → Head → State → (Lane → List Wr) → Prop
  | tdef (h : Head) (b : RBody) (off rows cols : Nat)
      (hoff : (l.reg b.a).toNat = off) (hrows : (l.reg b.b).toNat % 65536 = rows) (hcols : (l.reg b.b).toNat / 65536 = cols)
      (hclean : (l.w.reg l.tid b.a.toNat).poison = false ∧ (l.w.reg l.tid b.b.toNat).poison = false)
      (hstate : tState (l.w.tile b.d.toNat) = tEMPTY
        ∨ tState (l.w.tile b.d.toNat) = tREADY ∧ tReaders (l.w.tile b.d.toNat) = 0)
      (hshape : 1 ≤ rows ∧ rows ≤ 256 ∧ 1 ≤ cols ∧ cols ≤ 256 ∧ off % 128 = 0
        ∧ off + footprint rows cols (b.variant.toNat % 16) ≤ l.w.scrLen) :
      TileActs s l (.tdef h b) h
        (s.putTile l.w.id b.d.toNat (tdefEntry (off / 128) rows cols (b.variant.toNat % 16) (b.variant.toNat / 16 % 16)))
        (fun _ => [])
  | tstat (h : Head) (b : RBody) :
      TileActs s l (.tstat h b) h s fun x => [wrByte x.tid b.d.toNat (BitVec.ofNat 32
        (tVcols (l.w.tile b.a.toNat) * 2 ^ 17 + tVrows (l.w.tile b.a.toNat) * 2 ^ 8
          + tReaders (l.w.tile b.a.toNat) * 2 ^ 3 + tState (l.w.tile b.a.toNat)))]
  | trelReady (h : Head) (b : RBody) (hs : tState (l.w.tile b.a.toNat) = tREADY) :
      TileActs s l (.trel h b) h
        (s.putTile l.w.id b.a.toNat (setState (l.w.tile b.a.toNat)
          (if tReaders (l.w.tile b.a.toNat) = 0 then tEMPTY else tDRAINING))) fun _ => []
  | trelOther (h : Head) (b : RBody) (hs : tState (l.w.tile b.a.toNat) = tEMPTY ∨ tState (l.w.tile b.a.toNat) = tDRAINING) :
      TileActs s l (.trel h b) h (s.putTile l.w.id b.a.toNat (l.w.tile b.a.toNat)) fun _ => []
  | gang (h : Head) (b : IBody) (he : (l.w.latch (b.imm.toNat / 65536 % 4)).arrivals = []) :
      TileActs s l (.gang h b) h
        (s.modWg l.w.id fun w => { w with gangs := w.gangs.set (b.imm.toNat / 65536 % 4 - 1) (b.imm.extractLsb' 0 16) }) fun _ => []

/-! Gang instructions. -/

/-- What a gang instruction reads at issue: whether it names a tensor register, and its descriptor or origin registers. -/
def gangRow : Instr → Option (Head × XBody × GangNeeds)
  | .copy h b => some (h, b, ⟨some b.tk, b.acc.toNat % 256, 4⟩)
  | .copym h b => some (h, b, ⟨some b.tk, b.acc.toNat % 256, 5⟩)
  | .mma h b => some (h, b, ⟨if b.op.getLsbD 0 then some b.tk else none, 0, 0⟩)
  | .mmak h b => some (h, b, ⟨some b.tk, 0, 0⟩)
  | .scacc h b => some (h, b, ⟨none, 0, 0⟩)
  | .aclr h b => some (h, b, ⟨none, 0, 0⟩)
  | .ainit h b => some (h, b, ⟨none, 0, 0⟩)
  | .adrain h b => some (h, b, if b.op.getLsbD 0 then ⟨some b.tk, b.ta.toNat, 3⟩ else ⟨none, 0, 0⟩)
  | _ => none

/-- A lane may arrive at the latch of gang register `gang` with a form that needs `n` (R37, R40, R287, R307): its home group
is listed, every listed one has a live thread, its tensor register names a live record, and the descriptor registers lie
within the allocation, without poison in the lane that supplies them. gang0 names the issuing group alone. -/
structure MayArrive (s : State) (w : Workgroup) (gang : Nat) (n : GangNeeds) (l : Lane) (first : Prop) : Prop where
  live : s.alive (.thread w.id l.tid) = true
  listed : gang ≠ 0 → l.tid / w.w ∈ w.gangGroups gang
  others : gang ≠ 0 → ∀ h ∈ w.gangGroups gang, w.liveOf h ≠ []
  record : ∀ k ∈ n.tk, Names s (l.cap k) 9
  inside : n.count ≠ 0 → 0xC0 ≤ n.first ∧ n.first + n.count ≤ 256
    ∨ n.first + n.count ≤ 0xC0 ∧ ∀ th, w.thread? l.tid = some th → n.first + n.count ≤ th.v.length
  clean : (if gang = 0 then first else ((w.liveOf (l.tid / w.w)).head?.map Thread.tid) = some l.tid) → ∀ j < n.count,
    (l.w.reg l.tid (n.first + j)).poison = false

/-- The arrivals of some lanes, whose requests have the numbers from `id` on (R38). -/
def arrivalsOf (g : Group) (word : BitVec 80) (n : GangNeeds) (id : Nat) (lanes : List Lane) : List Arrival :=
  lanes.zipIdx.map fun (l, j) =>
    { tid := l.tid
      grp := g.id
      word := word
      pc := g.pc
      slice := (List.range n.count).map fun i => l.regN (n.first + i)
      kreg := match n.tk with
        | some k => l.cap k
        | none => .null
      req := id + j }

/-- Request and batch numbers from the next one on are free. -/
def FreshNames (s : State) : Prop := ∀ q ∈ s.reqs, q.id < s.nextId ∧ q.batch < s.nextId

/-! Schedule instructions act once (R320). -/

/-- The registers that the lowest active lane consumes, whether the block must be schedule-safe, and the request. -/
structure OnceRow where
  h : Head
  use : List Reg
  safe : Bool
  k : BitVec 4
  need : Option Nat
  act : Lane → SchedAct
  data : Nat
  order : BitVec 2
  scope : Nat

def scheduleRow : Instr → Option OnceRow
  | .pclaim h b => if b.variant.getLsbD 0 then none
    else some ⟨h, [.k b.k.toNat], true, b.k, none, fun _ => .claim, b.data.toNat, 0, 0⟩
  | .pdone h b => some ⟨h, .k b.k.toNat :: rrun b.data.toNat 5, false, b.k, none,
      fun l => .mark ((List.range 5).map fun i => l.regN (b.data.toNat + i)), 0, 3, 2⟩
  | .schrd h b => some ⟨h, [.k b.ka.toNat], true, b.ka, some pLOAD, fun _ => .rd (b.imm.toNat % 16), b.a.toNat, 0, 0⟩
  | .schwr h b => some ⟨h, [.k b.ka.toNat, .byte b.a.toNat], false, b.ka, some pSTORE,
      fun l => .wr (b.imm.toNat % 16) (l.reg b.a), 0, 0, 0⟩
  | .covrd h b => some ⟨h, [.k b.ka.toNat], false, b.ka, some pLOAD, fun _ => .cov (b.imm.toNat % 65536), b.a.toNat, 2, 2⟩
  | _ => none

/-- The request of the lowest active lane. -/
def onceRequest (r : OnceRow) (c : IssueCtx) (l : Lane) (id batch : Nat) : Request :=
  { baseRequest c l id batch true with
    op := .sched (r.act l), obj := (l.cap r.k).objPa, data := r.data, auth := r.k.toNat, order := r.order, scope := r.scope,
    unresolved := true }

/-! Transfers. -/

/-- pcc with its cursor alone moved (R59, R189), and where that leads. -/
def moved (l : Lane) (x : Int) (link : List Wr) (taken : Bool) : Move := ⟨l, l.pcc.moveTo x, BitVec.ofInt 64 x, link, taken⟩

/-- Through a capability register that holds a valid, executable code capability or entry (R191). -/
def throughCap (l : Lane) (k : BitVec 4) (link : List Wr) : Option Move :=
  if (l.cap k).valid && ((l.cap k).otype == 0 || (l.cap k).otype == 1) && (l.cap k).has pEXEC then
    some ⟨l, { l.cap k with otype := 0 }, (l.cap k).cursor, link, true⟩
  else none

/-- The span 128 bytes after that of `pc`, or `target` spans away (R189). -/
def spanAfter (pc : DWord) (target : Int) : Int := ((pc.toNat / 128 * 128 : Nat) : Int) + 128 * target

/-- Where a thread that takes a transfer goes (R192-R197). -/
def transferRow (pc : DWord) : Instr → Option (Head × (Lane → Option Move))
  | .bra h b => some (h, fun l => some (moved l (spanAfter pc b.target.toInt) [] true))
  | .br h b => some (h, fun l => some (moved l (spanAfter pc b.target.toInt) [] true))
  | .reform h b => some (h, fun l => some (moved l (spanAfter pc b.target.toInt) [] true))
  | .brx h b => some (h, fun l => throughCap l b.k [])
  | .ret h b => some (h, fun l => throughCap l b.k [])
  | .call h b => some (h, fun l =>
      if b.variant.getLsbD 4 then throughCap l b.k [.k l.tid (b.variant.toNat % 16) (l.pcc.moveTo (spanAfter pc 1)) false]
      else some (moved l (spanAfter pc b.target.toInt) [.k l.tid (b.variant.toNat % 16) (l.pcc.moveTo (spanAfter pc 1)) false] true))
  | _ => none

/-- Where a thread goes: the row's way where its guard holds, to the next span elsewhere (R188, R190). -/
def goes (h : Head) (pc : DWord) (f : Lane → Option Move) (l : Lane) : Option Move :=
  if guardOf h l.w l.tid then f l else some (moved l (spanAfter pc 1) [] false)

def isReform : Instr → Bool
  | .reform .. => true
  | _ => false

/-- Whether the group may stay whole: one destination, and of REFORM that nobody takes it or the group holds exactly the
live threads of one home group (R190, R197). -/
def StaysWhole (w : Workgroup) (i : Instr) (ms : List Move) : Prop :=
  (∀ m ∈ ms, ∀ m' ∈ ms, m.dest = m'.dest)
    ∧ (isReform i = true → (∀ m ∈ ms, m.taken = false) ∨ oneHome w (ms.map fun m => m.lane.tid) = true)

/-- The pcc that the moves give a thread. -/
def pccAfter (ms : List Move) (tid : Nat) (th : Thread) : Cap :=
  (((ms.filter fun m => m.lane.tid == tid).getLast?).map Move.pcc).getD th.pcc

/-- What issuing a transfer leaves alone: everything but the workgroups and the clocks, and every register of the group's
own workgroup; every member's pcc is the one that its move gives, and its link is on its way. -/
structure Moves (s t : State) (w : Workgroup) (g : Group) (i : Instr) (h : Head) (ms : List Move) : Prop where
  rest : t = { s with wgs := t.wgs, cores := t.cores }
  own : ∃ w', t.wg? w.id = some w' ∧ w'.s = w.s ∧ w'.fpflags = w.fpflags
    ∧ ∀ tid th, w.thread? tid = some th → ∃ th', w'.thread? tid = some th' ∧ th'.pcc = pccAfter ms tid th
      ∧ th'.v = th.v ∧ th'.k = th.k ∧ th'.p = th.p
  links : ∀ m ∈ ms, ∀ x ∈ m.link, OnItsWay w t x [x] [] (lastChunk s w g i h + 1)

/-- The site of an instruction that faults where it issues (R416). -/
def siteOf (g : Group) : Site := ⟨g.pc, (nextPc g).1, (nextPc g).2, .instr⟩

/-! Ending and faulting. -/

/-- Every active lane's thread stands, has not ended, and owes nobody a reply; no rendezvous of its workgroup is incomplete and
no Hall event waits for room. -/
structure EndsAlone (s : State) (w : Workgroup) (lanes : List Lane) : Prop where
  events : s.hallEvents = []
  latches : w.latches = []
  few : lanes.length ≤ 64
  threads : ∀ l ∈ lanes, ∃ th, w.thread? l.tid = some th ∧ th.status ≠ .ended ∧ th.slot = none

/-- The lanes' threads are the last live ones of their running workgroup, of which no bin, no pre-emption and no engine operation
is left (R44, R45). -/
structure LastOfAll (s : State) (w : Workgroup) (lanes : List Lane) : Prop where
  running : w.life = .running
  last : ∀ th ∈ w.threads, th.live = true → ∃ l ∈ lanes, l.tid = th.tid
  stays : s.swapPending w = false
  drained : s.drained w = true
  bins : ∀ b ∈ s.bins, b.wg ≠ w.id

/-- In `t` the lanes' threads have ended and nothing else of the program's state has changed: memory, the registers of their
workgroup, every other workgroup. A workgroup that has no live thread left retires, and with a prologue its launch's prologue
has ended (R33, R44, R401). -/
structure Ends (s t : State) (w : Workgroup) (lanes : List Lane) : Prop where
  mem : t.mem = s.mem ∧ t.tags = s.tags
  ended : ∀ w' th', t.wg? w.id = some w' → ∀ l ∈ lanes, w'.thread? l.tid = some th' → th'.status = .ended
  registers : ∀ w', t.wg? w.id = some w' → ∀ tid n, w'.reg tid n = w.reg tid n ∧ w'.kreg tid n = w.kreg tid n
    ∧ w'.preg tid n = w.preg tid n
  others : ∀ id, id ≠ w.id → (t.wg? id).map keptOther = (s.wg? id).map keptOther
  retired : LastOfAll s w lanes → t.wg? w.id = none
    ∧ (w.prologue = true → ∀ la, s.launch? w.launch = some la → ∃ la', t.launch? w.launch = some la' ∧ la'.state = .prologueEnded)

/-- The lanes' threads may report a fault (R416): each stands, has not ended, and its k6 names the endpoint at `pa`, where no
receiver waits and to which no notification is bound; the wait-for table has room for them. -/
structure MayReport (s : State) (w : Workgroup) (lanes : List Lane) (pa : Nat) : Prop where
  prologue : w.prologue = false
  events : s.hallEvents = []
  few : lanes.length ≤ 64
  threads : ∀ l ∈ lanes, ∃ th, w.thread? l.tid = some th ∧ th.status ≠ .ended
  endpoint : ∀ l ∈ lanes, Names s (w.kreg l.tid 6).cap 2 ∧ (w.kreg l.tid 6).cap.objPa = pa
  receivers : s.epReceivers pa = []
  unbound : s.peek (pa + 24) 8 = 0
  table : s.tableUse (dieOfCore w.core % 4) + 64 ≤ 32768

/-- In `t` every lane's thread is held where its group's instruction stands, with the code `code`, and its message is a call to
the endpoint at `pa`, waiting there or on its way behind what its release waits for; every register of every thread stays (R32, R416). -/
structure Held (s t : State) (w : Workgroup) (g : Group) (lanes : List Lane) (code : BitVec 8) (pa : Nat) : Prop where
  registers : RegistersKept s t
  held : ∀ l ∈ lanes, ∃ w' th', t.wg? w.id = some w' ∧ w'.thread? l.tid = some th'
    ∧ th'.status = .held ⟨.instr, g.pc, (nextPc g).1, (nextPc g).2, code, none, none⟩
  calls : ∀ l ∈ lanes, ∃ q ∈ t.reqs, q.who = .thread w.id l.tid ∧ q.faultCall = true ∧ q.obj = pa
    ∧ (q.phase = .waiting ∨ q.phase = .sent ∨ ∃ cs, q.phase = .releasing cs)

/-- In `t` every lane's thread has taken the fault: it is held and reports, or, in a prologue, the launch keeps that its
prologue has faulted (R402). -/
structure Faulted (s t : State) (w : Workgroup) (g : Group) (lanes : List Lane) (code : BitVec 8) : Prop where
  held : ∀ pa, MayReport s w lanes pa → Held s t w g lanes code pa
  prologue : w.prologue = true → (∃ l ∈ lanes, ∃ th, w.thread? l.tid = some th ∧ th.status ≠ .ended) →
    ∀ la, s.launch? w.launch = some la → ∃ la', t.launch? w.launch = some la' ∧ la'.prologueFault = true

/-! Requests at their execution points. -/

/-- A set of locations in its one form: rising from `lo`. -/
def risingFrom : Nat → List Nat → Bool
  | _, [] => true
  | lo, a :: r => decide (lo ≤ a) && risingFrom (a + 1) r

/-- The memory's canonical form: bytes, tags, summary, full/empty bits and poison each listed in rising order, once, and
no byte that an unlisted address reads as. -/
structure Canonical (s : State) : Prop where
  mem : Memory.wf s.mem = true
  tags : risingFrom 0 s.tags = true
  summary : risingFrom 0 s.summary = true
  fe : risingFrom 0 s.fe = true
  poison : risingFrom 0 s.poison = true

/-- No LOCK and no MWAIT waits, so that none looks at its word when writes have been performed (spec/11 R268, R269). -/
def NoPolls (s : State) : Prop :=
  ∀ q ∈ s.reqs, q.phase = .waiting ∨ q.phase = .registering → q.op ≠ .lock ∧ ∀ eq x, q.op ≠ .monitor eq x

/-- Request `r` is the one that ACCESS_AT_EXECUTION_POINT names; it may be performed now, in this package, its addresses are
no device's and lie at its own die's home or in uncached spaces, it has no release or package-wide acquire steps, no Hall
event waits for room, and no LOCK or MWAIT looks. -/
structure AtPoint (s : State) (r : Request) : Prop where
  named : s.req? s.ev.who = some r
  may : s.mayPerform r = true
  here : r.remote = none
  ours : ∀ pkg req, r.who ≠ .remote pkg req
  home : ∀ a ∈ r.obj :: r.pas, remoteHome (dieOfCore r.core) a = false
  inside : ∀ a ∈ r.obj :: r.pas, isOutside [a] = false
  noRelease : r.releases = false
  noAcquire : r.order = 2 → r.scope < 3
  events : s.hallEvents = []
  noPolls : NoPolls s

/-- An access that is strong by its order or its page (R105, R93), and one that is performed in two halves of 8 bytes, the
lower first (R105). -/
def strongAccess (r : Request) : Prop := r.order ≠ 0 ∨ r.io = true
def inHalves (r : Request) : Prop := strongAccess r ∧ r.size = 16

/-- The same of a request that may have release steps to make, a package-wide acquire, and lines of other dies' homes to reach. -/
structure Performable (s : State) (r : Request) : Prop where
  named : s.req? s.ev.who = some r
  may : s.mayPerform r = true
  here : r.remote = none
  ours : ∀ pkg req, r.who ≠ .remote pkg req
  inside : ∀ a ∈ r.obj :: r.pas, isOutside [a] = false
  events : s.hallEvents = []
  noPolls : NoPolls s

/-- The bytes of an access that are next: all of them, or of one in halves the lower eight and then the others (R105). -/
def nextBytes (r : Request) : List Nat :=
  match r.phase with
  | .half _ => r.pas.drop 8
  | _ => if r.isStrong && r.size == 16 then r.pas.take 8 else r.pas

/-- The state in which a strong access acts (R100, R118): its release has written back the die's copies, if its scope is the
package or wider, and the die's copies of its own lines have gone home. -/
def atHome (s : State) (r : Request) : State := (s.releaseFor r).beforeStrong (dieOfCore r.core) (nextBytes r)

/-- The request has met poison: its thread will fault POISON (spec/10 R257). -/
def poisoned (r : Request) : Request :=
  { r with phase := .failed 0x41 (BitVec.ofNat 64 r.x) (BitVec.ofNat 32 r.auth) 0 0 }

/-- The bytes at some addresses with their poison. -/
def bytesAt (s : State) (pas : List Nat) : List (Byte × Bool) := pas.map fun a => (s.byteAt a, s.poisonAt a)

/-- A request that has been served: it holds its register writes. -/
def served (r : Request) (ws : List Wr) : Request := { r with phase := .done ws none, unresolved := false }

/-- The byte that a list of writes leaves at an address: the last of its writes. -/
def lastByte (ws : List (Nat × Byte)) (a : Nat) : Option Byte := ((ws.filter fun w => w.1 == a).getLast?).map Prod.snd

/-- Memory in `t` is that in `s` but for these bytes; the tags of the granules they touch are cleared. -/
structure Stored (s t : State) (ws : List (Nat × Byte)) : Prop where
  bytes : ∀ a, t.byteAt a = (lastByte ws a).getD (s.byteAt a)
  tags : ∀ a, t.tagAt a = (s.tagAt a && !(ws.any fun w => w.1 / 16 == a / 16))
  fe : t.fe = s.fe
  copies : t.copies = s.copies

/-- The same, and then the acquire of the completed request (R119): at `.pkg` or wider its die keeps no copy, and what was dirty
in one is in memory. -/
structure Performed (s t : State) (r : Request) (ws : List (Nat × Byte)) : Prop where
  near : (r.order = 2 ∧ 3 ≤ r.scope ∧ ∃ wg tid, r.who = .thread wg tid) ∨ Stored s t ws
  far : r.order = 2 → 3 ≤ r.scope → (∃ wg tid, r.who = .thread wg tid) →
    (∃ u, Stored s u ws ∧ ∀ a, t.byteAt a = (u.invalidateDie (dieOfCore r.core)).byteAt a)
    ∧ ∀ l, t.copy? (dieOfCore r.core) l = none

/-- What a weak read by die d finds at a remote-home address, with its poison: the die's copy where it holds every byte that the
access reads of that line; else the line is fetched, and its dirty bytes alone are the die's (R99, R112, R128). -/
def seenBy (s : State) (d : Nat) (pas : List Nat) (a : Nat) : Byte × Bool :=
  match s.copy? d (a / 128) with
  | none => (s.byteAt a, s.poisonAt a)
  | some c =>
    let own := c.poison.getLsbD (a % 128 / 16)
    if (pas.filter fun x => x / 128 == a / 128).all fun x => c.valid.getLsbD (x % 128) then (c.byte (a % 128), own)
    else
      let mask := c.dirty.extractLsb' (a % 128 / 16 * 16) 16
      (if c.dirty.getLsbD (a % 128) then c.byte (a % 128) else s.byteAt a,
        (mask != 0xFFFF && s.poisonAt a) || (mask != 0 && own))

/-- After a weak store by die d of bytes `ws` whose homes are other dies' (R99): memory is as before; the die's copies hold the
bytes, valid and dirty, and nothing else of any copy changes its byte, valid or dirty bit. -/
structure StoredInCopies (s t : State) (d : Nat) (ws : List (Nat × Byte)) : Prop where
  home : t.mem = s.mem ∧ t.tags = s.tags ∧ t.poison = s.poison
  new : ∀ a x, lastByte ws a = some x → ∃ c, t.copy? d (a / 128) = some c ∧ c.byte (a % 128) = x
    ∧ c.valid.getLsbD (a % 128) = true ∧ c.dirty.getLsbD (a % 128) = true
  old : ∀ a c, lastByte ws a = none → s.copy? d (a / 128) = some c → ∃ c', t.copy? d (a / 128) = some c'
    ∧ c'.byte (a % 128) = c.byte (a % 128) ∧ c'.valid.getLsbD (a % 128) = c.valid.getLsbD (a % 128)
    ∧ c'.dirty.getLsbD (a % 128) = c.dirty.getLsbD (a % 128)
  others : ∀ d' l, d' ≠ d → t.copy? d' l = s.copy? d' l

/-- Table 10.5 on n-bit contents: what is stored, if anything. -/
def atomTable (u : Bool) (n : Nat) : AtomOp → Nat → Nat → Nat → Option Nat
  | .add, old, a, _ => some ((old + a) % 2 ^ n)
  | .addF32, old, a, _ => some (addF32 old a)
  | .min, old, a, _ => some (if u then min old a else ((min (asSigned n old) (asSigned n a)) % 2 ^ n).toNat)
  | .max, old, a, _ => some (if u then max old a else ((max (asSigned n old) (asSigned n a)) % 2 ^ n).toNat)
  | .and, old, a, _ => some (old &&& a)
  | .or, old, a, _ => some (old ||| a)
  | .xor, old, a, _ => some (old ^^^ a)
  | .xchg, _, a, _ => some a
  | .cas, old, a, b => if old = a then some b else none
  | .incw, old, a, _ => some (if a ≤ old then 0 else old + 1)
  | .bfadd, old, a, b => if old + a ≤ b then some (old + a) else none

/-! Replies. -/

/-- The registers of workgroup `wg` in `t` are those of `s` after the writes, and the thread's wait tag is complete. -/
structure Replied (s t : State) (wg tid tag : Nat) (ws : List Wr) : Prop where
  registers : ∀ w, s.wg? wg = some w → ∃ w', t.wg? wg = some w' ∧ w'.fpflags = (ws.foldl Workgroup.land w).fpflags
    ∧ ∀ x n, w'.reg x n = (ws.foldl Workgroup.land w).reg x n ∧ w'.kreg x n = (ws.foldl Workgroup.land w).kreg x n
      ∧ w'.preg x n = (ws.foldl Workgroup.land w).preg x n
  complete : 1 ≤ tag → tag ≤ 6 → ∀ w' th', t.wg? wg = some w' → w'.thread? tid = some th' → th'.tags.getLsbD (tag - 1) = false

/-- What a reply to a fault message asks (Table 20.7). -/
def verdict (m : Msg) : FaultVerdict :=
  if m.vals.headD 0 = 0 then .resume else if m.vals.headD 0 = 1 then .skip else .terminate

/-- A DEADLOCK record's slot is free again when its thread's fault has been answered (spec/11 R263). -/
def freedRecord (s : State) (w : Workgroup) (h : HeldRec) : State :=
  match h.record, s.launch? w.launch with
  | some i, some l => s.setLaunch { l with records := l.records.filter fun j => j != i }
  | _, _ => s

/-- The message of a fault (Table 20.5). -/
def faultMessage (w : Workgroup) (tid : Nat) (f : FaultInfo) (pc : DWord) : Msg :=
  { label := f.code.zeroExtend 20
    vals := [pc.extractLsb' 0 32, pc.extractLsb' 32 32, f.addr.extractLsb' 0 32, f.addr.extractLsb' 32 32, f.aux0, f.aux1, f.aux2,
      threadIdentity w tid]
    cap0 := none
    cap1 := none
    call := true
    sender := .thread w.id tid }

/-! Harts. -/

/-- Hart `n`, in state `h`, runs an instruction of `len` bytes. -/
structure HartRuns (s : State) (n len : Nat) (h : Hart) : Prop where
  cur : s.cur = .hart n len
  hart : s.hart? n = some h

/-- The hart has gone on to its next instruction: pc, and with it kc's cursor (R59); `instret` counts while it may. -/
def advanced (h : Hart) (len : Nat) : Hart :=
  { h with
    pc := h.pc + BitVec.ofNat 64 len
    kc := h.kc.moveTo (h.pc + BitVec.ofNat 64 len).toNat
    instret := if h.mcountinhibit.getLsbD 2 then h.instret else h.instret + 1 }

def okCap (r : Except CapFault Cap) : Option Cap := match r with | .ok c => some c | .error _ => none

/-- Special capability registers (Table 18.2). -/
def special (h : Hart) (n : Nat) : Cap := [h.kd, h.kc, h.kmtc, h.kmtd, h.kmepc, h.kstc, h.kstd, h.ksepc].getD n .null
def mayRead (h : Hart) (n : Nat) : Bool := n == 0 || n == 1 || h.mode == .m || (h.mode == .s && 5 ≤ n)
def mayWrite (h : Hart) (n : Nat) : Bool :=
  match n with
  | 0 => h.mode == .m || h.mode == .s || h.kc.has pSYSTEM
  | 1 => false
  | _ => mayRead h n
def putSpecial (h : Hart) (n : Nat) (c : Cap) : Hart :=
  { h with
    kd := if n = 0 then c else h.kd
    kmtc := if n = 2 then c else h.kmtc
    kmtd := if n = 3 then c else h.kmtd
    kmepc := if n = 4 then c else h.kmepc
    kstc := if n = 5 then c else h.kstc
    kstd := if n = 6 then c else h.kstd
    ksepc := if n = 7 then c else h.ksepc }

/-- Value of an Xkcap CSR (Table 18.3). -/
def csrValue (h : Hart) (csr : BitVec 12) : DWord :=
  if csr = 0x7C0 then h.mkfault
  else if csr = 0x7C1 then (if h.mpcm then 1 else 0)
  else if csr = 0x5C0 then h.skfault
  else if csr = 0x5C1 then BitVec.ofNat 64 h.kprio.toNat
  else if csr = 0x5C2 then BitVec.ofNat 64 h.kslot.toNat
  else BitVec.ofNat 64 ((if h.cm then 1 else 0) + (if h.spcm then 2 else 0)
    + (if (h.slots.getD h.kslot.toNat .reset).pending.isSome then 4 else 0))
/-- A value written to one: its writable fields (Tables 18.3, 18.4). -/
def csrPut (h : Hart) (csr : BitVec 12) (v : DWord) : Hart :=
  { h with
    mkfault := if csr = 0x7C0 then v &&& 0x0003FFFF00003FFF else h.mkfault
    mpcm := if csr = 0x7C1 then v.getLsbD 0 else h.mpcm
    skfault := if csr = 0x5C0 then v &&& 0x0003FFFF00003FFF else h.skfault
    kprio := if csr = 0x5C1 then BitVec.ofNat 4 v.toNat else h.kprio
    kslot := if csr = 0x5C2 then BitVec.ofNat 2 v.toNat else h.kslot
    spcm := if csr = 0x5C3 then v.getLsbD 1 else h.spcm }
/-- What a CSR instruction writes: CSRRW always, CSRRS and CSRRC not with a zero rs1 field. -/
def csrWrites (op : CsrOp) (rs1 : BitVec 5) (x old : DWord) : Option DWord :=
  match op with
  | .rw => some x
  | .rs => if rs1 = 0 then none else some (old ||| x)
  | .rc => if rs1 = 0 then none else some (old &&& ~~~x)
  | .rwi => some (BitVec.ofNat 64 rs1.toNat)
  | .rsi => if rs1 = 0 then none else some (old ||| BitVec.ofNat 64 rs1.toNat)
  | .rci => if rs1 = 0 then none else some (old &&& ~~~(BitVec.ofNat 64 rs1.toNat))

/-- The hart instructions that change registers of their hart alone: what they leave in it, or none where they trap (R369,
R373, R374). -/
def hartRow : Instr → Option (Hart → Option Hart)
  | .kincHart d a imm => some fun h => some (h.setK d (capInc (h.kr a) imm.toInt))
  | .kandpHart d a mask => some fun h => some (h.setK d (capAndp (h.kr a) mask))
  | .kbndHart d a l => some fun h => some (h.setK d (capBnd (h.kr a) (h.xr l).toNat))
  | .kbndxHart d a l => some fun h => (okCap (capBndx (h.kr a) (h.xr l).toNat)).map (h.setK d)
  | .kaddrHart d a => some fun h => some (h.setX d (h.kr a).cursor)
  | .kaddrSet d a x => some fun h => some (h.setK d ((h.kr a).withCursor (h.xr x).toNat))
  | .ksealHart d a b => some fun h => (okCap (capSeal (h.kr a) (h.kr b))).map (h.setK d)
  | .kunsealHart d a b => some fun h => (okCap (capUnseal (h.kr a) (h.kr b))).map (h.setK d)
  | .kentryHart d a => some fun h => (okCap (capEntry (h.kr a))).map (h.setK d)
  | .kmodeCap => some fun h => if h.mode = .u ∧ h.kc.has pSYSTEM = false then none else some { h with cm := true }
  | .kmodeInt => some fun h => some { h with cm := false }
  | .kmodeRd d r => some fun h => if mayRead h r.toNat then some (h.setK d (special h r.toNat)) else none
  | .kmodeWr r a => some fun h => if mayWrite h r.toNat then some (putSpecial h r.toNat (h.kr a)) else none
  | .hartFence _ _ _ => some fun h => some h
  | .xkcapCsrAccess op csr rd rs1 => some fun h =>
      if csr.toNat / 256 % 4 ≤ h.mode.num then
        some ((match csrWrites op rs1 (h.xr rs1) (csrValue h csr) with
          | some v => csrPut h csr v
          | none => h).setX rd (csrValue h csr))
      else none
  | _ => none

/-- A capability that a trap can use: valid and unsealed (R368). -/
def trapUsable (c : Cap) : Prop := c.valid = true ∧ c.otype = 0
/-- Usable as code at an address. -/
def trapCode (c : Cap) (pc : DWord) : Prop := trapUsable c ∧ c.has pEXEC = true ∧ c.base ≤ pc.toNat ∧ pc.toNat < c.top

/-- The handler's address: xtvec's base, for interrupts of a vectored xtvec 4 bytes for each cause further. -/
def handler (tvec : DWord) (t : HTrap) : DWord :=
  BitVec.ofNat 64 (tvec.toNat / 4 * 4 + if t.intr && tvec.toNat % 2 == 1 then 4 * t.cause else 0)

/-- `mstatus` with three fields replaced: bits `ie` and `pie`, and the bits from `pp` on that hold the mode. -/
def statusAfter (old new : DWord) (ie pie : Nat) (pp : Nat → Option Bool) (i p : Bool) : Prop :=
  ∀ n < 64, new.getLsbD n = if n = ie then i else if n = pie then p else (pp n).getD (old.getLsbD n)
/-- The bits of MPP that hold a mode. -/
def mppBits (mode : Mode) (n : Nat) : Option Bool :=
  if n = 11 then some (mode != .u) else if n = 12 then some (mode == .m) else none
def sppBit (b : Bool) (n : Nat) : Option Bool := if n = 8 then some b else none

/-- What a hart's access to memory comes to: its authority, its address, and the physical address of each byte, in the
state `u` that its checks leave. -/
structure HartAccessOk (s u : State) (h : Hart) (rs1 : BitVec 5) (imm : BitVec 12) (sp : Cap → Nat → HartSpec)
    (c : Cap) (pas : List Nat) (cw : Bool) : Prop where
  ok : ∃ reg x, h.authority rs1 imm = .ok (c, reg, x) ∧ s.hartCheck h h.cm c reg x (sp c reg) = (u, .ok pas cw)
  inside : isOutside pas = false
  clean : ∀ a ∈ pas, u.poisonAt a = false
  copies : ∀ l, u.copy? 4 l = none
  l1 : ∀ x ∈ u.l1, dieOfCore x.1 ≠ 4

/-- A read value of n bytes in a register: zero- or sign-extended. -/
def extended (unsigned : Bool) (n x : Nat) : DWord :=
  if unsigned then BitVec.ofNat 64 x else BitVec.ofInt 64 (asSigned (8 * n) x)
/-- Little-endian value of the bytes at physical addresses. -/
def valueAt (s : State) (pas : List Nat) : Nat := natOfBytes (pas.map s.byteAt)
def loadSpec (n : Nat) : Cap → Nat → HartSpec := fun _ _ => { acc := .load, perms := [pLOAD], n := n }
def hartStoreSpec (n : Nat) : Cap → Nat → HartSpec := fun _ _ => { acc := .store, perms := [pSTORE], n := n }
def lrSpec (n : Nat) : Cap → Nat → HartSpec := fun _ _ => { acc := .load, perms := [pLOAD, pSTORE], n := n, strict := true }
def amoSpec (n : Nat) : Cap → Nat → HartSpec := fun _ _ => { acc := .store, perms := [pLOAD, pSTORE], n := n, strict := true }
/-- Four bytes, or eight of the double form. -/
def widthOf (dbl : Bool) : Nat := if dbl then 8 else 4
/-- A floating-point register's value: a single is NaN-boxed. -/
def boxed (n x : Nat) : DWord := if n = 8 then BitVec.ofNat 64 x else BitVec.ofNat 64 (0xFFFFFFFF00000000 + x % 2 ^ 32)

def kldSpec : Cap → Nat → HartSpec := fun _ _ => { acc := .load, perms := [pLOAD], n := 16, align := 16 }
/-- kst of `v`, named by register field `field` (R238, R372). -/
def kstSpec (v : Cap) (field : Nat) : Cap → Nat → HartSpec := fun c reg =>
  { acc := .store, perms := [pSTORE], n := 16, align := 16, capStore := v.valid, extra := kstCheck c reg v field }

/-- Nothing waits that a store could release, and no Hall event waits for room. -/
def Quiet (s : State) : Prop :=
  s.hallEvents = [] ∧ ∀ q ∈ s.reqs, q.phase ≠ .waiting ∧ q.phase ≠ .registering

/-- After a hart's store: these bytes and hart n's registers, and nothing else. -/
structure HartStored (s t : State) (n : Nat) (h' : Hart) (ws : List (Nat × Byte)) : Prop where
  bytes : ∀ a, t.byteAt a = (lastByte ws a).getD (s.byteAt a)
  tags : ∀ a, t.tagAt a = (s.tagAt a && !(ws.any fun w => w.1 / 16 == a / 16))
  hart : t.hart? n = some h'
  others : ∀ m, m ≠ n → t.hart? m = s.hart? m
  rest : t = { s with mem := t.mem, tags := t.tags, poison := t.poison, reservations := t.reservations, l1 := t.l1,
                      directory := t.directory, harts := t.harts }

/-! Messages and objects of a hart. -/

/-- A register whose capability may be sent: null, invalid, or with TRANSFER and GLOBAL (R272). -/
def maySend (h : Hart) (k : BitVec 5) : Prop :=
  k = 0 ∨ (h.kr k).valid = false ∨ (h.kr k).has pTRANSFER = true ∧ (h.kr k).has pGLOBAL = true

/-- No receiver waits at the endpoint, its slot `i` is its lowest free one, and it has no bound notification. -/
structure Room (s : State) (pa i : Nat) : Prop where
  receivers : s.epReceivers pa = []
  slot : s.freeSlot pa = some i
  unbound : s.peek (pa + 24) 8 = 0

/-- No Hall event waits for room, the wait-for tables have room, and no request bears the next name. -/
structure Settled (s : State) : Prop where
  events : s.hallEvents = []
  tables : ∀ d, s.tableRoom d = true
  names : ∀ q ∈ s.reqs, q.id ≠ s.nextId

/-- The message stands in slot `i` of the endpoint's buffer (Table 19.4), last in its order: values from a0 on, the message
word (Table 11.8), and its capabilities, untagged when the sweep in force revokes them. -/
structure Buffered (s t : State) (pa i : Nat) (h : Hart) (count : Nat) (x y : BitVec 5) (call : Bool) (sender : Party) : Prop where
  order : (t.ep pa).order = (s.ep pa).order ++ [(i, sender)]
  values : ∀ j < 8, t.peek (pa + 128 + 128 * i + 32 + 4 * j) 4
    = if j < count then (h.xr (BitVec.ofNat 5 (10 + j))).toNat % 2 ^ 32 else 0
  word : t.peek (pa + 128 + 128 * i + 64) 4 = (h.xr 5).toNat % 2 ^ 20 + count * 2 ^ 20
    + (if x = 0 then 0 else 2 ^ 25) + (if y = 0 then 0 else 2 ^ 26) + (if call then 2 ^ 27 else 0)
  cap0 : pa % 16 = 0 → hasTags (pa + 128 + 128 * i) = true →
    t.capAt (pa + 128 + 128 * i) = s.sift { h.kr x with tag := (h.kr x).valid }
  cap1 : pa % 16 = 0 → hasTags (pa + 144 + 128 * i) = true →
    t.capAt (pa + 144 + 128 * i) = s.sift { h.kr y with tag := (h.kr y).valid }

/-- What omake makes of its operands (Table 19.1): the object's address, size, alignment and permissions. -/
structure Makes (s : State) (c : Cap) (w : DWord) (type arg pa size align : Nat) (perms : List Nat) : Prop where
  region : Names s c 11
  word : w.toNat = type + arg * 2 ^ 8
  types : 2 ≤ type ∧ type ≤ 11
  args : arg < 2 ^ 40
  form : objectForm type arg = some (size, align, perms)
  free : s.noResource type arg = false
  place : pa = (c.objPa + s.peek (c.objPa + 16) 8 + align - 1) / align * align
  inside : pa + size ≤ c.top
  space : spaceOf pa = .hbm ∨ spaceOf pa = .vault
  same : spaceOf (pa + size - 1) = spaceOf pa
  vault : type = 8 → spaceOf pa = .vault

/-- Nothing of the address space is left: no request, workgroup, launch, engine operation, wait, delivery or queue of it. -/
structure SpaceIdle (s : State) (aspace asid : Nat) : Prop where
  requests : s.spaceRequests asid = []
  workgroups : ∀ w ∈ s.wgs, w.asid ≠ asid
  launches : ∀ l ∈ s.launches, l.asid ≠ asid ∧ ∀ q, s.queue? l.queue = some q → q.aspace.objPa ≠ aspace
  ops : ∀ o ∈ s.ops, o.asid ≠ asid
  claims : ∀ m ∈ s.mailClaims, m.asid ≠ asid
  queues : ∀ q ∈ s.queues, q.aspace.objPa ≠ aspace
  events : s.hallEvents = []

/-- No request waits at an object and no launch, line or queue uses it. -/
structure Unused (s : State) (pa : Nat) : Prop where
  requests : ∀ q ∈ s.reqs, q.obj ≠ pa
  launches : ∀ l ∈ s.launches, l.ctx ≠ pa ∧ l.queue ≠ pa
  events : s.hallEvents = []

/-! The launch path. -/

/-- In `t` one more workgroup stands than in `s`: of launch `l`, with this number, loading in this bank of this core, its
threads in their start state with these first registers (Tables 1.6, 2.10, R331); no byte of memory has changed. -/
structure Placed (s t : State) (l : Launch) (core bank wgid : Nat) (pcc : Cap) (s0 s1 : Word) : Prop where
  mem : t.mem = s.mem
  wg : ∃ w, t.wgs = s.wgs ++ [w] ∧ w.launch = l.id ∧ w.core = core ∧ w.bank = bank ∧ w.wgid = wgid ∧ w.life = .loading
    ∧ w.saved = none ∧ w.w = l.w ∧ w.g = l.g ∧ w.asid = l.asid ∧ w.fpflags = 0 ∧ w.pend = [] ∧ w.groups.length = l.g
    ∧ w.reg 0 0xC0 = ⟨s0, false⟩ ∧ w.reg 0 0xC1 = ⟨s1, false⟩
    ∧ ∀ tid < l.w * l.g, ∃ th, w.thread? tid = some th ∧ th.v = List.replicate l.nv ⟨0, false⟩ ∧ th.k.length = l.nk ∧ th.p = 0
      ∧ th.pcc = s.sift pcc

/-- The bank in which a core places a task's workgroup: its active bank, or the other when only that has room (R330, log 61). -/
def TaskRoom (s : State) (core : Nat) (l : Launch) (bank : Nat) : Prop :=
  bank = (s.core core).active ∧ s.hasRoom core bank l.need = true
    ∨ bank = 1 - (s.core core).active ∧ s.hasRoom core (s.core core).active l.need = false ∧ s.hasRoom core bank l.need = true

/-- The part of a task that is taken, and the part that stays (R330). -/
def takenPart (t : Task) : Task := if t.hi - t.lo ≤ 1 then t else { t with lo := t.lo + (t.hi - t.lo) / 2 }
def stayingPart (t : Task) : Option Task := if t.hi - t.lo ≤ 1 then none else some { t with hi := t.lo + (t.hi - t.lo) / 2 }

/-- The destination of a channel lies in the instance of a scope that holds a core: the core, its quad, its die, the package,
the pod (R108, R118). -/
def Reaches (scope core : Nat) : Chan → Prop
  | .scratch k => 3 ≤ scope ∨ k = core ∨ dieOfCore k = dieOfCore core ∧ (scope = 2 ∨ scope = 1 ∧ k % 256 / 4 = core % 256 / 4)
  | .vault k => 3 ≤ scope ∨ k = core ∨ dieOfCore k = dieOfCore core ∧ (scope = 2 ∨ scope = 1 ∧ k % 256 / 4 = core % 256 / 4)
  | .slice die q => 3 ≤ scope ∨ die = dieOfCore core ∧ (scope = 2 ∨ scope = 1 ∧ q = core % 256 / 4)
  | .control => 3 ≤ scope
  | .fabric _ => 4 ≤ scope

/-- A translation that an XINV value removes (Table 20.4): of its ASID or of all, and holding its page, or of all pages. -/
def removedBy (v : DWord) (e : TlbEntry) : Prop :=
  (v.getLsbD 10 = true ∨ pteG e.pte.toNat = true ∨ v.toNat % 1024 = e.asid)
    ∧ (v.getLsbD 11 = true ∨ e.vpn ≤ v.toNat / 2 ^ 12 % 2 ^ 36 ∧ v.toNat / 2 ^ 12 % 2 ^ 36 < e.vpn + e.pages)

/-! Steps of a core. -/

/-- A thread may enter the block at `x` with code capability `c`, as prologue or not (R139). -/
structure MayEnter (c : Cap) (x hd : DWord) (prologue : Bool) : Prop where
  usable : trapUsable c
  exec : c.has pEXEC = true
  bounds : c.base ≤ x.toNat ∧ x.toNat + 128 ≤ c.top
  aligned : x.toNat % 128 = 0
  open_ : hd.toNat / 2 ^ 62 = 0
  reserved : hd.toNat % 32 = 0
  spans : 1 ≤ hd.toNat / 2 ^ 54 % 256
  slots : 1 ≤ hd.toNat / 2 ^ 50 % 16 ∧ hd.toNat / 2 ^ 50 % 16 ≤ 12
  livev : hd.toNat / 2 ^ 42 % 256 ≤ 192
  bits : hd.toNat / 256 % 4 ≠ 3
  privileged : hd.getLsbD 7 = true → c.has pSYSTEM = true
  prologue : prologue = true → hd.getLsbD 5 = true

/-- The block that a header opens (Table 5.1). -/
def opened (x hd : DWord) : Block :=
  ⟨x, hd.toNat / 2 ^ 54 % 256, hd.toNat / 2 ^ 50 % 16, hd.toNat / 2 ^ 42 % 256, hd.toNat / 2 ^ 38 % 16, hd.getLsbD 7, hd.getLsbD 6,
    hd.getLsbD 5⟩

/-- Bin `b` has become a group: its threads by ascending number, at its resume point; the bin is free; no register has
changed (R24). -/
structure Formed (s t : State) (b : Bin) : Prop where
  group : ∀ w, s.wg? b.wg = some w → ∃ w' g', t.wg? b.wg = some w' ∧ g' ∈ w'.groups ∧ g'.pc = b.resume
    ∧ g'.members = numbered b.members ∧ w'.s = w.s
    ∧ ∀ tid n, w'.reg tid n = w.reg tid n ∧ w'.kreg tid n = w.kreg tid n ∧ w'.preg tid n = w.preg tid n
  free : ∀ x ∈ t.bins, x ∈ s.bins ∧ x.same b = false
  mem : t.mem = s.mem

/-! Engines. -/

/-- How often an operation names tile `n` as one it reads, or writes. -/
def namings (o : EngineOp) (n : Nat) (writes : Bool) : Nat := (o.tiles.filter fun x => x == (n, writes)).length

/-- Operation `o` of workgroup `w` runs without a failure, no earlier running operation of its workgroup names one of its
accumulators, and the workgroup has a live thread: its completion step is due. -/
structure Completing (s : State) (code : Nat) (o : EngineOp) (w : Workgroup) : Prop where
  op : s.op? s.ev.who = some o
  code : o.code = code
  running : o.phase = .running
  sound : o.fault = none
  inOrder : ∀ x ∈ s.earlierOps o, x.wg = o.wg → (∀ c y sent, x.phase ≠ .stampFault c y sent) → ∀ a ∈ o.accs, ∀ b ∈ x.accs, a.1 ≠ b.1
  wg : s.wg? o.wg = some w
  live : w.anyLive = true
  acc : o.code ≠ 0x1C5 → o.accIndex < w.accs.length

/-- Nothing looks again when memory or a tile changes: no LOCK or MWAIT waits, no operation of the workgroup awaits its tiles,
and no Hall event waits for room. -/
structure Calm (s : State) (wg : Nat) : Prop where
  events : s.hallEvents = []
  polls : NoPolls s
  ops : ∀ x ∈ s.ops, x.wg = wg → x.phase ≠ .waiting

/-- The operation is gone, its latch is empty, and every parked thread of it faults (R287). -/
def failedOp (s : State) (o : EngineOp) (f : FaultInfo) : State :=
  ((s.dropOp o.id).modWg o.wg fun w => w.emptyLatch o.id).faultRequests (.gang o.id) ((s.opRequests o).map fun r => (r, f))

/-- What an operation's acceptance reads: where it names a tensor record, the record at a live TENSOR that the queue's address
space lets it read, with the poison of its granules (R284, R387, Table 20.1). -/
def RecordRead (s : State) (o : EngineOp) (w : Workgroup) (u : State) (rec : TensorRec) (po : Bool) : Prop :=
  if o.needsRecord then ∃ v p, s.tensorAt o (leadTensor w o).objPa = (v, .ok p) ∧ v.readRecord (dieOfCore o.core) p = (u, rec, po)
  else u = s ∧ rec = .none ∧ po = false

/-- A tile entry whose reader is done (Table 12.4). -/
def readerDone (old new : DWord) : Prop :=
  tReaders new = tReaders old - 1
    ∧ tState new = if tState old = tDRAINING ∧ tReaders old ≤ 1 then tEMPTY else tState old

/-- In `t` the operation is over: its readers are released, and the workgroup's accumulators are as before but for the
destination, which holds `f` with poison `po` in its old state. -/
structure Computed (s t : State) (o : EngineOp) (w : Workgroup) (f : Nat → Nat → Word) (po : Bool) : Prop where
  ended : t.op? o.id = none
  wg : ∃ w', t.wg? w.id = some w' ∧ (∀ n, namings o n false = 1 → namings o n true = 0 → readerDone (w.tile n) (w'.tile n))
    ∧ (w'.accTile o.accIndex).state = (w.accTile o.accIndex).state ∧ (w'.accTile o.accIndex).poison = po
    ∧ (∀ i < 64, ∀ j < 64, accAt (w'.accTile o.accIndex).data i j = f i j)
    ∧ ∀ n, n ≠ o.accIndex → w'.accTile n = w.accTile n

/-- Row i of a tile's first k columns, and column j of its first k rows, from element x0 on. -/
def rowOf (s : State) (w : Workgroup) (e : DWord) (k i : Nat) : List FVal := (List.range k).map fun x => s.tileValue w e i x
def colOf (s : State) (w : Workgroup) (e : DWord) (k x0 j : Nat) : List FVal :=
  (List.range k).map fun x => s.tileValue w e (x0 + x) j

/-- The workgroup that an engine fault's message names (R290, R300). -/
def failedReceiver (s : State) (w : Workgroup) (o : EngineOp) : Workgroup := (o.bad.getLast?.bind s.wg?).getD w

/-- The message of an engine fault (Table 20.5, R290); of a multicast, it names the receiver whose delivery failed first. -/
def engineMessage (s : State) (w : Workgroup) (o : EngineOp) (code : BitVec 8) (addr : DWord) (ended : Bool) : Msg :=
  { label := BitVec.ofNat 20 (code.toNat + 0x100 + if ended then 0x200 else 0)
    vals := [o.pc.extractLsb' 0 32, o.pc.extractLsb' 32 32, addr.extractLsb' 0 32, addr.extractLsb' 32 32,
      BitVec.ofNat 32 (0x80000000 + o.code),
      BitVec.ofNat 32 ((if o.code = 0x1C5 ∨ o.code = 0x1C6 then o.body.ta.toNat else o.accIndex) % 2 ^ 9 + (failedReceiver s w o).bank % 2 * 2 ^ 9
        + (failedReceiver s w o).slot % 2 ^ 6 * 2 ^ 10 + o.gang % 4 * 2 ^ 16),
      0, threadIdentity w o.lead]
    cap0 := none
    cap1 := none
    call := true
    sender := .engine o.id }

/-! Pre-emption. -/

/-- A contender may come to the core: its priority exceeds that of every workgroup of the active bank, or equals the highest
after 1,048,576 ac; a save slot is free for it; and it fits, a context of the active bank in that bank, which becomes the
shadow first (R421). -/
def mayCome (s : State) (core : Nat) (x : Contender × Nat) : Prop :=
  (∀ w ∈ s.outgoing core, s.wgPrio w < x.2
    ∨ s.wgPrio w ≤ x.2 ∧ (s.core core).since + 1048576 ≤ (s.core core).clock (s.core core).active)
  ∧ s.slotFor core x.1 = true ∧ s.fitsSpilled core x.1 = true

/-- The core has no swap, fill, spill or fence under way, and `x` is the contender of highest priority that may come to it. -/
structure Chosen (s : State) (core : Nat) (x : Contender) : Prop where
  idle : (s.core core).swapRequested = false ∧ (s.core core).filling = [] ∧ (s.core core).spilling = none
    ∧ (s.core core).fenced = false
  best : ∃ p, (x, p) ∈ s.contenders core ∧ mayCome s core (x, p) ∧ ∀ y ∈ s.contenders core, mayCome s core y → y ≠ (x, p) → y.2 < p

/-- A swap is due: it was requested, nothing is being filled or spilled, and every group of the active bank has reached a
pre-emption point (R423). -/
structure SwapDue (s : State) (core : Nat) : Prop where
  requested : (s.core core).swapRequested = true
  filled : (s.core core).filling = []
  spilled : (s.core core).spilling = none
  points : ∀ w ∈ s.wgs, w.core = core → w.bank = (s.core core).active → w.life = .running → w.saved = none →
    ∀ g ∈ w.groups, g.atPoint = true

/-! Revocation. -/

/-- The sweep revokes the capability (R429). -/
def condemned (w : Sweep) (c : Cap) : Prop :=
  c.valid = true ∧ c.remote = false ∧ w.rlo ≤ c.base ∧ c.base < w.rlo + w.rlen ∧ (c.base - w.rlo) / 16 ∈ w.marked
/-- A pass for another package revokes it (R436). -/
def condemnedBy (source rlo rlen : Nat) (marked : List Nat) (c : Cap) : Prop :=
  c.valid = true ∧ c.remote = true ∧ c.source = source ∧ c.bounds.isSome = true ∧ rlo ≤ c.base ∧ c.base < rlo + rlen
    ∧ (c.base - rlo) / 16 ∈ marked
/-- A capability as a sweep leaves it: untagged where it is revoked, with its bits kept, and else unchanged (R433). -/
def Swept (p : Cap → Prop) (old new : Cap) : Prop := (p old → new = { old with tag := false }) ∧ (¬p old → new = old)

/-- Every capability register of the harts, special ones included, and of the workgroups in a bank has been swept, pccs
too (Table 21.3). -/
structure RegistersSwept (p : Cap → Prop) (s t : State) : Prop where
  harts : ∀ (i : Nat) (h : Hart), s.harts[i]? = some h → ∃ h' : Hart, t.harts[i]? = some h' ∧ Swept p h.kd h'.kd ∧ Swept p h.kc h'.kc
    ∧ Swept p h.kmtc h'.kmtc ∧ Swept p h.kmtd h'.kmtd ∧ Swept p h.kmepc h'.kmepc ∧ Swept p h.kstc h'.kstc
    ∧ Swept p h.kstd h'.kstd ∧ Swept p h.ksepc h'.ksepc
    ∧ ∀ (n : Nat) (c : Cap), h.k[n]? = some c → ∃ c', h'.k[n]? = some c' ∧ Swept p c c'
  threads : ∀ (i j : Nat) (w : Workgroup) (th : Thread), s.wgs[i]? = some w → w.saved = none → w.threads[j]? = some th →
    ∃ (w' : Workgroup) (th' : Thread), t.wgs[i]? = some w' ∧ w'.threads[j]? = some th' ∧ Swept p th.pcc th'.pcc ∧ th'.v = th.v ∧ th'.p = th.p
      ∧ ∀ (n : Nat) (k : KReg), th.k[n]? = some k → ∃ k', th'.k[n]? = some k' ∧ Swept p k.cap k'.cap ∧ k'.poison = k.poison

/-- The completion of a sweep is signalled nowhere, or on a live notification that no thread waits on and no hart is bound
to, apart from the REVOKER's fields (R431, R434). -/
def SignalFree (s : State) (w : Sweep) : Prop :=
  w.notify = 0 ∨ (s.objLive w.notify 3 = true ∧ s.noteWaiting w.notify = [] ∧ s.peek (w.notify + 24) 4 < 2 ^ 31 ∧ w.bit < 32
    ∧ ∀ pa, s.revoker = some pa → w.notify + 64 ≤ pa ∨ pa + 256 ≤ w.notify)
/-- A sweep has completed: gen has advanced, status is 0, and the completion bit is set in the notification (Table 21.3). -/
structure SweepEnded (s t : State) (w : Sweep) : Prop where
  none : t.sweep = none
  gen : ∀ pa, s.revoker = some pa → t.peek (pa + 16) 8 = (s.peek (pa + 16) 8 + 1) % 2 ^ 64 ∧ t.peek (pa + 24) 1 = 0
  signal : w.notify ≠ 0 → t.peek (w.notify + 16) 4 = s.peek (w.notify + 16) 4 ||| 2 ^ w.bit

/-! Boot, the mailbox and the ports. -/

/-- The flash is as before (R446, R448). -/
def FlashKept (s t : State) : Prop := t.th.markers = s.th.markers ∧ t.th.slots = s.th.slots ∧ t.th.log = s.th.log
/-- So are the fences of cores, pseudo-channels and dies (R470). -/
def FencesKept (s t : State) : Prop :=
  t.th.fencedPcs = s.th.fencedPcs ∧ t.th.fencedDies = s.th.fencedDies ∧ t.th.fencePending = s.th.fencePending
    ∧ ∀ c, (t.core c).fenced = true ↔ ∃ x ∈ s.cores, x.id = c ∧ x.fenced = true
/-- The boot number is the one after the newest record's (R448). -/
def NextBoot (s t : State) : Prop :=
  match s.th.newest with
  | some r => t.th.boot = (logBoot r.2 + 1) % 2 ^ 16
  | none => t.th.boot = 0

/-- A record of the boot-step log stands at the log's end, in the ring's next position (Table 23.5). -/
def Logged (s t : State) (step outcome detail : Nat) : Prop :=
  ∃ (at_ : Nat) (r : BitVec 128), t.th.log.getLast? = some (at_, r)
    ∧ at_ = (match s.th.log.getLast? with | some x => (x.1 + 1) % 65024 | none => 0)
    ∧ r.extractLsb' 96 32 = crc32 (bytesOfNat 12 (r.toNat % 2 ^ 96)) ∧ r.toNat / 2 ^ 64 % 2 ^ 32 = 0
    ∧ r.toNat / 2 ^ 48 % 2 ^ 16 = s.th.boot % 2 ^ 16 ∧ r.toNat / 2 ^ 40 % 2 ^ 8 = step % 2 ^ 8
    ∧ r.toNat / 2 ^ 32 % 2 ^ 8 = outcome ∧ r.toNat % 2 ^ 32 = detail % 2 ^ 32

/-- A marker copy that boot accepts, with this sequence number and slot (Table 23.2). -/
def MarkerOf (m : BitVec 128) (seq slot : Nat) : Prop :=
  m.extractLsb' 96 32 = crc32 (bytesOfNat 12 (m.toNat % 2 ^ 96)) ∧ m.toNat / 2 ^ 64 % 2 ^ 32 = 0x4B584D4B
    ∧ m.toNat / 2 ^ 32 % 2 ^ 32 = seq % 2 ^ 32 ∧ m.toNat % 2 ^ 16 = slot % 2

/-- A pair under its new keys, one for each direction: the next epoch, the opposite phase, the old key kept for 65,536 flits
(R466). -/
structure Rotated (p q : Pair) : Prop where
  outEpoch : q.out.epoch = p.out.epoch + 1
  inEpoch : q.inn.epoch = p.inn.epoch + 1
  outPhase : q.out.phase = !p.out.phase
  inPhase : q.inn.phase = !p.inn.phase
  outKey : q.out.key.isSome = true
  inKey : q.inn.key.isSome = true
  oldKey : q.oldKey = p.inn.key
  window : q.oldLeft = 65537

/-- An inbound request was refused (R453): answered with an abort, and a record of 32 bytes with the cause put at the tail of
the fault queue when that lies in HBM4E and has room. Nothing else in memory changes. -/
structure RequestRefused (u t : State) (cause : Nat) : Prop where
  abort : t.th.outbox = u.th.outbox ++ [.completerAbort u.ev.value.toNat]
  record : ∀ q base, q = u.th.iommu → base = q.fqb.toNat / 2 ^ 10 % 2 ^ 44 * 4096 + 32 * q.fqt → q.fqb ≠ 0 → base + 32 ≤ 2 ^ 39 →
    (q.fqt + 1) % 2 ^ (q.fqb.toNat % 32 + 1) ≠ q.fqh → cause < 2 ^ 12 → t.peek base 8 % 2 ^ 12 = cause
      ∧ t.peek (base + 16) 8 = u.ev.value.toNat ∧ t.th.iommu.fqt = (q.fqt + 1) % 2 ^ (q.fqb.toNat % 32 + 1)
      ∧ ∀ a, a < base ∨ base + 32 ≤ a → t.byteAt a = u.byteAt a
  dropped : u.th.iommu.fqb = 0 → t.mem = u.mem

/-- The command has ended with this status, which MAILBOX_COMMAND_COMPLETE will write. -/
def Ended (t : State) (status : Nat) : Prop := t.th.stage = 100 ∧ t.th.result = status

/-- Length of the image that an update writes. -/
def imageLength (s : State) : Nat := if s.th.pldm then s.th.pldmImage.length else s.th.arg1.toNat

/-- Steps 1 to 3 of R446 as the row `i` performs them: the image is verified, the slot is written, then read back. -/
structure UpdateStages (s : State) (i : Instr) (next : Nat) : Prop where
  verify : s.th.stage = 0 → s.th.flipSeq ≠ 0xFFFFFFFF → 0 < imageLength s → imageLength s ≤ slotSize s.th.target →
    (s.th.pldm = true ∨ s.th.arg0.toNat + imageLength s ≤ 2 ^ 39) →
    (Config.imageSigned s.updateImage = false → exec i s = .next (s.endCommand 2))
    ∧ (Config.imageSigned s.updateImage = true → Config.imageSvn s.updateImage < Config.fusedSvn → exec i s = .next (s.endCommand 3))
    ∧ (Config.imageSigned s.updateImage = true → Config.fusedSvn ≤ Config.imageSvn s.updateImage →
      (∀ m, s.th.marker = some m → m.toNat / 2 ^ 16 % 2 ^ 16 ≤ Config.imageSvn s.updateImage) →
      ∃ t, exec i s = .next t ∧ t.th.stage = 1 ∧ t.th.slots = s.th.slots)
  write : s.th.stage = 1 → (s.ev.outcome = .failed → exec i s = .next (s.endCommand 4))
    ∧ (s.ev.outcome = .ok → ∃ t, exec i s = .next t ∧ t.th.stage = 2
      ∧ t.th.slots = s.th.slots.set s.th.target s.updateImage ∧ t.th.markers = s.th.markers)
  back : s.th.stage = 2 →
    (s.ev.outcome = .ok → s.th.verifies s.th.target = true → ∃ t, exec i s = .next t ∧ t.th.stage = next)
    ∧ (s.ev.outcome = .failed ∨ s.th.verifies s.th.target = false → exec i s = .next (s.endCommand 4))

/-- Step 4 of R446: the copy that is not followed is erased, then written with the next sequence number and the new slot;
the other copy stays. -/
structure FlipStages (s : State) (i : Instr) : Prop where
  erase : s.th.stage = 3 → s.ev.outcome = .ok → ∃ t, exec i s = .next t ∧ t.th.stage = 4
    ∧ t.th.markers = s.th.markers.set s.th.flipCopy (BitVec.allOnes 128)
  write : s.th.stage = 4 → s.ev.outcome = .ok → ∃ t m, exec i s = .next t ∧ Ended t 0
    ∧ t.th.markers = s.th.markers.set s.th.flipCopy m ∧ MarkerOf m s.th.flipSeq s.th.target
  fails : s.th.stage = 3 ∨ s.th.stage = 4 → s.ev.outcome = .failed → exec i s = .next (s.endCommand 4)

/-- An interrupt source for the line stands at `pa` and names a bit of the notification at `n`, on which nobody waits and
which is bound to no hart (R390). -/
structure LineBound (s : State) (line pa n : Nat) : Prop where
  bound : (s.lines.find? fun l => l.1 == line) = some (line, pa)
  source : s.objLive pa 6 = true
  names : s.peek (pa + 24) 8 = n
  live : s.objLive n 3 = true
  free : s.noteWaiting n = [] ∧ s.peek (n + 24) 4 < 2 ^ 31
  bit : s.peek (pa + 32) 4 < 32

end Sys2Proof.Safety
end

