-- ==== Sys2Proof/Certificates/Slice0/Obligations.lean ====
section
/-! DEFINITION. The statements about the machine, each a proposition for the provers. -/

open Sys2Proof Sys2Proof.Machine Sys2Proof.Safety

/-! Encodings and the step. -/

/-- Words written out from spec/05 Tables 5.3-5.10 and spec/18 Table 18.5 decode to the instructions they stand for. -/
def Obligations.WrittenWordsDecode : Prop :=
  decodeWord 0x10000000000000000000 = .iadd ⟨0, 0, 0, 0, false⟩ ⟨0, 0, 0, 0, false, false, false, false, false, false, 0, 0, 0⟩
    -- opcode 0x040, D = 3, talloc = 2, wmask = w1, guard !p5, d = v1, a = v2, b = v3, variant 2: @!p5 IADD.sat v1, v2, v3
    ∧ decodeWord (0b0001000000#10 ++ 0b0011#4 ++ 0b010#3 ++ 0b000001#6 ++ 0b101#3 ++ 0b1#1 ++ 0x01#8 ++ 0x02#8 ++ 0x03#8 ++ 0x00#8
        ++ 0#6 ++ 0#2 ++ 0#4 ++ 0b000000010#9)
      = .iadd ⟨3, 2, 1, 5, true⟩ ⟨1, 2, 3, 0, false, false, false, false, false, false, 0, 0, 2⟩
    -- opcode 0x100, data v4, k7, index s63, offset 16, size 4 bytes: LD
    ∧ decodeWord (0b0100000000#10 ++ 0#4 ++ 1#3 ++ 0#6 ++ 7#3 ++ 0#1 ++ 0x04#8 ++ 0x7#4 ++ 0xFF#8 ++ 0#2 ++ 16#20 ++ 2#3 ++ 0#2 ++ 0#3 ++ 0#3)
      = .ld ⟨0, 1, 0, 7, false⟩ ⟨4, 7, 0xFF, 0, 16, 2, 0, 0, 0⟩
    -- opcode 0x001, target −1: BRA
    ∧ decodeWord (0b0000000001#10 ++ 0#4 ++ 0#3 ++ 0#6 ++ 7#3 ++ 0#1 ++ 0xFFFFFF#24 ++ 0#9 ++ 0#4 ++ 0#16)
      = .bra ⟨0, 0, 0, 7, false⟩ ⟨0xFFFFFF, 0, 0, 0⟩
    -- opcode 0x061, twin of ISUB: ISUB v9, v8, 0x12345678
    ∧ decodeWord (0b0001100001#10 ++ 0#4 ++ 0#3 ++ 0#6 ++ 7#3 ++ 0#1 ++ 0x09#8 ++ 0x08#8 ++ 0x12345678#32 ++ 0#5)
      = .isubImm ⟨0, 0, 0, 7, false⟩ ⟨9, 8, 0x12345678, 0⟩
    -- opcode 0x147, kd = k2, ka = k1, imm 64: KINC
    ∧ decodeWord (0b0101000111#10 ++ 0#4 ++ 0#3 ++ 0#6 ++ 7#3 ++ 0#1 ++ 2#4 ++ 1#4 ++ 0#4 ++ 0#8 ++ 64#24 ++ 0#9)
      = .kinc ⟨0, 0, 0, 7, false⟩ ⟨2, 1, 0, 0, 64, 0⟩
    -- an opcode that no chapter assigns
    ∧ decodeWord (0x3FF#10 ++ 0#70) = .unassignedOpcode 0x3FF ⟨0, 0, 0, 0, false⟩ 0
    -- custom-0, funct3 2: KINC k3, k1, 8
    ∧ decodeHart (8#12 ++ 1#5 ++ 2#3 ++ 3#5 ++ 0x0B#7) = some (.kincHart 3 1 8)
    -- custom-1, funct3 1, funct7 with .nb and count 2: KRECV
    ∧ decodeHart (0b0010010#7 ++ 6#5 ++ 5#5 ++ 1#3 ++ 7#5 ++ 0x2B#7) = some (.krecv true 2 6 5 7)
    -- LW x5, 4(x6), MRET, SRET, CSRRW x1, 0x7C0, x2
    ∧ decodeHart (4#12 ++ 6#5 ++ 2#3 ++ 5#5 ++ 0x03#7) = some (.hartMemoryAccess (.load 2 false 5 6 4))
    ∧ decodeHart 0x30200073 = some .mret
    ∧ decodeHart 0x10200073 = some .sret
    ∧ decodeHart (0x7C0#12 ++ 2#5 ++ 1#3 ++ 1#5 ++ 0x73#7) = some (.xkcapCsrAccess .rw 0x7C0 1 2)

/-- Decode and encode agree on compute instructions: the ten bytes of an encoded instruction decode to it, with every field
at every value. A word of an opcode that no chapter assigns is an instruction too (spec/07 R173), provided none does. -/
def Obligations.ComputeDecodeOfEncode : Prop :=
  ∀ (i : Instr) (w : BitVec 80), encodeWord i = some w →
    (∀ op h b, i = .unassignedOpcode op h b → opcodeMap.lookup op.toNat = none) →
    decodeSlot (bytesOfNat 10 w.toNat) = i

/-- Every 80-bit word is exactly one instruction: encoding what it decodes to gives it back. -/
def Obligations.ComputeEncodeOfDecode : Prop :=
  ∀ w : BitVec 80, encodeWord (decodeWord w) = some w

/-- Decode and encode agree on hart instructions whose fields Table 18.5 admits. -/
def Obligations.HartDecodeOfEncode : Prop :=
  ∀ (i : Instr) (w : BitVec 32), encodeHart i = some w → hartFieldsOk i = true →
    decodeHartBytes (bytesOfNat 4 w.toNat) = some (sameWord i)

/-- A core's turn executes the decoded word of the slot at which its chosen group stands, after the core has done what precedes
an issue, and nothing is added around it but the account of what the issue cycle leaves to others; a group that may issue in
the cycle of another executes with the clock at that cycle, and one that may not does nothing; a step of the device that the
agenda names executes with its operands. The agenda is the model's own (log 2). -/
def Obligations.TurnsRunTheirInstruction : Prop :=
  (∀ (s b : State) (c : Nat) (r : List Turn) (w : Workgroup) (g : Group) (x : BitVec 80),
    s.agenda = .core c :: r → ({ s with agenda := r } : State).beforeIssue c = b →
    b.choose c = some (w, g) → b.slotAt w g.pc = some x →
    step s = exec (decodeWord x) { b.setCore { b.core c with pack := b.packOf w g x } with cur := .group w.id g.id })
  ∧ (∀ (s b : State) (c wg grp : Nat) (r : List Turn), s.agenda = .pack c wg grp :: r → { s with agenda := r } = b →
    (∀ p w g x, MayPack b c wg grp p w g x → step s
      = exec (decodeWord x) { (b.setClock c p.bank p.time).setCore
          { (b.setClock c p.bank p.time).core c with pack := some (packedWith b c p w g x) } with cur := .group w.id g.id })
    ∧ ((∀ p w g x, ¬MayPack b c wg grp p w g x) → step s = .next b))
  ∧ ∀ (s : State) (i : Instr) (o : Operands) (r : List Turn), s.agenda = .event i o :: r →
    step s = exec i { s with agenda := r, cur := .none, ev := o }

/-- The turn of a running hart that takes no interrupt: its clock advances, and the four bytes that it fetches at its pc execute
as the instruction they decode to. The agenda is the model's own (log 2). -/
def Obligations.HartTurnRunsDecodedWord : Prop :=
  ∀ (s s1 s2 : State) (n : Nat) (r : List Turn) (h : Hart) (lo hi : Nat) (i : Instr),
    s.agenda = .hart n :: r →
    (({ s with agenda := r } : State).poll).hart? n = some h →
    h.run = .running →
    h.tick.interrupt? = none →
    ((({ s with agenda := r } : State).poll).setHart h.tick).hartParcel h.tick h.tick.pc = (s1, .ok lo) →
    lo % 4 = 3 →
    s1.hartParcel h.tick (h.tick.pc + 2) = (s2, .ok hi) →
    decodeHart (BitVec.ofNat 32 (lo + 65536 * hi)) = some i →
    step s = exec i { s2 with cur := .hart n 4 }

/-- Reset of the 24 harts: at the reset vector in M-mode and integer mode; kd and kc the root capabilities with E = 50 and
B = T = 0, which decode to the whole address space; k0-k15 and the special capability registers 2-7 null but for kmtc and
kmtd, which are copies of kc and kd; `time`, a count of periods of the hart's clock, starts at 0. Power-on from any state
clears every tag and every summary bit, in memory and in the dies' copies of lines, and leaves these registers so, with no hart
released. Which address the reset vector is, is the model's choice (log 5): nothing here rests on it. -/
def Obligations.HartReset : Prop :=
  State.reset.harts.length = 24
    ∧ (∀ n < 24, ∃ h, State.reset.hart? n = some h
      ∧ h.mode = .m ∧ h.cm = false ∧ h.pc = resetVector
      ∧ h.kd.tag = true ∧ h.kd.perms = 0xBFF ∧ h.kd.otype = 0 ∧ h.kd.e = 50 ∧ h.kd.b = 0 ∧ h.kd.t = 0
      ∧ (∀ p, 116 ≤ p → p < 128 → h.kd.has p = (p != pEXEC)) ∧ h.kd.bounds = some (0, 2 ^ 64)
      ∧ h.kc.tag = true ∧ h.kc.otype = 0 ∧ h.kc.e = 50 ∧ h.kc.b = 0 ∧ h.kc.t = 0 ∧ h.kc.cursor = h.pc
      ∧ (∀ p, 116 ≤ p → p < 128 → h.kc.has p = (p == pGLOBAL || p == pEXEC || p == pLOAD || p == pSYSTEM)) ∧ h.kc.bounds = some (0, 2 ^ 64)
      ∧ h.k = List.replicate 16 Cap.null
      ∧ h.kmtc = h.kc ∧ h.kmtd = h.kd
      ∧ h.kmepc = .null ∧ h.kstc = .null ∧ h.kstd = .null ∧ h.ksepc = .null
      ∧ h.kprio = 0 ∧ h.kslot = 0 ∧ h.hc = 0)
    ∧ ∀ s : State, ∃ t, exec .powerOn s = .next t ∧ t.tags = [] ∧ t.summary = [] ∧ (∀ c ∈ t.copies, c.tags = 0)
      ∧ t.harts = State.reset.harts ∧ ∀ h ∈ t.harts, h.run = .reset

/-! Arithmetic. -/

/-- The operations of the integer instructions give what Table 8.4 writes, in exact integer arithmetic: wrapped, saturated
with `.sat`, unsigned with `.u`. -/
def Obligations.IntegerArithmetic : Prop :=
  ∀ a b c : Word,
    opIadd false a b = wrap (a.toInt + b.toInt) ∧ opIadd true a b = satSigned (a.toInt + b.toInt)
    ∧ opIsub false a b = wrap (a.toInt - b.toInt) ∧ opIsub true a b = satSigned (a.toInt - b.toInt)
    ∧ opImul a b = wrap (a.toInt * b.toInt) ∧ opImul a b = wrap ((a.toNat : Int) * b.toNat)
    ∧ (∀ u, opImulhi u a b = wrap (operand u a * operand u b / 2 ^ 32))
    ∧ (∀ u, opImad u false a b c = wrap (operand u a * operand u b + operand u c))
    ∧ opImad false true a b c = satSigned (a.toInt * b.toInt + c.toInt)
    ∧ opImad true true a b c = satUnsigned ((a.toNat : Int) * b.toNat + c.toNat)
    ∧ (∀ u, operand u (opImin u a b) = min (operand u a) (operand u b))
    ∧ (∀ u, operand u (opImax u a b) = max (operand u a) (operand u b))
    ∧ opIabs false a = wrap a.toInt.natAbs ∧ opIabs true a = satSigned a.toInt.natAbs
    ∧ opIneg false a = wrap (-a.toInt) ∧ opIneg true a = satSigned (-a.toInt)
    ∧ opShl a b = (if 32 ≤ b.toNat then 0 else wrap (a.toNat * 2 ^ b.toNat))
    ∧ (opShr a b).toNat = (if 32 ≤ b.toNat then 0 else a.toNat / 2 ^ b.toNat)
    ∧ (opSar a b).toInt = a.toInt / 2 ^ min b.toNat 31
    ∧ (opPopc a).toNat = ((List.range 32).filter fun i => a.getLsbD i).length

/-- The bitwise and bit-field operations, bit by bit: AND, OR, XOR, ANDN, ROT, BREV, CLZ, and BFX and BFI with the field's
position in b<7:0>, its length in b<15:8> and the width n of R203. ISET compares bits, or the operands' values, signed or
unsigned (R204); PLOP's functions, inversions and accumulations are those of R187; each bit of PRMT is one of the 64 bits of
the pool b, a, filled and inverted as its selector byte says (R226); and LRED's butterfly gives every lane the same value, the
reduction in halves of R89, which for the integer forms is the wrapped sum, the least, the greatest, or each bit's
conjunction, disjunction or parity (R225). -/
def Obligations.BitOperations : Prop :=
  (∀ (a b c : Word) (i : Nat), i < 32 →
    (opAnd a b).getLsbD i = (a.getLsbD i && b.getLsbD i)
    ∧ (opOr a b).getLsbD i = (a.getLsbD i || b.getLsbD i)
    ∧ (opXor a b).getLsbD i = (a.getLsbD i ^^ b.getLsbD i)
    ∧ (opAndn a b).getLsbD i = (a.getLsbD i && !b.getLsbD i)
    ∧ (opRot a b).getLsbD ((i + b.toNat) % 32) = a.getLsbD i
    ∧ (opBrev a).getLsbD i = a.getLsbD (31 - i)
    ∧ ((opClz a).toNat ≤ 31 - i ↔ ∃ j, i ≤ j ∧ a.getLsbD j = true)
    ∧ (opBfx true a b).getLsbD i = (decide (i < fieldWidth b) && a.getLsbD (b.toNat % 256 + i))
    ∧ (opBfx false a b).getLsbD i
        = (decide (0 < fieldWidth b) && a.getLsbD (b.toNat % 256 + min i (fieldWidth b - 1)))
    ∧ (opBfi a b c).getLsbD i
        = (if b.toNat % 256 ≤ i ∧ i < b.toNat % 256 + fieldWidth b then c.getLsbD (i - b.toNat % 256) else a.getLsbD i))
  ∧ (∀ (a b : Word) (u : Bool), (opIset u 0 a b = true ↔ a = b) ∧ (opIset u 1 a b = true ↔ a ≠ b)
    ∧ (opIset u 2 a b = true ↔ operand u a < operand u b) ∧ (opIset u 3 a b = true ↔ operand u a ≤ operand u b)
    ∧ (opIset u 4 a b = true ↔ operand u a > operand u b) ∧ (opIset u 5 a b = true ↔ operand u a ≥ operand u b))
  ∧ (∀ (x y na nb nc old : Bool) (acc : BitVec 2), ∃ r : BitVec 3 → Bool,
    (∀ fn : BitVec 3, fn.toNat ≤ 3 → opPlop fn acc na nb nc x y old
      = if acc = 0 then r fn else if acc = 1 then old && r fn else if acc = 2 then old || r fn else old ^^ r fn)
    ∧ (r 0 = true ↔ ((x ≠ na ∧ y ≠ nb) ↔ nc = false)) ∧ (r 1 = true ↔ ((x ≠ na ∨ y ≠ nb) ↔ nc = false))
    ∧ (r 2 = true ↔ ((¬(x ≠ na ↔ y ≠ nb)) ↔ nc = false)) ∧ (r 3 = true ↔ (x ≠ na ↔ nc = false)))
  ∧ (∀ (a b c : Word) (i j : Nat), i < 4 → j < 8 → ∀ n, n = 8 * (c.toNat / 2 ^ (8 * i) % 8) →
    (opPrmt a b c).getLsbD (8 * i + j) = (c.getLsbD (8 * i + 6) ^^
      match c.getLsbD (8 * i + 5), c.getLsbD (8 * i + 4) with
      | false, false => (b ++ a).getLsbD (n + if c.getLsbD (8 * i + 3) then 7 - j else j)
      | false, true => false
      | true, false => true
      | true, true => (b ++ a).getLsbD (n + if c.getLsbD (8 * i + 3) then 0 else 7)))
  ∧ ∀ (k : Nat) (ys : List Word), k ≤ 6 → ys.length = 2 ^ k → ∀ code < 9, ∀ p < 2 ^ k,
    ∀ r, r = ((lredRounds code 7 1 (ys.map fun y => (y, 0))).getD p (0, 0)).1 →
      r = inHalvesBy (fun x y => (lredCombine code x y).1) k ys
      ∧ (code = 1 → r = wrap (ys.map BitVec.toInt).sum)
      ∧ (code = 2 → r ∈ ys ∧ ∀ y ∈ ys, r.toInt ≤ y.toInt) ∧ (code = 3 → r ∈ ys ∧ ∀ y ∈ ys, y.toInt ≤ r.toInt)
      ∧ (code = 4 → r ∈ ys ∧ ∀ y ∈ ys, r.toNat ≤ y.toNat) ∧ (code = 5 → r ∈ ys ∧ ∀ y ∈ ys, y.toNat ≤ r.toNat)
      ∧ ∀ i < 32, (code = 6 → r.getLsbD i = ys.all fun y => y.getLsbD i)
        ∧ (code = 7 → r.getLsbD i = ys.any fun y => y.getLsbD i)
        ∧ (code = 8 → r.getLsbD i = decide ((ys.filter fun y => y.getLsbD i).length % 2 = 1))

/-- Every pattern of the five floating-point formats that is no NaN is the pattern of its own value: decoding loses
nothing, for subnormals, zeros of both signs and infinities too. A NaN becomes the canonical NaN. A pattern's value is that of
its sign, exponent and fraction fields (R68), FCLASS sets the one bit of Table 9.3 that they name (R214), and FCVT to an integer
rounds the value, saturates and raises the flags of Table 9.6 (R218). -/
def Obligations.FloatPatternsRoundTrip : Prop :=
  (∀ f ∈ [fp32, fp16, bf16, e4m3, e5m2], ∀ p < 2 ^ f.width,
    f.encode (f.decode p) = (if (f.decode p).isNan then f.canonNan else p)
    ∧ ∀ n ex fr, n = p.testBit (f.width - 1) → ex = p / 2 ^ f.fbits % 2 ^ f.ebits → fr = p % 2 ^ f.fbits →
      (ex = 0 → IsValue (f.decode p) (exactOf n fr (1 - (f.bias : Int) - f.fbits)))
      ∧ (0 < ex → ex < 2 ^ f.ebits - 1 → IsValue (f.decode p) (exactOf n (2 ^ f.fbits + fr) ((ex : Int) - f.bias - f.fbits)))
      ∧ (ex = 2 ^ f.ebits - 1 → f ≠ e4m3 → f.decode p = if fr = 0 then .inf n else .nan (fr < 2 ^ (f.fbits - 1)))
      ∧ (ex = 15 → f = e4m3 → fr ≠ 7 → IsValue (f.decode p) (exactOf n (8 + fr) 5)) ∧ (ex = 15 → f = e4m3 → fr = 7 → f.decode p = .nan false))
  ∧ (∀ (w : Word) (ex fr : Nat), ex = w.toNat / 2 ^ 23 % 256 → fr = w.toNat % 2 ^ 23 →
    fclass32 w = if ex = 255 then (if fr = 0 then (if w.getLsbD 31 then 0x001 else 0x080) else if fr < 2 ^ 22 then 0x100 else 0x200)
      else if ex = 0 then (if fr = 0 then (if w.getLsbD 31 then 0x008 else 0x010) else if w.getLsbD 31 then 0x004 else 0x020)
      else if w.getLsbD 31 then 0x002 else 0x040)
  ∧ ∀ f ∈ [fp32, fp16, bf16, e4m3, e5m2], ∀ (sg : Bool) (wd : Nat) (mode : RMode) (scale : BitVec 4) (clamp : BitVec 2) (bound : Word) (p : Nat),
    wd = 8 ∨ wd = 32 →
    (∀ q k r, IsValue (f.decode p) q → RoundsTo mode q k →
      r = min (max k (if sg then -2 ^ (wd - 1) else 0)) (if sg then 2 ^ (wd - 1) - 1 else 2 ^ wd - 1) →
      fcvtElem (.fp f) (.int sg wd) mode scale clamp bound p
        = ((BitVec.ofInt wd r).toNat, if r ≠ k then 16 else if (k : Rat) = q then 0 else 1))
    ∧ ((f.decode p).isNan = true → fcvtElem (.fp f) (.int sg wd) mode scale clamp bound p = (0, 16))
    ∧ ∀ n, f.decode p = .inf n → fcvtElem (.fp f) (.int sg wd) mode scale clamp bound p
      = ((BitVec.ofInt wd (if n then (if sg then -2 ^ (wd - 1) else 0) else if sg then 2 ^ (wd - 1) - 1 else 2 ^ wd - 1)).toNat, 16)

/-- abs clears the sign bit of a pattern and neg then inverts it, of a NaN too, which stays a NaN and stays signalling; they
raise no flag. An exact zero sum of operands with opposite signs is +0, or -0 rounding down; a sum of two zeros of one sign
keeps it; and rounding and encoding keep a zero's sign. FMIN and FMAX give the lesser or the greater of two numbers, -0 below
+0; of a NaN and a number the canonical NaN, or the number with `.num`; of two NaNs the canonical NaN; and any signalling NaN
raises NV. -/
def Obligations.SignsOfOperandsAndZeros : Prop :=
  (∀ f ∈ [fp32, fp16, bf16, e4m3, e5m2], ∀ p < 2 ^ f.width, ∀ neg abs : Bool,
    f.modSource neg abs p < 2 ^ f.width
    ∧ (∀ i < f.width - 1, (f.modSource neg abs p).testBit i = p.testBit i)
    ∧ (f.modSource neg abs p).testBit (f.width - 1) = ((p.testBit (f.width - 1) && !abs) ^^ neg)
    ∧ (f.decode (f.modSource neg abs p)).isNan = (f.decode p).isNan
    ∧ (f.decode (f.modSource neg abs p)).isSignalling = (f.decode p).isSignalling)
  ∧ (∀ (mode : RMode) (n : Bool) (m d : Nat) (e : Int),
    FVal.add mode (.num n (m * 2 ^ d) e false) (.num (!n) m (e + d) false) = (.zero (mode == .rd), 0)
    ∧ FVal.add mode (.num n m (e + d) false) (.num (!n) (m * 2 ^ d) e false) = (.zero (mode == .rd), 0)
    ∧ FVal.add mode (.num n (m * 2 ^ d) e false) (FVal.num n m (e + d) false).neg = (.zero (mode == .rd), 0))
  ∧ (∀ (mode : RMode) (n : Bool) (e e' : Int), FVal.add mode (.num n 0 e false) (.num n 0 e' false) = (.zero n, 0))
  ∧ (∀ f ∈ [fp32, fp16, bf16, e4m3, e5m2], ∀ (mode : RMode) (n : Bool), f.round mode (.zero n) = (.zero n, 0)
    ∧ f.encode (.zero n) = if n then 2 ^ (f.width - 1) else 0)
  ∧ (∀ (x y : FVal) (p q : Rat) (num : Bool), IsValue x p → IsValue y q →
    (p < q → FVal.minMax false num x y = (x, 0) ∧ FVal.minMax false num y x = (x, 0)
      ∧ FVal.minMax true num x y = (y, 0) ∧ FVal.minMax true num y x = (y, 0))
    ∧ (p = q → q ≠ 0 → ∀ g, ∃ z, FVal.minMax g num x y = (z, 0) ∧ IsValue z p))
  ∧ (∀ (num : Bool) (e e' : Int) (n n' : Bool),
    FVal.minMax false num (.num n 0 e false) (.num n' 0 e' false)
      = (if n then .num n 0 e false else .num n' 0 e' false, 0)
    ∧ FVal.minMax true num (.num n 0 e false) (.num n' 0 e' false)
      = (if n then .num n' 0 e' false else .num n 0 e false, 0))
  ∧ (∀ (num n : Bool) (x : FVal), x.isNan = false →
    FVal.minMax false num (.inf n) x = (if n then .inf n else x, 0) ∧ FVal.minMax false num x (.inf n) = (if n then .inf n else x, 0)
    ∧ FVal.minMax true num (.inf n) x = (if n then x else .inf n, 0) ∧ FVal.minMax true num x (.inf n) = (if n then x else .inf n, 0))
  ∧ ∀ (g : Bool) (x y : FVal), (x.isNan = true ∨ y.isNan = true) →
    FVal.minMax g false x y = (.nan false, invalidOf x y)
    ∧ FVal.minMax g true x y = (if x.isNan && y.isNan then .nan false else if x.isNan then y else x, invalidOf x y)

/-- Rounding a magnitude m · 2^e to a multiple of 2^q: to nearest it is within half a unit and a tie goes to the even
multiple; towards zero it is the multiple below; up and down go by the sign; and it is exact just when nothing is lost. What is
rounded is the exact product, sum or fused result (R210), an operand scaled by a power of two (R211), the integral value of FRND
with its operand's sign (R217), or a reciprocal or root known to far more bits than a rounding needs, with whether anything is
lost (R215); FEX2 of an integer and FLG2 of a power of two are exact; FSET orders the values (R213). Operands that are no finite
numbers give the results of Tables 9.1, 9.2, 9.4 and 9.5. -/
def Obligations.RoundingIsCorrect : Prop :=
  (∀ (neg : Bool) (m d : Nat) (e : Int), 0 < d →
    (∀ k, (roundTo .rne neg m e (e + d) false).1 = k →
      2 * (k * 2 ^ d) ≤ 2 * m + 2 ^ d ∧ 2 * m ≤ 2 * (k * 2 ^ d) + 2 ^ d
        ∧ (2 * (k * 2 ^ d) = 2 * m + 2 ^ d ∨ 2 * m = 2 * (k * 2 ^ d) + 2 ^ d → k % 2 = 0))
    ∧ (roundTo .rz neg m e (e + d) false).1 = m / 2 ^ d
    ∧ (roundTo .ru neg m e (e + d) false).1 = (if neg then m / 2 ^ d else (m + 2 ^ d - 1) / 2 ^ d)
    ∧ (roundTo .rd neg m e (e + d) false).1 = (if neg then (m + 2 ^ d - 1) / 2 ^ d else m / 2 ^ d)
    ∧ ∀ mode, (roundTo mode neg m e (e + d) false).2 = true ↔ m % 2 ^ d = 0)
  ∧ (∀ (mode : RMode) (x y z : FVal) (p q r : Rat), IsValue x p → IsValue y q → IsValue z r →
    (∃ v, x.mul y = (v, 0) ∧ IsValue v (p * q) ∧ v.sign = (x.sign != y.sign))
    ∧ (p + q ≠ 0 → ∃ v, FVal.add mode x y = (v, 0) ∧ IsValue v (p + q))
    ∧ (p * q + r ≠ 0 → ∃ v, FVal.fma mode x y z = (v, 0) ∧ IsValue v (p * q + r))
    ∧ (∀ b : Word, -2000 ≤ b.toInt → b.toInt ≤ 2000 → ∃ v, fsclVal x b = (v, 0) ∧ IsValue v (p * twoTo b.toInt) ∧ v.sign = x.sign)
    ∧ (∀ k, RoundsTo mode p k → ∃ v, FVal.roundIntegral mode x = (v, 0) ∧ IsValue v k ∧ v.sign = x.sign)
    ∧ FVal.compareBy 0 x y = (decide (p = q), 0) ∧ FVal.compareBy 1 x y = (decide (p ≠ q), 0)
    ∧ FVal.compareBy 2 x y = (decide (p < q), 0) ∧ FVal.compareBy 3 x y = (decide (p ≤ q), 0)
    ∧ FVal.compareBy 4 x y = (decide (q < p), 0) ∧ FVal.compareBy 5 x y = (decide (q ≤ p), 0)
    ∧ FVal.compareBy 6 x y = (false, 0) ∧ FVal.compareBy 7 x y = (true, 0))
  ∧ (∀ (mode : RMode) (x y z : FVal), (x.isNan = true ∨ y.isNan = true) →
    x.mul y = (.nan false, invalidOf x y) ∧ FVal.add mode x y = (.nan false, invalidOf x y)
    ∧ (FVal.fma mode x y z).1 = .nan false
    ∧ ∀ code : BitVec 3, FVal.compareBy code x y
      = (decide (code = 1 ∨ code = 6), if 2 ≤ code.toNat ∧ code.toNat ≤ 5 then 16 else invalidOf x y))
  ∧ (∀ (mode : RMode) (n n' st : Bool) (m : Nat) (e : Int) (z : FVal),
    (FVal.inf n).mul (.inf n') = (.inf (n != n'), 0)
    ∧ (FVal.inf n).mul (.num n' m e st) = (if m = 0 then (.nan false, 16) else (.inf (n != n'), 0))
    ∧ (FVal.num n m e st).mul (.inf n') = (if m = 0 then (.nan false, 16) else (.inf (n != n'), 0))
    ∧ FVal.fma mode (.inf n) (.num n' 0 e st) z = (.nan false, 16) ∧ FVal.fma mode (.num n 0 e st) (.inf n') z = (.nan false, 16)
    ∧ FVal.add mode (.inf n) (.inf n') = (if n = n' then (.inf n, 0) else (.nan false, 16))
    ∧ FVal.add mode (.inf n) (.num n' m e st) = (.inf n, 0) ∧ FVal.add mode (.num n m e st) (.inf n') = (.inf n', 0))
  ∧ (∀ (m : Nat) (e : Int), 0 < m → m < 2 ^ 24 →
    (∀ n, ∃ k d st, frcpVal (.num n m e false) = (.num n k d st, 0) ∧ 2 ^ 64 ≤ k
      ∧ exactOf false k d * exactOf false m e ≤ 1 ∧ 1 < exactOf false (k + 1) d * exactOf false m e
      ∧ (st = false ↔ exactOf false k d * exactOf false m e = 1))
    ∧ (∃ k d st, fsqrtVal (.num false m e false) = (.num false k d st, 0) ∧ 2 ^ 32 ≤ k
      ∧ exactOf false k d * exactOf false k d ≤ exactOf false m e ∧ exactOf false m e < exactOf false (k + 1) d * exactOf false (k + 1) d
      ∧ (st = false ↔ exactOf false k d * exactOf false k d = exactOf false m e))
    ∧ (∃ k d st, frsqVal (.num false m e false) = (.num false k d st, 0) ∧ 2 ^ 32 ≤ k
      ∧ exactOf false k d * exactOf false k d * exactOf false m e ≤ 1
      ∧ 1 < exactOf false (k + 1) d * exactOf false (k + 1) d * exactOf false m e
      ∧ (st = false ↔ exactOf false k d * exactOf false k d * exactOf false m e = 1))
    ∧ (∀ k : Nat, 0 < k → k ≤ 1000 → -149 ≤ e → exactOf false m e = k →
      ∀ n, fex2Val (.num n m e false) = (.num false 1 (if n then -(k : Int) else k) false, 0))
    ∧ (∀ a : Nat, m = 2 ^ a → ∃ v, flg2Val (.num false m e false) = (v, 0) ∧ IsValue v ((a : Int) + e : Int)
      ∧ (a + e = 0 → v.sign = false))
    ∧ fsqrtVal (.num true m e false) = (.nan false, 16) ∧ frsqVal (.num true m e false) = (.nan false, 16)
    ∧ flg2Val (.num true m e false) = (.nan false, 16))
  ∧ (∀ (n : Bool) (e : Int),
    frcpVal (.num n 0 e false) = (.inf n, 8) ∧ frsqVal (.num n 0 e false) = (.inf n, 8)
    ∧ fsqrtVal (.num n 0 e false) = (.zero n, 0) ∧ fex2Val (.num n 0 e false) = (.num false 1 0 false, 0)
    ∧ flg2Val (.num n 0 e false) = (.inf true, 8) ∧ sinCosVal false (.num n 0 e false) = (.zero n, 0)
    ∧ sinCosVal true (.num n 0 e false) = (.num false 1 0 false, 0) ∧ ftanhVal (.num n 0 e false) = (.zero n, 0)
    ∧ frcpVal (.inf n) = (.zero n, 0) ∧ frsqVal (.inf n) = (if n then (.nan false, 16) else (.zero false, 0))
    ∧ fsqrtVal (.inf n) = (if n then (.nan false, 16) else (.inf false, 0))
    ∧ fex2Val (.inf n) = (if n then .zero false else .inf false, 0)
    ∧ flg2Val (.inf n) = (if n then (.nan false, 16) else (.inf false, 0))
    ∧ (∀ c, sinCosVal c (.inf n) = (.nan false, 16)) ∧ ftanhVal (.inf n) = (.num n 1 0 false, 0)
    ∧ (∀ mode, FVal.roundIntegral mode (.inf n) = (.inf n, 0)) ∧ ∀ b, fsclVal (.inf n) b = (.inf n, 0))
  ∧ ∀ (s : Bool) (f : FVal → FVal × FpFlags), f ∈ [frcpVal, frsqVal, fsqrtVal, fex2Val, flg2Val, sinCosVal false, sinCosVal true,
      ftanhVal, FVal.roundIntegral .rne, FVal.roundIntegral .rz, FVal.roundIntegral .ru, FVal.roundIntegral .rd, (fsclVal · 0)] →
    f (.nan s) = (.nan false, if s then 16 else 0)

/-- The bounds of a capability survive their encoding: for a requested region the encoder's lo and hi enclose it, decoding
the encoded fields at the region's base gives lo and hi back, and a region of up to 4096 bytes is exact. -/
def Obligations.BoundsSurviveEncoding : Prop :=
  ∀ lo hi : Nat, lo ≤ hi → hi ≤ 2 ^ 64 → lo < 2 ^ 64 → ∀ l h e b t exact, encodeBounds lo hi = (l, h, e, b, t, exact) →
    l ≤ lo ∧ hi ≤ h ∧ decodeBounds e.toNat b.toNat t.toNat lo = some (l, h)
      ∧ (exact = true ↔ l = lo ∧ h = hi)
      ∧ (hi ≤ lo + 4096 → exact = true)

/-- Derivation never gives more than its source has: of a capability derived by KSETA, KINC, KBND, KBNDX or KANDP that is
valid, the source is valid, its bounds lie within the source's and its permissions are among the source's. -/
def Obligations.DerivationNeverGrows : Prop :=
  ∀ (c d : Cap) (x : Int) (len : Nat) (mask : BitVec 12),
    (d = c.withCursor x ∨ d = capInc c x ∨ d = capBnd c len ∨ capBndx c len = .ok d ∨ d = capAndp c mask) →
    d.valid = true →
    c.valid = true ∧ c.base ≤ d.base ∧ d.top ≤ c.top ∧ d.perms &&& c.perms = d.perms ∧ d.otype = c.otype

/-! Fixed-latency instructions. -/

/-- Every integer instruction, ISET, SEL and PLOP completes: when it issues without a fault, each active lane's result is on
its way, due 2 ac after the last chunk, and issuing changes nothing else. With no older result on its way, SEL's register then
holds what a holds in a lane whose predicate is true, or false with `.not`, and what b holds in another, poison with it (R205).
An instruction of a compute core that is no transfer and whose guard is false in every lane takes one issue cycle and changes
nothing else (R19, R142). -/
def Obligations.IntegerInstructionsComplete : Prop :=
  (∀ (i : Instr) (h : Head) (res : Lane → List Wr) (s : State) (w : Workgroup) (g : Group),
    integerRow i = some (h, res) → Issues s i h w g →
    ∃ t, exec i s = .next t ∧ OnlyIssued s t w g i h
      ∧ Delivered w (s.issueLanes w g i h) res (lastChunk s w g i h + 2) t)
  ∧ (∀ (h : Head) (b : RBody) (s : State) (w : Workgroup) (g : Group), Issues s (.sel h b) h w g → w.pend = [] → b.d.toNat < 0xC0 →
    ∃ t w', exec (.sel h b) s = .next t ∧ t.wg? w.id = some w'
      ∧ ∀ l ∈ s.issueLanes w g (.sel h b) h, ∀ th, w.thread? l.tid = some th → b.d.toNat < th.v.length →
        (w'.settle (lastChunk s w g (.sel h b) h + 2)).reg l.tid b.d.toNat
          = w.reg l.tid (if w.preg l.tid (b.c.toNat % 8) = b.variant.getLsbD 0 then b.b else b.a).toNat)
  ∧ ∀ (i : Instr) (h : Head) (s : State) (w : Workgroup) (g : Group), headOf i = some h → s.current = some (w, g) →
    (formOf (formCtx w g 0) i).transfer = false → s.groupReady w g i h false = true → s.issueLanes w g i h = [] →
    ∃ t w', exec i s = .next t ∧ OnlyIssued s t w g i h ∧ t.clockOf w = s.clockOf w + 1 ∧ t.wg? w.id = some w' ∧ w'.pend = w.pend

/-- The same of every floating-point and packed-half instruction, with its own latency and its exception flags. Each half of a
packed result is that of the operands' same halves, rounded, scaled and clamped on its own (R219). -/
def Obligations.FloatInstructionsComplete : Prop :=
  (∀ (i : Instr) (h : Head) (lat : Nat) (res : Lane → List Wr) (s : State) (w : Workgroup) (g : Group),
    floatRow i = some (h, lat, res) → Issues s i h w g →
    ∃ t, exec i s = .next t ∧ OnlyIssued s t w g i h
      ∧ Delivered w (s.issueLanes w g i h) res (lastChunk s w g i h + lat) t)
  ∧ ∀ (l : Lane) (b : RBody) (f : FVal → FVal → FVal → FVal × FpFlags) (ws : List Wr) (fmt : FpFormat) (v : Nat → Nat),
    halfResult l b f = .ok ws → fmt = (if b.variant.getLsbD 0 then bf16 else fp16) →
    (∀ i, v i = (fmt.dest .rne b.scale b.clamp (l.first.reg l.tid 0xFE).val
      (f (halfOf fmt l i b.a b.na b.aa) (halfOf fmt l i b.b b.nb b.ab) (halfOf fmt l i b.c b.nc b.ac)).1).1) →
    v 0 < 65536 → v 1 < 65536 → ∃ x : Word, ws.head? = some (wrByte l.tid b.d.toNat x) ∧ x.toNat = v 1 * 65536 + v 0

/-- The same of the lane, move and special-register reads, which see the group's other members as the first chunk does. With no
older result on its way, SHFL's register then holds what a holds in the member at the source position that its mode names, or
what the lane's own holds where there is no such member, poison with it (R223). -/
def Obligations.LaneInstructionsComplete : Prop :=
  (∀ (i : Instr) (h : Head) (lat : Nat) (res : Lane → List Wr) (s : State) (w : Workgroup) (g : Group),
    laneRow ⟨w.settle (s.clockOf w), g, s.issueLanes w g i h⟩ i = some (h, lat, res) → Issues s i h w g →
    ∃ t, exec i s = .next t ∧ OnlyIssued s t w g i h
      ∧ Delivered w (s.issueLanes w g i h) res (lastChunk s w g i h + lat) t)
  ∧ ∀ (h : Head) (b : RBody) (s : State) (w : Workgroup) (g : Group), Issues s (.shfl h b) h w g → w.pend = [] → b.d.toNat < 0xC0 →
    (g.members.map Prod.fst).Nodup → (g.members.map Prod.snd).Nodup →
    ∃ t w', exec (.shfl h b) s = .next t ∧ t.wg? w.id = some w'
      ∧ ∀ l ∈ s.issueLanes w g (.shfl h b) h, ∀ th from_, w.thread? l.tid = some th → b.d.toNat < th.v.length →
        from_ = shuffleFrom (b.variant.extractLsb' 0 2) l.pos
          (if b.variant.getLsbD 2 then b.b.toNat % 64 else (w.reg l.tid b.b.toNat).val.toNat) →
        (∀ m ∈ g.members, (m.1 : Int) = from_ →
          (w'.settle (lastChunk s w g (.shfl h b) h + 6)).reg l.tid b.d.toNat = w.reg m.2 b.a.toNat)
        ∧ ((∀ m ∈ g.members, (m.1 : Int) ≠ from_) →
          (w'.settle (lastChunk s w g (.shfl h b) h + 6)).reg l.tid b.d.toNat = w.reg l.tid b.a.toNat)

/-- The same of the seventeen capability instructions, where no lane's derivation fails its check. -/
def Obligations.CapabilityInstructionsComplete : Prop :=
  ∀ (i : Instr) (h : Head) (f : Lane → Except CapFault (List Wr)) (res : Lane → List Wr) (s : State) (w : Workgroup) (g : Group),
    capabilityRow i = some (h, f) → Issues s i h w g → (∀ l ∈ s.issueLanes w g i h, f l = .ok (res l)) →
    ∃ t, exec i s = .next t ∧ OnlyIssued s t w g i h
      ∧ Delivered w (s.issueLanes w g i h) res (lastChunk s w g i h + 2) t

/-- SETSR completes: when its last chunk issues, fpflags take bits 4-0 of the lowest active lane's register, and nothing but
the workgroups and the clocks changes; its registers are those that its results due before that chunk leave. -/
def Obligations.SetsrWritesFpflags : Prop :=
  ∀ (h : Head) (b : IBody) (s : State) (w : Workgroup) (g : Group), Issues s (.setsr h b) h w g →
    ∃ t w', exec (.setsr h b) s = .next t ∧ t = { s with wgs := t.wgs, cores := t.cores }
      ∧ t.clockOf w = lastChunk s w g (.setsr h b) h + 1
      ∧ t.wg? w.id = some w'
      ∧ (∀ l ∈ (s.issueLanes w g (.setsr h b) h).head?, w'.fpflags = (l.reg b.a).extractLsb' 0 5)
      ∧ ∀ tid n, w'.reg tid n = (w.settle (lastChunk s w g (.setsr h b) h - 1)).reg tid n
        ∧ w'.kreg tid n = (w.settle (lastChunk s w g (.setsr h b) h - 1)).kreg tid n

/-- A result is written when it is due and not before: after the results due by a time have landed, a v-register, a
k-register other than k0, an s-register other than s63 and a predicate other than p7 hold the last write due to them, or
what they held; k0 reads null, s63 zero and p7 true; those due later are still on their way; and raised flags stay. -/
def Obligations.ResultsLandWhenDue : Prop :=
  ∀ (w : Workgroup) (time : Nat),
    (w.settle time).pend = w.pend.filter (fun p => time < p.due)
    ∧ (∀ tid th, w.thread? tid = some th →
        (∀ n < 0xC0, n < th.v.length → (w.settle time).reg tid n = (lastV (dueBy w time) tid n).getD (w.reg tid n))
        ∧ (∀ n, n ≠ 0 → n < th.k.length → (w.settle time).kreg tid n = (lastK (dueBy w time) tid n).getD (w.kreg tid n))
        ∧ (∀ n < 7, (w.settle time).preg tid n = (lastP (dueBy w time) tid n).getD (w.preg tid n)))
    ∧ (∀ tid, ∀ n < 63, n < w.s.length → (w.settle time).reg tid (0xC0 + n) = (lastS (dueBy w time) n).getD (w.reg tid (0xC0 + n)))
    ∧ (∀ tid, (w.settle time).reg tid 0xFF = ⟨0, false⟩ ∧ (w.settle time).kreg tid 0 = ⟨.null, false⟩
        ∧ (w.settle time).preg tid 7 = true)
    ∧ (w.settle time).fpflags &&& w.fpflags = w.fpflags

/-! Memory instructions. -/

/-- Every load, store, full/empty access, atomic, reduction, monitor and lock completes its issue: where the lanes' accesses
pass their checks, each lane has sent its request, with its operation, its bytes' physical addresses, order, scope and wait
tag, and the tags are pending; the group goes on, and no register is written. That the walk and the checks are one step at
issue, and where a poisoned strong load faults, are the model's choices (log 19). -/
def Obligations.AccessesSendRequests : Prop :=
  ∀ (i : Instr) (r : MemoryRow) (s : State) (w : Workgroup) (g : Group) (rs : List Request) (t : State),
    memoryRow i = some r → Issues s i r.h w g →
    AccessesPass r (s.issueCtx w g i r.h) (s.issuedBy w g i r.h).nextId (s.issueLanes w g i r.h) true
      (s.issuedBy w g i r.h).newId.2 rs t →
    exec i s = .next (acOver s (tagged t w r.h (s.issueLanes w g i r.h)) w g i r.h)
      ∧ rs.length = (s.issueLanes w g i r.h).length
      ∧ ∀ x ∈ (s.issueLanes w g i r.h).zip rs,
        x.2.who = .thread w.id x.1.tid ∧ x.2.op = r.op x.1 ∧ x.2.size = 2 ^ r.b.size.toNat ∧ x.2.order = r.b.order
        ∧ x.2.scope = r.b.scope.toNat ∧ x.2.tag = r.h.talloc.toNat ∧ x.2.pc = g.pc
        ∧ ∃ q ∈ t.reqs, q.id = x.2.id ∧ q.who = x.2.who ∧ q.op = x.2.op ∧ q.pas = x.2.pas

/-- What issuing an access leaves alone: the registers of every thread, every hart, and all the rest of the state but the
requests, the used channels and what translation caches; of memory, every byte but those of the lines of the page-table
entries that the lanes' walks read (spec/20 R409, R413), with tags, poison, copies, L1s and directory. The entries are those of
the model's own walk, each page's in the state that the pages and lanes before have left. In such a line a byte holds what the
die last wrote to it, for the walker reads as a strong read does and the die's copy goes home first (R100, R413); and in the leaf
only the A and D bits may be gained. That the walk, its marks and the check are one step at issue is
log 19's reading. -/
def Obligations.AccessFrame : Prop :=
  ∀ (r : MemoryRow) (c : IssueCtx) (batch : Nat) (ls : List Lane) (lowest : Bool) (s : State) (rs : List Request) (t : State),
    AccessesPass r c batch ls lowest s rs t →
    (∀ d, Canonical s → (∀ l ∈ ls, dieOfCore l.w.core = d) → WalksRead s t d (entriesOfLanes r c batch ls lowest s))
    ∧ t = { s with mem := t.mem, tags := t.tags, summary := t.summary, poison := t.poison, reservations := t.reservations,
                   tlb := t.tlb, asids := t.asids, reqs := t.reqs, nextId := t.nextId, wgs := t.wgs, launches := t.launches, l1 := t.l1,
                   directory := t.directory, copies := t.copies }
    ∧ (∀ wg tid n, (t.wg? wg).map (fun x => (x.reg tid n, x.kreg tid n, x.preg tid n))
        = (s.wg? wg).map fun x => (x.reg tid n, x.kreg tid n, x.preg tid n))
    ∧ (s.reqs.map Request.id <+: t.reqs.map Request.id)

/-- FENCE, FLUSH, INVAL, PREF, BAR, WREG, WDEREG, WHOLD, TWAIT, SEND, CALLE, RECV, REPLY, NSIG, NWAIT, LAUNCH, SPAWN, REGGIVE,
REGCLAIM, PDIM and PREPEAT complete their issue: where the operands of every lane meet the conditions of the instruction's
rule, every lane's request, with the operation, object, order and scope of that rule, has been sent in ascending position
(PREF sends none), the wait tags are pending, the group goes on one issue cycle for each chunk later, no register is
written, and nothing else happens but what the rule says of the object. The rules are R245 to R247 of the cache
instructions, R267, R270 and R271 of BAR, WREG and WHOLD, R274 and R276 of messages, R296 of TWAIT, R328 and R334 of tasks
and budgets, R335 of LAUNCH and R403 of the prologue. That BAR and TWAIT reach their object at issue is the model's choice
(log 15), and so are the widest scope of a REPLY whose slot keeps no endpoint of this package (log 78), a LAUNCH whose
record no later store of its thread can change (log 87), and the line that PREF leaves in L1 (log 58). -/
def Obligations.SendingInstructionsComplete : Prop :=
  ∀ (i : Instr) (h : Head) (s : State) (w : Workgroup) (g : Group) (rs : List (Nat × Request)) (t : State),
    sendingHead i = some h → Issues s i h w g →
    AllAsk i (s.issueCtx w g i h) (s.issuedBy w g i h).nextId (s.issueLanes w g i h) true (s.issuedBy w g i h).newId.2 rs t →
    ∃ u, exec i s = .next u ∧ u = acOver s (taggedBy t w h rs) w g i h ∧ u.clockOf w = lastChunk s w g i h + 1
      ∧ RegistersKept s u
      ∧ (∀ l ∈ s.issueLanes w g i h, (∃ b, i = .pref h b) ∨ ∃ r, (l.tid, r) ∈ rs)
      ∧ ∀ x ∈ rs, x.2.who = .thread w.id x.1 ∧ x.2.tag = h.talloc.toNat ∧ x.2.pc = g.pc ∧ TagPending u w.id x.1 h
        ∧ ∃ q ∈ u.reqs, q.id = x.2.id ∧ q.who = x.2.who ∧ q.op = x.2.op ∧ q.obj = x.2.obj ∧ q.order = x.2.order
          ∧ q.scope = x.2.scope

/-- TDEF, TSTAT, TREL and GANG complete: they act once, with the lowest active lane's operands, on the workgroup's tile table or
gang registers, and every active lane's request is done with what it writes. Each takes effect when its last chunk issues
and its tag's event is that write (R294, R295, R297, R298); that the tag completes with the step ACCESS_REPLY is the model's
reading (log 59). -/
def Obligations.TileInstructionsComplete : Prop :=
  ∀ (i : Instr) (h : Head) (s : State) (w : Workgroup) (g : Group) (l : Lane) (s1 : State) (ws : Lane → List Wr),
    Issues s i h w g → (s.issueLanes w g i h).head? = some l → TileActs (s.issuedBy w g i h) l i h s1 ws →
    ∃ t rs, exec i s = .next (acOver s (taggedBy t w h rs) w g i h)
      ∧ Sends (fun s _ x r => (s, .ok (some { r with phase := .done (ws x) none }))) (s.issueCtx w g i h) s1.nextId
          (s.issueLanes w g i h) true s1.newId.2 rs t
      ∧ rs.map Prod.fst = (s.issueLanes w g i h).map Lane.tid
      ∧ ∀ x ∈ (s.issueLanes w g i h).zip rs, x.2.2.phase = .done (ws x.1) none

/-- COPY, COPYM, MMA, MMAK, SCACC, ACLR, AINIT and ADRAIN complete their issue: where every lane's gang is live and lists it,
its tensor register names a live record and its descriptor registers are in range and sound, every active lane has arrived
at the latch with the instruction's word and its slice, its request waits for the operation, its wait tag is pending, no
register is written, and while a listed home group has still to arrive the lanes stand in the wait-for table with kind 10.
Under gang0 the rendezvous is complete at issue and the operation stands (R41), with the issuing group alone (log 32). That
a latch is reached at issue is the model's choice (log 15). -/
def Obligations.GangInstructionsComplete : Prop :=
  ∀ (i : Instr) (h : Head) (b : XBody) (n : GangNeeds) (word : BitVec 80) (s : State) (w : Workgroup) (g : Group),
    gangRow i = some (h, b, n) → encodeWord i = some word → Issues s i h w g → FreshNames s → w.life ≠ .retired →
    (∀ x ∈ w.latches, x.gang < 256 + s.nextId) →
    (∀ x ∈ (s.issueLanes w g i h).zipIdx, MayArrive s w b.gang.toNat n x.1 (x.2 = 0)) →
    ∃ t w', exec i s = .next t ∧ t.wg? w.id = some w' ∧ t.clockOf w = lastChunk s w g i h + 1 ∧ RegistersKept s t
      ∧ (w'.latch (latchOf b.gang.toNat s.nextId)).arrivals = (w.latch (latchOf b.gang.toNat s.nextId)).arrivals
          ++ arrivalsOf g word n (s.nextId + 1) (s.issueLanes w g i h)
      ∧ (∀ x ∈ (s.issueLanes w g i h).zipIdx (s.nextId + 1), TagPending t w.id x.1.tid h
        ∧ ∃ q ∈ t.reqs, q.id = x.2 ∧ q.who = .thread w.id x.1.tid ∧ (∃ o, q.op = .gangWait (latchOf b.gang.toNat s.nextId) o ∧ (o = none ↔ b.gang ≠ 0))
          ∧ (q.phase = .waiting ∨ q.phase = .registering))
      ∧ (b.gang ≠ 0 → w'.latchLeft b.gang.toNat ≠ [] → s.tableUse (dieOfCore w.core % 4) < 32768 →
        ∀ l ∈ s.issueLanes w g i h, ∃ e ∈ t.waits, e.kind = 10 ∧ e.obj = w.core ∧ Party.thread w.id l.tid ∈ e.waiters)

/-- PCLAIM, PDONE, SCHRD, SCHWR and COVRD complete their issue: where the lowest active lane's schedule capability is a live
SCHEDULE with INVOKE and the permission asked, its operands are not poisoned and the block is schedule-safe where it must
be, that lane's request is sent to the schedule point, and the others follow it. An asynchronous PCLAIM, with fewer than
four such claims of the workgroup held or on their way and a mailbox that passes the checks of a 24-byte store to a
full/empty page, sends its request with the mailbox's bytes. That the words of the schedule point lie in the SCHEDULE's
memory is the model's choice (log 62). -/
def Obligations.ScheduleInstructionsComplete : Prop :=
  (∀ (i : Instr) (r : OnceRow) (s : State) (w : Workgroup) (g : Group) (l : Lane) (rest : List Lane) (gb : Group),
    scheduleRow i = some r → Issues s i r.h w g → s.issueLanes w g i r.h = l :: rest →
    r.use.find? l.poisoned = none →
    (((s.issuedBy w g i r.h).wg? w.id).bind fun x => x.group? g.id) = some gb → (r.safe = true → gb.blk.safe = true) →
    (l.cap r.k).valid = true → (l.cap r.k).remote = false → (l.cap r.k).otype = 8 → (l.cap r.k).has pINVOKE = true →
    (∀ n ∈ r.need, (l.cap r.k).has n = true) → s.objLive (l.cap r.k).objPa 8 = true →
    ∃ t, exec i s = .next t
      ∧ ∃ q ∈ t.reqs, q.who = .thread w.id l.tid ∧ q.op = .sched (r.act l) ∧ q.obj = (l.cap r.k).objPa ∧ q.order = r.order
        ∧ q.scope = r.scope ∧ q.tag = r.h.talloc.toNat ∧ q.unresolved = true
        ∧ ∀ x ∈ rest, ∃ q' ∈ t.reqs, q'.who = .thread w.id x.tid ∧ q'.op = .follow ∧ q'.batch = q.batch)
  ∧ ∀ (h : Head) (b : MBody) (s : State) (w : Workgroup) (g : Group) (l : Lane) (rest : List Lane) (gb : Group) (s1 : State) (p : Placed),
    Issues s (.pclaim h b) h w g → b.variant.getLsbD 0 = true → s.asyncClaims w.id < 4 →
    s.issueLanes w g (.pclaim h b) h = l :: rest →
    l.poisoned (.k b.k.toNat) = false → l.poisoned (.k (b.data.toNat % 16)) = false →
    (((s.issuedBy w g (.pclaim h b) h).wg? w.id).bind fun x => x.group? g.id) = some gb → gb.blk.safe = true →
    (l.cap b.k).valid = true → (l.cap b.k).remote = false → (l.cap b.k).otype = 8 → (l.cap b.k).has pINVOKE = true →
    s.objLive (l.cap b.k).objPa 8 = true →
    checkAccess (s.issuedBy w g (.pclaim h b) h).newId.2.newId.2 l.w.seat (l.cap (b.data.extractLsb' 0 4)) (b.data.toNat % 16)
      (((l.cap (b.data.extractLsb' 0 4)).cursor.toNat : Int) + b.offset.toInt)
      { perms := [pSTORE], n := 24, align := 32, need := { w := true, fe := true } } = (s1, .ok p) →
    ∃ t, exec (.pclaim h b) s = .next t
      ∧ ∃ q ∈ t.reqs, q.who = .thread w.id l.tid ∧ q.op = .sched .asyncClaim ∧ q.obj = (l.cap b.k).objPa ∧ q.pas = p.pas
        ∧ q.size = 24

/-! Control. -/

/-- BRA, BR, BRX, CALL, RET and REFORM complete. Where every member can go its way and the group stays whole, the group
stands at the destination, about to enter its block; where the ways part, the threads leave the group and are filed at
their destinations, in ascending position, those that REFORM takes under their home group. -/
def Obligations.TransfersComplete : Prop :=
  ∀ (i : Instr) (h : Head) (f : Lane → Option Move) (ms : List Move) (s : State) (w : Workgroup) (g : Group),
    transferRow g.pc i = some (h, f) → Issues s i h w g → (s.issueLanes w g i h).map (goes h g.pc f) = ms.map some →
    (StaysWhole w i ms → ∃ t, exec i s = .next t ∧ Moves s t w g i h ms ∧ t.clockOf w = lastChunk s w g i h + 1
      ∧ ∃ w' g', t.wg? w.id = some w' ∧ w'.group? g.id = some g' ∧ g'.entering = true ∧ g'.members = g.members
        ∧ lastChunk s w g i h < g'.notBefore ∧ ∀ m ∈ ms, g'.pc = m.dest)
    ∧ (¬StaysWhole w i ms → ∃ u, Moves s u w g i h ms ∧ u.clockOf w = lastChunk s w g i h
      ∧ (u.wg? w.id).bind (fun x => x.group? g.id) = none
      ∧ exec i s = .next (acOver s (ms.foldl (fun t m => t.file w.id m.lane.tid m.dest
          (if isReform i && m.taken then some (m.lane.tid / w.w) else none)) u) w g i h))

/-- NOP, EXIT, TRAP, BRK, PCANCEL and YIELD complete: NOP does nothing but issue; EXIT ends every active thread in the ac of its
last chunk, with no register and no memory changed, and a workgroup without a live thread retires; TRAP and BRK hold every
active thread at its own address with code 0x60 or 0x61 and report it, the immediate as auxiliary word 0; PCANCEL cancels its
prologue's launch and ends the prologue; YIELD's group gives way for 64 issue cycles. A word whose opcode no chapter assigns
faults ILLEGAL_OP in every active lane, whatever else it holds, with auxiliary word 0x10; RED.xchg, RED.cas and RED.bfadd,
which no row lists, fault with 0x13 where their fields hold defined values. -/
def Obligations.ControlCompletes : Prop :=
  (∀ (h : Head) (b : RBody) (x : IBody) (s : State) (w : Workgroup) (g : Group),
    (Issues s (.nop h b) h w g → ∃ t, exec (.nop h b) s = .next t ∧ OnlyIssued s t w g (.nop h b) h)
    ∧ (Issues s (.exit h b) h w g → ∃ t, exec (.exit h b) s = .next t
      ∧ t = acOver s ((s.issuedBy w g (.exit h b) h).runActs ((s.issueLanes w g (.exit h b) h).map fun l => .leave w.id l.tid))
          w g (.exit h b) h
      ∧ (EndsAlone s w (s.issueLanes w g (.exit h b) h) → Ends s t w (s.issueLanes w g (.exit h b) h)))
    ∧ (Issues s (.trap h x) h w g → ∃ t, exec (.trap h x) s = .next t
      ∧ t = acOver s ((s.issuedBy w g (.trap h x) h).runActs ((s.issueLanes w g (.trap h x) h).map fun l =>
          .fault w.id l.tid ⟨0x60, 0, x.imm, 0, 0⟩ (siteOf g))) w g (.trap h x) h
      ∧ Faulted s t w g (s.issueLanes w g (.trap h x) h) 0x60)
    ∧ (Issues s (.brk h x) h w g → ∃ t, exec (.brk h x) s = .next t
      ∧ t = acOver s ((s.issuedBy w g (.brk h x) h).runActs ((s.issueLanes w g (.brk h x) h).map fun l =>
          .fault w.id l.tid ⟨0x61, 0, x.imm, 0, 0⟩ (siteOf g))) w g (.brk h x) h
      ∧ Faulted s t w g (s.issueLanes w g (.brk h x) h) 0x61)
    ∧ (∀ l r la, Issues s (.pcancel h b) h w g → s.issueLanes w g (.pcancel h b) h = l :: r → w.prologue = true →
        s.launch? w.launch = some la → ∃ t, exec (.pcancel h b) s = .next t
      ∧ t = acOver s (((s.issuedBy w g (.pcancel h b) h).setLaunch { la with cancelled := true }).endThread w.id l.tid)
          w g (.pcancel h b) h
      ∧ (∃ la', t.launch? la.id = some la' ∧ la'.cancelled = true)
      ∧ ∀ w' th', t.wg? w.id = some w' → w'.thread? l.tid = some th' → th'.status = .ended)
    ∧ (Issues s (.yield h b) h w g → ∃ t w' g', exec (.yield h b) s = .next t ∧ OnlyIssued s t w g (.yield h b) h
        ∧ t.wg? w.id = some w' ∧ w'.group? g.id = some g' ∧ g'.yieldUntil = some (s.clockOf w + 64)))
  ∧ ∀ (op : BitVec 10) (h : Head) (body : BitVec 53) (s : State) (w : Workgroup) (g : Group),
    s.current = some (w, g) → s.groupReady w g (.unassignedOpcode op h body) h false = true →
    s.issueLanes w g (.unassignedOpcode op h body) h ≠ [] →
    (op ≠ 0x127 → op ≠ 0x128 → op ≠ 0x12A → ∃ t, exec (.unassignedOpcode op h body) s = .next t
      ∧ t = acOver s ((s.issuedBy w g (.unassignedOpcode op h body) h).runActs
          ((s.issueLanes w g (.unassignedOpcode op h body) h).map fun l => .fault w.id l.tid (illegalOp 0x10) (siteOf g)))
          w g (.unassignedOpcode op h body) h
      ∧ Faulted s t w g (s.issueLanes w g (.unassignedOpcode op h body) h) 0x01)
    ∧ ∀ b : MBody, op = 0x127 ∨ op = 0x128 ∨ op = 0x12A → b.bits = body → h.talloc ≠ 7 → b.size.toNat < 5 →
      b.scope.toNat < 5 → (b.order = 0 → b.scope = 0) → b.variant = 0 →
      ∃ t, exec (.unassignedOpcode op h body) s = .next t
        ∧ t = acOver s ((s.issuedBy w g (.unassignedOpcode op h body) h).runActs
            ((s.issueLanes w g (.unassignedOpcode op h body) h).map fun l => .fault w.id l.tid (illegalOp 0x13) (siteOf g)))
            w g (.unassignedOpcode op h body) h
        ∧ Faulted s t w g (s.issueLanes w g (.unassignedOpcode op h body) h) 0x01

/-- A thread that faults leaves its group and is held with its fault's site; its registers stay; and its message, of Table 20.5,
is offered as a call to the endpoint in its k6. Where that cannot be done the Hall reports event 4 and the thread ends. The
address words of faults that name an object are the model's reading (log 29). -/
def Obligations.FaultHoldsTheThread : Prop :=
  ∀ (s : State) (wg tid : Nat) (f : FaultInfo) (site : Site) (w : Workgroup) (th : Thread),
    s.wg? wg = some w → w.thread? tid = some th → th.status ≠ .ended → w.prologue = false → f.code ≠ cTEARDOWN →
    ∃ (u : State) (w' : Workgroup) (th' : Thread), u.wg? wg = some w' ∧ w'.thread? tid = some th'
      ∧ th'.status = .held ⟨site.place, site.pc, site.skipPc, site.skipNew, f.code, none,
          if f.code = cDEADLOCK ∧ f.aux0 ≠ 0xFFFFFFFF then some (f.aux0.toNat / 512) else none⟩
      ∧ th'.v = th.v ∧ th'.k = th.k ∧ th'.p = th.p ∧ th'.pcc = th.pcc ∧ w'.s = w.s ∧ u.mem = s.mem
      ∧ (∀ g g', w.groupOf tid = some g → w'.group? g.id = some g' → tid ∉ g'.tids)
      ∧ s.act (.fault wg tid f site)
          = (match u.sendCall (w.kreg tid 6).cap (.thread wg tid) w.core (faultMessage w tid f site.pc) with
            | (t, true) => (t, [])
            | (t, false) => (t.event4 wg tid f.code site.pc, [.stop wg tid]))

/-! Requests. -/

/-- Memory after reset is canonical, nothing is listed, and no die holds a copy of a line. That an unlisted byte reads 0 is the
model's choice (log 1), and so are the poison-free granules, and that no cache holds a line nor any directory bit, which holds
after power-on from any state too (log 4). -/
def Obligations.ResetMemory : Prop :=
  Canonical State.reset ∧ State.reset.copies = [] ∧ (∀ a, State.reset.byteAt a = 0)
    ∧ (∀ a, State.reset.tagAt a = false ∧ State.reset.poisonAt a = false ∧ State.reset.feAt a = false)
    ∧ ∀ s : State, ∃ t, exec .powerOn s = .next t ∧ t.copies = [] ∧ t.l1 = [] ∧ t.directory = []

/-- Every step of the machine keeps memory, tags, summary, full/empty bits and poison in their canonical form, in every state
and whatever the agenda names. -/
def Obligations.StepKeepsMemoryCanonical : Prop :=
  ∀ s t : State, Canonical s → step s = .next t → Canonical t

/-- Whatever request it performs, of any kind and at any point, ACCESS_AT_EXECUTION_POINT leaves memory canonical. -/
def Obligations.AccessKeepsMemoryCanonical : Prop :=
  ∀ s t : State, Canonical s → exec .accessAtExecutionPoint s = .next t → Canonical t

/-- Loads, stores, capability loads and stores and fences are performed at their points: a load's request holds the bytes
that memory held, a store's bytes stand in memory and the tags they touch are cleared, a capability moves whole with its
tag, which a load keeps only with LOADK authority, a CW page and no revocation; no other byte changes. A strong access of 16
bytes is performed in two halves, the lower first (R105), and a strong load that reaches poison fails with POISON (R257). A
strong access acts at the home: the die's copy of its lines is written back and given up first (R100), a release at `.pkg` or
wider writes the die's copies back before it, and an acquire there gives them up after it (R118, R119). A weak access to a line
whose home is another die acts on the die's copy: a load fetches the line unless the copy holds its bytes, and a store makes the
bytes dirty there (R99). That a weak access is performed as one event, untorn, is the model's choice (log 58). -/
def Obligations.AccessesArePerformed : Prop :=
  (∀ (s : State) (r : Request), Canonical s → AtPoint s r →
    (∀ sx, r.op = .load sx →
      (r.phase = .sent → ¬inHalves r → (strongAccess r → ∀ a ∈ r.pas, s.poisonAt a = false) →
        ∃ t, exec .accessAtExecutionPoint s = .next t ∧ t.req? r.id = some (served r (r.dataWrites sx (bytesAt s r.pas)))
          ∧ Stored s t [])
      ∧ (r.phase = .sent → inHalves r → (∀ a ∈ r.pas.take 8, s.poisonAt a = false) →
        ∃ t, exec .accessAtExecutionPoint s = .next t
          ∧ t.req? r.id = some { r with phase := .half (bytesAt s (r.pas.take 8)) } ∧ Stored s t [])
      ∧ (∀ bs, r.phase = .half bs → inHalves r → (∀ b ∈ bs, b.2 = false) → (∀ a ∈ r.pas.drop 8, s.poisonAt a = false) →
        ∃ t, exec .accessAtExecutionPoint s = .next t
          ∧ t.req? r.id = some (served r (r.dataWrites sx (bs ++ bytesAt s (r.pas.drop 8)))) ∧ Stored s t [])
      ∧ (r.phase = .sent → strongAccess r → (∃ a ∈ if r.size = 16 then r.pas.take 8 else r.pas, s.poisonAt a = true) →
        ∃ t, exec .accessAtExecutionPoint s = .next t ∧ t.req? r.id = some (poisoned r) ∧ Stored s t []))
    ∧ (∀ data, r.op = .store data →
      (r.phase = .sent → ¬inHalves r → ∃ t, exec .accessAtExecutionPoint s = .next t ∧ t.req? r.id = some (served r [])
        ∧ Stored s t (r.pas.zip (data.map Prod.fst)))
      ∧ (r.phase = .sent → inHalves r → ∃ t, exec .accessAtExecutionPoint s = .next t
        ∧ t.req? r.id = some { r with phase := .half [] } ∧ Stored s t ((r.pas.zip (data.map Prod.fst)).take 8))
      ∧ ∀ bs, r.phase = .half bs → inHalves r → ∃ t, exec .accessAtExecutionPoint s = .next t
        ∧ t.req? r.id = some (served r []) ∧ Stored s t ((r.pas.zip (data.map Prod.fst)).drop 8))
    ∧ (∀ loadk, r.op = .loadCap loadk → strongAccess r → s.poisonAt r.obj = true →
        ∃ t, exec .accessAtExecutionPoint s = .next t ∧ t.req? r.id = some (poisoned r) ∧ Stored s t [])
    ∧ (∀ loadk tid wg, r.op = .loadCap loadk → r.who = .thread wg tid → (strongAccess r → s.poisonAt r.obj = false) →
        ∃ t c, exec .accessAtExecutionPoint s = .next t
        ∧ t.req? r.id = some (served r [.k tid (r.data % 16) c (s.poisonAt r.obj)]) ∧ Stored s t []
        ∧ c = { s.capAt r.obj with tag := c.tag }
        ∧ c.tag = ((s.capAt r.obj).tag && loadk && r.cw && !s.revoked { s.capAt r.obj with tag := (s.capAt r.obj).tag && loadk && r.cw }))
    ∧ (∀ c poison, r.op = .storeCap c poison → r.obj % 16 = 0 → ∃ t, exec .accessAtExecutionPoint s = .next t
        ∧ t.req? r.id = some (served r [])
        ∧ t.capAt r.obj = { c with tag := c.tag && hasTags r.obj && !s.revoked c }
        ∧ ∀ a, a / 16 ≠ r.obj / 16 → t.byteAt a = s.byteAt a ∧ t.tagAt a = s.tagAt a)
    ∧ (∀ acq, r.op = .fence acq false → ∃ t, exec .accessAtExecutionPoint s = .next t ∧ t.req? r.id = some (served r [])
        ∧ Stored s t []))
  ∧ (∀ (s v : State) (r : Request), Canonical s → Performable s r → (r.order ≠ 0 ∨ r.strong = true) → v = atHome s r →
    (∀ sx, r.op = .load sx →
      (r.phase = .sent → ¬inHalves r → (strongAccess r → ∀ a ∈ r.pas, v.poisonAt a = false) →
        ∃ t, exec .accessAtExecutionPoint s = .next t ∧ t.req? r.id = some (served r (r.dataWrites sx (bytesAt v r.pas)))
          ∧ Performed v t r [])
      ∧ (r.phase = .sent → inHalves r → (∀ a ∈ r.pas.take 8, v.poisonAt a = false) →
        ∃ t, exec .accessAtExecutionPoint s = .next t
          ∧ t.req? r.id = some { r with phase := .half (bytesAt v (r.pas.take 8)) } ∧ Stored v t [])
      ∧ (∀ bs, r.phase = .half bs → inHalves r → (∀ b ∈ bs, b.2 = false) → (∀ a ∈ r.pas.drop 8, v.poisonAt a = false) →
        ∃ t, exec .accessAtExecutionPoint s = .next t
          ∧ t.req? r.id = some (served r (r.dataWrites sx (bs ++ bytesAt v (r.pas.drop 8)))) ∧ Performed v t r [])
      ∧ (strongAccess r → (r.phase = .sent ∨ ∃ bs, r.phase = .half bs ∧ inHalves r) →
        (∃ a ∈ nextBytes r, v.poisonAt a = true) → ∃ t, exec .accessAtExecutionPoint s = .next t
          ∧ t.req? r.id = some (poisoned r) ∧ Stored v t []))
    ∧ (∀ data, r.op = .store data → r.pas.length ≤ data.length →
      (r.phase = .sent → ¬inHalves r → ∃ t, exec .accessAtExecutionPoint s = .next t ∧ t.req? r.id = some (served r [])
        ∧ Performed v t r (r.pas.zip (data.map Prod.fst)))
      ∧ (r.phase = .sent → inHalves r → ∃ t, exec .accessAtExecutionPoint s = .next t
        ∧ t.req? r.id = some { r with phase := .half [] } ∧ Stored v t ((r.pas.zip (data.map Prod.fst)).take 8))
      ∧ ∀ bs, r.phase = .half bs → inHalves r → ∃ t, exec .accessAtExecutionPoint s = .next t
        ∧ t.req? r.id = some (served r []) ∧ Performed v t r ((r.pas.zip (data.map Prod.fst)).drop 8)))
  ∧ (∀ (s : State) (r : Request) (acq rel : Bool), Canonical s → Performable s r → r.op = .fence acq rel →
    ∃ t, exec .accessAtExecutionPoint s = .next t ∧ t.req? r.id = some (served r []) ∧ Performed (s.releaseFor r) t r [])
  ∧ ∀ (s : State) (r : Request), Canonical s → Performable s r → r.order = 0 → r.strong = false → r.io = false → r.phase = .sent →
    (∀ a ∈ r.pas, remoteHome (dieOfCore r.core) a = true) →
    (∀ sx, r.op = .load sx → ∃ t, exec .accessAtExecutionPoint s = .next t ∧ t.mem = s.mem ∧ t.tags = s.tags ∧ t.poison = s.poison
      ∧ t.req? r.id = some (served r (r.dataWrites sx (r.pas.map (seenBy s (dieOfCore r.core) r.pas)))))
    ∧ ∀ data, r.op = .store data → r.pas.length ≤ data.length → ∃ t, exec .accessAtExecutionPoint s = .next t
      ∧ t.req? r.id = some (served r []) ∧ StoredInCopies s t (dieOfCore r.core) (r.pas.zip (data.map Prod.fst))

/-- Atomics and reductions are performed at their points with the stored values of Table 10.5, at 32 and 64 bits; ATOM returns
the old contents, `.cas` and `.bfadd` report whether they stored, and one that stores nothing changes no byte. Like every
strong access they act at the home (R100), after a release's write-backs and before an acquire's (R118, R119); one that
reaches poison fails with POISON and stores nothing (R129, R257). -/
def Obligations.AtomicsArePerformed : Prop :=
  (∀ (op : AtomOp) (u : Bool) (n old a b : Nat), n = 32 ∨ n = 64 → old < 2 ^ n → a < 2 ^ n → b < 2 ^ n →
    atomStored op u n old a b = atomTable u n op old a b)
  ∧ (∀ (s v : State) (r : Request) (op : AtomOp) (u red : Bool) (a b old : Nat), Canonical s → Performable s r →
    r.op = .atom op u a b red → v = (s.releaseFor r).beforeStrong (dieOfCore r.core) r.pas →
    ((∃ x ∈ r.pas, v.poisonAt x = true) →
      ∃ t, exec .accessAtExecutionPoint s = .next t ∧ t.req? r.id = some (poisoned r) ∧ Stored v t [])
    ∧ ((∀ x ∈ r.pas, v.poisonAt x = false) → natOfBytes (r.pas.map v.byteAt) = old →
      ∃ t, exec .accessAtExecutionPoint s = .next t
        ∧ Performed v t r (match atomStored op u (8 * r.pas.length) old a b with
            | some x => r.pas.zip (bytesOfNat r.pas.length x)
            | none => [])
        ∧ t.req? r.id = some (served r (if red then [] else
            r.dataWrites false ((bytesOfNat r.size old).map fun x => (x, false))
              ++ (if op = .cas ∨ op = .bfadd then r.report (atomStored op u (8 * r.pas.length) old a b).isSome else [])))))
  ∧ ∀ (s : State) (r : Request) (op : AtomOp) (u red : Bool) (a b old : Nat), Canonical s → AtPoint s r →
    r.op = .atom op u a b red → (∀ x ∈ r.pas, s.poisonAt x = false) → natOfBytes (r.pas.map s.byteAt) = old →
    ∃ t, exec .accessAtExecutionPoint s = .next t
      ∧ Stored s t (match atomStored op u (8 * r.pas.length) old a b with
          | some x => r.pas.zip (bytesOfNat r.pas.length x)
          | none => [])
      ∧ t.req? r.id = some (served r (if red then [] else
          r.dataWrites false ((bytesOfNat r.size old).map fun x => (x, false))
            ++ (if op = .cas ∨ op = .bfadd then r.report (atomStored op u (8 * r.pas.length) old a b).isSome else [])))

/-- ACCESS_REPLY completes: a served request's register writes land in its thread's registers, with the scalar results that other
lanes of a schedule instruction hold for it (R322), its wait tag completes and it is gone (R162); a failed one faults its thread
at its instruction; and the results of a thread that has ended are discarded (R164), but for such scalars while another lane's
thread lives. -/
def Obligations.RepliesReachTheirThreads : Prop :=
  ∀ (s : State) (r : Request) (wg tid : Nat) (w : Workgroup),
    s.req? s.ev.who = some r → r.who = .thread wg tid → s.wg? wg = some w → w.life ≠ .suspended → r.faultCall = false →
    (s.alive r.who = false → ∀ ws m, r.phase = .done ws m → exec .accessReply s
      = .next (if s.leftWrites r ws = [] then s.dropReq r.id else (s.dropReq r.id).landNow r (s.leftWrites r ws)))
    ∧ (s.alive r.who = true → s.callerPending r = false → (∀ q ∈ s.reqs, q.batch = r.batch → q.undecided = false) →
    (∀ ws m, r.phase = .done ws m → ∃ t, exec .accessReply s = .next t ∧ t.req? r.id = none
      ∧ Replied s t wg tid r.tag (s.sharedWrites r ++ ws))
    ∧ (∀ code addr a0 a1 a2, r.phase = .failed code addr a0 a1 a2 → ∃ u, Replied s u wg tid r.tag [] ∧ u.req? r.id = none
      ∧ exec .accessReply s = .next (u.runActs [.fault wg tid ⟨code, addr, a0, a1, a2⟩ ⟨r.pc, r.nextPc, r.nextNew, .instr⟩])))

/-- FAULT_REPLY completes: a held thread's reply resumes it at its fault's address, skips it past the instruction, or ends it
and discards its pending results, by the first value of the message (0, 1 or more; none is 0). At a block's entry a skip
ends the thread (Table 20.7); that it does so at a continuation span too is the model's choice (log 55). -/
def Obligations.FaultRepliesAct : Prop :=
  ∀ (s : State) (r : Request) (wg tid : Nat) (w : Workgroup) (h : HeldRec) (ws : List Wr) (m : Msg),
    s.req? s.ev.who = some r → r.who = .thread wg tid → r.phase = .done ws (some m) → s.wg? wg = some w →
    s.heldFor wg tid = some h → r.faultCall = true → w.life ≠ .suspended →
    ∀ u, freedRecord (s.dropReq r.id) w h = u →
    (verdict m = .resume → h.place ≠ .entry → exec .faultReply s = .next (u.resumeAt wg tid h.pc false 0))
    ∧ (∀ th, verdict m = .resume → h.place = .entry → w.thread? tid = some th →
      exec .faultReply s = .next (u.resumeAt wg tid h.pc true th.via))
    ∧ (verdict m = .skip → h.place ≠ .entry → h.place ≠ .span →
      exec .faultReply s = .next (u.resumeAt wg tid h.skipPc h.skipNew h.pc))
    ∧ (verdict m = .skip → h.place = .entry ∨ h.place = .span →
      exec .faultReply s = .next (u.endThread wg tid))
    ∧ (verdict m = .terminate → exec .faultReply s = .next (u.endThread wg tid))

/-- FLUSH_PROBE_REPLY, MAILBOX_DELIVERY, WRITE_BACK and LINE_EVICTION complete: with every earlier request of its requester
on a channel performed, that channel's probe is answered, and after the last the release itself goes on; a launch's probe is
answered when no thread of the launch has an unperformed request on the channel; a claim at the head
of an EMPTY mailbox's queue writes its 24 bytes and makes the word FULL; the dirty bytes of a die's copy of a line go to
memory, no other byte changes, and the copy is clean afterwards, or gone. -/
def Obligations.MemoryStepsComplete : Prop :=
  (∀ (s : State) (r : Request) (cs : List Chan) (c : Chan), s.ev.ok = false → s.req? s.ev.who = some r →
    r.phase = .releasing cs → cs[s.ev.arg]? = some c →
    (∀ q ∈ s.reqs, q.who = r.who → q.id < r.id → c ∈ q.chans → q.unperformed = false) →
    exec .flushProbeReply s = .next (s.setReq { r with
      phase := if cs.length = 1 then .sent else .releasing (cs.eraseIdx s.ev.arg) }))
  ∧ (∀ (s : State) (l : Launch) (cs : List Chan) (c : Chan), s.ev.ok = true → s.launch? s.ev.who = some l →
    l.state = .probing cs → cs[s.ev.arg]? = some c →
    (∀ q ∈ s.reqs, ∀ wg tid, q.who = .thread wg tid → q.launch = l.id → c ∈ q.chans → q.unperformed = false) →
    exec .flushProbeReply s = .next (s.setLaunch { l with state := .probing (cs.eraseIdx s.ev.arg) }))
  ∧ (∀ (s : State) (r : Request) (ws : List Word) (rest : List Request), Canonical s → s.req? s.ev.who = some r →
    r.op = .mailbox ws → s.feQueue r.obj = r :: rest → s.feAt r.obj = false → s.poisonAt r.obj = false →
    ∃ u : State, exec .mailboxDelivery s = .next ((u.feChanged r.obj).pollWaits.flushEvents) ∧ u.feAt r.obj = true ∧ u.req? r.id = none
      ∧ (∀ a, u.byteAt a = (lastByte (r.pas.zip ((((ws.map fun (x : Word) => bytesOfNat 4 x.toNat).flatten) ++ [0, 0, 0, 0]).take 24)) a).getD
          (s.byteAt a)))
  ∧ ∀ (s : State) (c : LineCopy), Canonical s → s.copy? s.ev.who s.ev.arg = some c → NoPolls s → s.hallEvents = [] →
    ∃ t u, exec .writeBack s = .next t ∧ exec .lineEviction s = .next u
      ∧ t.copy? s.ev.who s.ev.arg = some { c with dirty := 0 } ∧ u.copy? s.ev.who s.ev.arg = none
      ∧ u.mem = t.mem ∧ u.tags = t.tags
      ∧ ∀ a, t.byteAt a = if a / 128 = s.ev.arg ∧ c.dirty.getLsbD (a % 128) = true then c.byte (a % 128) else s.byteAt a

/-! Harts. -/

/-- The eleven hart derivations, kmode.cap, kmode.int, kmode.rd, kmode.wr, FENCE and accesses to the Xkcap CSRs complete: the
hart's register holds the result, the hart goes on at its next instruction, and nothing else in the machine changes. One
that breaks a check raises cause 2 or 28 instead. The layout of the CSRs, and that FENCE ignores rd and rs1 and finds
nothing to wait for, are the model's choices (logs 5, 57, 34), and so is a hart's null k0 (log 30). -/
def Obligations.HartInstructionsComplete : Prop :=
  ∀ (i : Instr) (f : Hart → Option Hart) (s : State) (n len : Nat) (h : Hart),
    hartRow i = some f → hartFieldsOk i = true → HartRuns s n len h →
    (∀ h', f h = some h' → exec i s = .next (s.setHart (advanced h' len)))
    ∧ (f h = none → ∃ t, exec i s = .next (s.takeTrap n t) ∧ t.intr = false ∧ (t.cause = 2 ∨ t.cause = 28))

/-- MRET, SRET and kmode.jmp complete: a return restores pc, kc, the mode, the interrupt enable and cm from what the trap saved
and swaps kd back, a sealed saved kc losing its tag (R56); kmode.jmp goes where its capability points, and links. Below M,
or in U or with TSR in S, the returns raise cause 2. The places of the fields of mstatus, MPRV among them, are RISC-V's,
which the spec does not give (log 5). -/
def Obligations.HartReturnsComplete : Prop :=
  ∀ (s : State) (n len : Nat) (h : Hart), HartRuns s n len h →
    (h.mode = .m → ∃ h', exec .mret s = .next (s.setHart h')
      ∧ h' = { h with pc := h.mepc, kc := h.kmepc.withCursor h.mepc.toNat, kd := h.kmtd, kmtd := h.kd, cm := h.mpcm,
                      mode := .ofNum (h.mstatus.toNat / 2048 % 4), mstatus := h'.mstatus, instret := (advanced h len).instret }
      ∧ statusAfter h.mstatus h'.mstatus 3 7 (fun k => (mppBits .u k).or
          (if k = 17 ∧ h.mstatus.toNat / 2048 % 4 ≠ 3 then some false else none)) (h.mstatus.getLsbD 7) true)
    ∧ (h.mode ≠ .m → ∃ t, exec .mret s = .next (s.takeTrap n t) ∧ t.intr = false ∧ t.cause = 2)
    ∧ (h.mode = .m ∨ h.mode = .s ∧ h.mstatus.getLsbD 22 = false → ∃ h', exec .sret s = .next (s.setHart h')
      ∧ h' = { h with pc := h.sepc, kc := h.ksepc.withCursor h.sepc.toNat, kd := h.kstd, kstd := h.kd, cm := h.spcm,
                      mode := if h.mstatus.getLsbD 8 then .s else .u, mstatus := h'.mstatus, instret := (advanced h len).instret }
      ∧ statusAfter h.mstatus h'.mstatus 1 5 (fun k => (sppBit false k).or (if k = 17 then some false else none))
          (h.mstatus.getLsbD 5) true)
    ∧ (h.mode = .u ∨ h.mode = .s ∧ h.mstatus.getLsbD 22 = true →
      ∃ t, exec .sret s = .next (s.takeTrap n t) ∧ t.intr = false ∧ t.cause = 2)
    ∧ ∀ d a, (h.kr a).valid = true → ((h.kr a).otype = 0 ∨ (h.kr a).otype = 1) → (h.kr a).has pEXEC = true →
      (h.kr a).cursor.getLsbD 0 = false →
      exec (.kmodeJmp d a) s = .next (s.setHart { h.setK d (h.kc.moveTo ((h.pc.toNat : Int) + 4)) with
        kc := { h.kr a with otype := 0 }, pc := (h.kr a).cursor, instret := (advanced h len).instret })

/-- Taking a trap, to M or by delegation to S: the pc, kc, cause and value are saved, the status keeps the old interrupt enable
and mode, kd is exchanged with the level's trap data capability, cm is saved and cleared, and the hart stands at the handler
with the trap code capability; nothing else changes. Where S's trap capabilities are of no use, cause 28 is taken into M
from the state that the steps before that check leave. TRAP_ENTRY takes the pending interrupt of highest priority. What S
keeps of a trap that its bad capabilities turn away, and the value and detail then, are the model's reading (log 31); the
fields of mstatus and the rules of delegation are RISC-V's (log 5). -/
def Obligations.HartTakesTraps : Prop :=
  ∀ (s : State) (n : Nat) (h : Hart) (t : HTrap) (v : DWord), s.hart? n = some h → t.tval = some v →
    (h.delegates t = false → trapCode h.kmtc (handler h.mtvec t) → trapUsable h.kmtd →
      ∃ h', s.takeTrap n t = s.setHart h'
        ∧ h' = { h with mode := .m, mepc := h.pc, kmepc := h.kc.moveTo h.pc.toNat, mcause := setBit64 (BitVec.ofNat 64 t.cause) 63 t.intr,
                        mtval := v, mkfault := if t.intr = false ∧ t.cause = 28 then t.detail else h.mkfault,
                        mstatus := h'.mstatus, pc := handler h.mtvec t, kc := h.kmtc.moveTo (handler h.mtvec t).toNat,
                        kd := h.kmtd, kmtd := h.kd, mpcm := h.cm, cm := false, run := .running }
        ∧ statusAfter h.mstatus h'.mstatus 3 7 (mppBits h.mode) false (h.mstatus.getLsbD 3))
    ∧ (h.delegates t = true → trapCode h.kstc (handler h.stvec t) → trapUsable h.kstd →
      ∃ h', s.takeTrap n t = s.setHart h'
        ∧ h' = { h with mode := .s, sepc := h.pc, ksepc := h.kc.moveTo h.pc.toNat, scause := setBit64 (BitVec.ofNat 64 t.cause) 63 t.intr,
                        stval := v, skfault := if t.intr = false ∧ t.cause = 28 then t.detail else h.skfault,
                        mstatus := h'.mstatus, pc := handler h.stvec t, kc := h.kstc.moveTo (handler h.stvec t).toNat,
                        kd := h.kstd, kstd := h.kd, spcm := h.cm, cm := false, run := .running }
        ∧ statusAfter h.mstatus h'.mstatus 1 5 (sppBit (h.mode == .s)) false (h.mstatus.getLsbD 1))
    ∧ (h.delegates t = true → ¬(trapCode h.kstc (handler h.stvec t) ∧ trapUsable h.kstd) →
      ∃ (t' : HTrap) (h' : Hart), t'.intr = false ∧ t'.cause = 28 ∧ (t'.detail.toNat / 256 % 32 = 18)
        ∧ s.takeTrap n t = s.trapM h' t' (t'.tval.getD 0)
        ∧ h' = { h with mode := .s, sepc := h.pc, ksepc := h.kc.moveTo h.pc.toNat,
                        scause := setBit64 (BitVec.ofNat 64 t.cause) 63 t.intr, stval := v,
                        skfault := if t.intr = false ∧ t.cause = 28 then t.detail else h.skfault,
                        mstatus := h'.mstatus, pc := handler h.stvec t }
        ∧ statusAfter h.mstatus h'.mstatus 1 5 (sppBit (h.mode == .s)) false (h.mstatus.getLsbD 1))
    ∧ (h.delegates t = false → ¬(trapCode h.kmtc (handler h.mtvec t) ∧ trapUsable h.kmtd) →
      ∃ h', (s.takeTrap n t).hart? n = some h' ∧ h'.run = .halted
        ∧ (s.takeTrap n t).th.outbox = s.th.outbox ++ [.report reportBadTrapCap n])
    ∧ ∀ c, s.ev.who = n → h.run = .running → h.interrupt? = some c →
      exec .trapEntry s = .next (s.takeTrap n ⟨true, c, some 0, 0⟩)

/-- Loads of a hart complete: of 1 to 8 bytes into an x register, sign- or zero-extended, into an f register, LR, which reserves
its address, and kld, which keeps the tag only with LOADK authority from a CW page; no byte of memory changes, and beside
the hart only the control-die cache's lines do (R102). That the access is performed in the step, and that the control-die
cache holds the names of its lines, are the model's choices (log 34); LR's rules are RISC-V's (log 5); what an access
misaligned in an IO page or across pages does is left out of the premises (log 35). -/
def Obligations.HartLoadsComplete : Prop :=
  ∀ (s u : State) (n len : Nat) (h : Hart) (c : Cap) (pas : List Nat) (cw : Bool), HartRuns s n len h →
    (∀ w us rd rs1 imm, HartAccessOk s u h rs1 imm (loadSpec (2 ^ w.toNat)) c pas cw →
      exec (.hartMemoryAccess (.load w us rd rs1 imm)) s
        = .next ((u.cacheOnControl pas).setHart (advanced (h.setX rd (extended us (2 ^ w.toNat) (valueAt u pas))) len)))
    ∧ (∀ dbl rd rs1 imm, h.mstatus.extractLsb' 13 2 ≠ 0 → HartAccessOk s u h rs1 imm (loadSpec (widthOf dbl)) c pas cw →
      exec (.hartMemoryAccess (.fload dbl rd rs1 imm)) s
        = .next ((u.cacheOnControl pas).setHart (advanced (h.setF rd (boxed (widthOf dbl) (valueAt u pas))) len)))
    ∧ (∀ dbl aq rl rd rs1, HartAccessOk s u h rs1 0 (lrSpec (widthOf dbl)) c pas cw →
      exec (.hartMemoryAccess (.lr dbl aq rl rd rs1)) s
        = .next (({ u.cacheOnControl pas with reservations := (u.reservations.filter fun r => r.1 != n) ++ [(n, pas.headD 0)] } : State).setHart
            (advanced (h.setX rd (extended false (widthOf dbl) (valueAt u pas))) len)))
    ∧ ∀ d b imm, HartAccessOk s u h b imm kldSpec c pas cw →
      exec (.kld d b imm) s = .next ((u.cacheOnControl pas).setHart (advanced (h.setK d
        (u.sift { u.capAt (pas.headD 0) with tag := (u.capAt (pas.headD 0)).tag && c.has pLOADK && cw })) len))

/-- Stores of a hart complete: from an x or an f register; SC, which stores only while its reservation holds and answers 0 or 1;
AMOs, which answer the old value; and kst, which stores the capability with its tag. The stored bytes change, the tags that
they touch are cleared, and nothing else in memory changes. That the access is performed in the step is the model's choice
(log 34); the rules of LR, SC and AMOs are RISC-V's, and what ends a reservation is the model's (log 5). -/
def Obligations.HartStoresComplete : Prop :=
  ∀ (s u : State) (n len : Nat) (h : Hart) (c : Cap) (pas : List Nat) (cw : Bool), HartRuns s n len h → Canonical u → Quiet u →
    (∀ w rs2 rs1 imm, HartAccessOk s u h rs1 imm (hartStoreSpec (2 ^ w.toNat)) c pas cw →
      ∃ t, exec (.hartMemoryAccess (.store w rs2 rs1 imm)) s = .next t
        ∧ HartStored u t n (advanced h len) (pas.zip (bytesOfNat (2 ^ w.toNat) (h.xr rs2).toNat)))
    ∧ (∀ dbl rs2 rs1 imm, h.mstatus.extractLsb' 13 2 ≠ 0 → HartAccessOk s u h rs1 imm (hartStoreSpec (widthOf dbl)) c pas cw →
      ∃ t, exec (.hartMemoryAccess (.fstore dbl rs2 rs1 imm)) s = .next t
        ∧ HartStored u t n (advanced h len) (pas.zip (bytesOfNat (widthOf dbl) (h.f.getD rs2.toNat 0).toNat)))
    ∧ (∀ dbl aq rl rd rs1 rs2, HartAccessOk s u h rs1 0 (amoSpec (widthOf dbl)) c pas cw →
      ∃ t, exec (.hartMemoryAccess (.sc dbl aq rl rd rs1 rs2)) s = .next t
        ∧ (∀ r ∈ t.reservations, r.1 ≠ n)
        ∧ HartStored u t n (advanced (h.setX rd (if (n, pas.headD 0) ∈ u.reservations then 0 else 1)) len)
            (if (n, pas.headD 0) ∈ u.reservations then pas.zip (bytesOfNat (widthOf dbl) (h.xr rs2).toNat) else []))
    ∧ (∀ op dbl aq rl rd rs1 rs2, HartAccessOk s u h rs1 0 (amoSpec (widthOf dbl)) c pas cw →
      ∃ t x, exec (.hartMemoryAccess (.amo op dbl aq rl rd rs1 rs2)) s = .next t
        ∧ atomTable (amoAtom op).2 (8 * widthOf dbl) (amoAtom op).1 (valueAt u pas) ((h.xr rs2).toNat % 2 ^ (8 * widthOf dbl)) 0 = some x
        ∧ HartStored u t n (advanced (h.setX rd (extended false (widthOf dbl) (valueAt u pas))) len)
            (pas.zip (bytesOfNat (widthOf dbl) x)))
    ∧ ∀ a b imm, HartAccessOk s u h b imm (kstSpec (h.kr a) a.toNat) c pas cw →
      ∃ t, exec (.kst a b imm) s = .next t ∧ t.hart? n = some (advanced h len) ∧ (∀ m, m ≠ n → t.hart? m = u.hart? m)
        ∧ t.capAt (pas.headD 0) = { h.kr a with
            tag := (h.kr a).valid && hasTags (pas.headD 0) && !u.revoked { h.kr a with tag := (h.kr a).valid } }
        ∧ ∀ x, x / 16 ≠ pas.headD 0 / 16 → t.byteAt x = u.byteAt x ∧ t.tagAt x = u.tagAt x

/-- The timers and interrupt files complete: MTIMECMP_MATCH sets the hart's M timer bit just when `time` has reached `mtimecmp`,
STIMECMP_MATCH the S timer bit while menvcfg.STCE is set, an interrupt file write sets its identity pending; no other bit,
hart or memory changes. That menvcfg.STCE gates stimecmp is RISC-V's (log 5). -/
def Obligations.InterruptsArrive : Prop :=
  ∀ (s : State) (h : Hart), s.hart? s.ev.who = some h →
    (∃ h', exec .mtimecmpMatch s = .next (s.setHart h') ∧ h' = { h with mip := h'.mip }
      ∧ ∀ i < 64, h'.mip.getLsbD i = if i = 7 then decide (h.mtimecmp.toNat ≤ h.hc / 32) else h.mip.getLsbD i)
    ∧ (∃ h', exec .stimecmpMatch s = .next (s.setHart h') ∧ h' = { h with mip := h'.mip }
      ∧ ∀ i < 64, h'.mip.getLsbD i = if i = 5 ∧ h.menvcfg.getLsbD 63 = true then decide (h.stimecmp.toNat ≤ h.hc / 32) else h.mip.getLsbD i)
    ∧ (s.ev.level = .m → 1 ≤ s.ev.arg → s.ev.arg ≤ 255 → ∃ h', exec .interruptFileWrite s = .next (s.setHart h')
      ∧ h' = { h with mfile := { h.mfile with pending := h'.mfile.pending } }
      ∧ ∀ i < 256, h'.mfile.pending.getLsbD i = (h.mfile.pending.getLsbD i || decide (i = s.ev.arg)))
    ∧ (s.ev.level = .s → 1 ≤ s.ev.arg → s.ev.arg ≤ 255 → ∃ h', exec .interruptFileWrite s = .next (s.setHart h')
      ∧ h' = { h with sfile := { h.sfile with pending := h'.sfile.pending } }
      ∧ ∀ i < 256, h'.sfile.pending.getLsbD i = (h.sfile.pending.getLsbD i || decide (i = s.ev.arg)))

/-- KSEND, KRECV, KCALL and KREPLY complete. At an endpoint with room a sent message stands in its buffer and the hart goes on;
a call's hart stalls for its reply. A receiver takes the oldest message into a0 on, t0 and its capability registers; with
none it stalls, or with .nb t0 bit 33 says so. A reply reaches its caller's request, and the reply slot is empty. The
corners of R376 to R379 that the spec leaves open are log 50's choices. -/
def Obligations.HartMessagesComplete : Prop :=
  ∀ (s : State) (n len : Nat) (h : Hart) (count : BitVec 4) (x e y : BitVec 5) (pa i : Nat), HartRuns s n len h → Canonical s →
    Settled s → s.th.quiescent = false → count.toNat ≤ 8 → (h.kr e).objPa = pa →
    (Names s (h.kr e) 2 → maySend h x → maySend h y → Room s pa i →
      (∃ t, exec (.ksend count x e y) s = .next t ∧ t.hart? n = some (advanced h len)
        ∧ Buffered s t pa i h count.toNat x y false (.hart n))
      ∧ ((h.slots.getD h.kslot.toNat .reset).pending = none → ∃ t h' q, exec (.kcall count x e y) s = .next t
        ∧ t.hart? n = some h' ∧ q ∈ t.reqs ∧ h'.run = .stalled q.id ∧ h'.pc = h.pc ∧ q.who = .hartSlot n h.kslot.toNat
        ∧ q.op = .awaitReply count.toNat ((x.toNat + 16 * y.toNat) % 16) ((x.toNat + 16 * y.toNat) / 16)
        ∧ Buffered s t pa i h count.toNat x y true (.hartSlot n h.kslot.toNat)))
    ∧ (∀ p rest nb, Names s (h.kr e) 2 → (s.ep pa).order = (i, p) :: rest → s.epSenders pa = [] → (s.buffered pa i p).call = false →
      ∃ t, exec (.krecv nb count x e y) s = .next t ∧ (t.ep pa).order = rest
        ∧ t.hart? n = some (advanced (h.receive (s.siftMsg (s.buffered pa i p)) count.toNat x.toNat y.toNat false) len))
    ∧ (Names s (h.kr e) 2 → (s.ep pa).order = [] → s.epSenders pa = [] →
      (∃ t, exec (.krecv true count x e y) s = .next t ∧ t.hart? n = some (advanced (h.setX 5 0x200000000) len))
      ∧ ∃ t h' q, exec (.krecv false count x e y) s = .next t ∧ t.hart? n = some h' ∧ q ∈ t.reqs ∧ h'.run = .stalled q.id
        ∧ h'.pc = h.pc ∧ q.who = .hart n ∧ q.obj = pa)
    ∧ ∀ caller r, (h.slots.getD h.kslot.toNat .reset).owed = some caller → s.callOf caller = some r → maySend h x → maySend h y →
      ∃ t ws, exec (.kreply count x y) s = .next t
        ∧ t.req? r.id = some { r with
            phase := .done ws (some (s.siftMsg (h.message count.toNat x.toNat y.toNat 0 false (.hart n)))), unresolved := false }
        ∧ t.hart? n = some (advanced (h.setSlot h.kslot.toNat
            { h.slots.getD h.kslot.toNat .reset with owed := none }) len)

/-- KSEND and KRECV on a NOTIFY complete: bits are ORed into its word; a receiver takes the bits that its mask in a0 selects (0
selects all) into a0 and clears them, and the low half of t0 is a free value (log 3). The free low half of t0 is the model's
reading (log 3). -/
def Obligations.HartNotificationsComplete : Prop :=
  ∀ (s : State) (n len : Nat) (h : Hart) (x e y : BitVec 5) (word mask : Word), HartRuns s n len h → Canonical s →
    s.hallEvents = [] → s.th.quiescent = false → Names s (h.kr e) 3 → BitVec.ofNat 32 (s.peek ((h.kr e).objPa + 16) 4) = word →
    (if (h.xr 10).extractLsb' 0 32 = 0 then 0xFFFFFFFF else (h.xr 10).extractLsb' 0 32) = mask →
    (s.noteWaiting (h.kr e).objPa = [] → s.peek ((h.kr e).objPa + 24) 4 < 2 ^ 31 →
      ∃ t, exec (.ksend 1 x e y) s = .next t ∧ t.hart? n = some (advanced h len)
        ∧ t.peek ((h.kr e).objPa + 16) 4 = (word ||| (h.xr 10).extractLsb' 0 32).toNat)
    ∧ ∀ nb, word &&& mask ≠ 0 → ∃ t v, exec (.krecv nb 1 x e y) s = .next t ∧ v.toNat < 2 ^ 32
        ∧ t.hart? n = some (advanced ((h.setX 10 ((word &&& mask).signExtend 64)).setX 5 v) len)
        ∧ t.peek ((h.kr e).objPa + 16) 4 = (word &&& ~~~mask).toNat

/-- OMAKE completes: a live object of its type and size stands at the region's first suitable place, the region's use is
advanced, and kD holds its sealed capability with the permissions that Table 19.1 and the region allow. -/
def Obligations.OmakeMakesObjects : Prop :=
  ∀ (s : State) (n len : Nat) (h : Hart) (d u w : BitVec 5) (type arg pa size align : Nat) (perms : List Nat),
    HartRuns s n len h → Canonical s → s.th.quiescent = false → Makes s (h.kr u) (h.xr w) type arg pa size align perms →
    ∃ t, exec (.omake d u w) s = .next t
      ∧ t.hart? n = some (advanced (h.setK d (Cap.make pa size ((h.kr u).perms &&& permSet perms) (BitVec.ofNat 18 type))) len)
      ∧ t.objLive pa type = true ∧ t.objSize pa = size
      ∧ (type = 5 → ∃ a, s.freeAsid = some a ∧ ∃ e ∈ t.asids, e.asid = a ∧ e.pa = pa ∧ e.torn = false)
      ∧ (type = 6 → (arg, pa) ∈ t.lines)
      ∧ (type = 7 → ∃ q ∈ t.queues, q.pa = pa ∧ s.freeDoorbell = some q.num)
      ∧ (type = 10 → t.revoker = some pa)
      ∧ ∀ a, (a < (h.kr u).objPa + 16 ∨ (h.kr u).objPa + 24 ≤ a) → (a < pa ∨ pa + size ≤ a) → t.byteAt a = s.byteAt a

/-- KSEND to an ASPACE or the REVOKER with its label completes. ASPACE_TEARDOWN marks the address space torn and sends its
invalidation; repeated when nothing of it is left it ends. ASID_RELEASE frees the ASID. SWEEP_START takes the bitmap's
snapshot and stalls its hart for the start phase. OBJECT_REVOKE makes the object's header dead. That these rows are KSEND
with their label (log 14), that an object lies at its capability's cursor (log 49), what of a torn space ends at once (log
51), and that the hart waits for the step that ends the start phase (log 52), are the model's choices. -/
def Obligations.ControlObjectsComplete : Prop :=
  ∀ (s : State) (n len : Nat) (h : Hart) (x e y : BitVec 5) (pa asid : Nat), HartRuns s n len h → Canonical s → (h.kr e).objPa = pa →
    s.th.quiescent = false → (h.kr e).has pSYSTEM = true →
    (Names s (h.kr e) 5 → (h.xr 5).toNat % 2 ^ 20 = 1 → s.asidAt pa = asid → SpaceIdle s pa asid →
      (∀ w ∈ s.waits, ∀ p ∈ w.waiters, s.asidOf p ≠ some asid) →
      (asid < 1024 → s.peek (pa + 26) 1 = 0 → homeOf pa % 4 < s.halls.length → ∃ t, exec (.aspaceTeardown 0 x e y) s = .next t ∧ t.hart? n = some h
        ∧ (∀ a ∈ t.asids, a.pa = pa → a.torn = true) ∧ t.peek (pa + 26) 1 = 1
        ∧ BitVec.ofNat 64 (asid + 2 ^ 11) ∈ (t.hall (homeOf pa % 4)).xinv)
      ∧ (s.peek (pa + 26) 1 ≠ 0 → BitVec.ofNat 64 (asid + 2 ^ 11) ∉ (s.hall (homeOf pa % 4)).xinv →
        ∃ t, exec (.aspaceTeardown 0 x e y) s = .next t ∧ t.hart? n = some (advanced h len)
          ∧ ∀ a ∈ t.asids, a.pa = pa → a.torn = true))
    ∧ (∀ a, Names s (h.kr e) 5 → (h.xr 5).toNat % 2 ^ 20 = 2 → s.asids.find? (fun a => a.pa == pa) = some a →
      (∀ l ∈ s.launches, l.asid ≠ a.asid) → (∀ w ∈ s.wgs, w.asid ≠ a.asid) →
      exec (.asidRelease 0 x e y) s = .next (({ s with asids := s.asids.filter fun b => b.pa != pa } : State).setHart (advanced h len)))
    ∧ (∀ bitmap rlo units, Names s (h.kr e) 10 → (h.xr 5).toNat % 2 ^ 20 = 1 → s.sweep = none → x = 0 → Settled s →
      (h.xr 10).toNat % 2 ^ 32 + (h.xr 11).toNat % 2 ^ 32 * 2 ^ 32 = bitmap →
      (h.xr 12).toNat % 2 ^ 32 + (h.xr 13).toNat % 2 ^ 32 * 2 ^ 32 = rlo → (h.xr 14).toNat % 2 ^ 32 = units →
      (h.xr 15).extractLsb' 0 32 = 0 → bitmap % 4096 = 0 → inHbm bitmap (units * 0x4000) = true → 1 ≤ units → units ≤ 512 →
      rlo % 0x200000 = 0 → rlo + units * 0x200000 ≤ 2 ^ 64 →
      ∃ t w h' q, exec (.sweepStart 6 x e y) s = .next t ∧ t.sweep = some w ∧ w.phase = 1 ∧ w.rlo = rlo ∧ w.rlen = units * 0x200000
        ∧ (∀ g < units * 0x20000, NSet.has w.marked g = (s.byteAt (bitmap + g / 8)).getLsbD (g % 8))
        ∧ t.hart? n = some h' ∧ q ∈ t.reqs ∧ h' = { h with run := .stalled q.id })
    ∧ ∀ o, Names s (h.kr e) 10 → (h.xr 5).toNat % 2 ^ 20 = 2 → (h.kr x).valid = true → (h.kr x).otype.toNat = o →
      o ∈ [2, 3, 4, 6, 7, 8, 9, 11] → s.objLive (h.kr x).objPa o = true → Unused s (h.kr x).objPa →
      ∃ t, exec (.objectRevoke 0 x e y) s = .next t ∧ t.hart? n = some (advanced h len) ∧ t.objLive (h.kr x).objPa o = false
        ∧ (∀ l ∈ t.lines, o = 6 → l.2 ≠ (h.kr x).objPa) ∧ (∀ q ∈ t.queues, o = 7 → q.pa ≠ (h.kr x).objPa)

/-! Device registers and the launch path. -/

/-- DOORBELL, CTXUPD, WFOVF, XINV, XINV_COMPLETE and REGISTER_WRITE complete: a doorbell rings its queue, or is latched while
the device is quiescent; CTXUPD gives a context's launches its priority; 0 re-arms WFOVF; XINV removes the translations it
names and is counted once the accesses through them have been performed; a register takes its value. That these rows act as
a store to the register does (log 46), which caches hold a translation (logs 47, 85), that a queue reads its context again
with CTXUPD (log 48), and that mtimecmp is compared at the write, as RISC-V has it (log 5), are the model's choices. -/
def Obligations.DeviceRegistersComplete : Prop :=
  ∀ s : State,
    (∀ q, s.th.quiescent = false → s.queues.find? (fun q => q.num == s.ev.value.toNat % 4096 && s.objLive q.pa 7) = some q →
      ∃ t q', exec .doorbell s = .next t ∧ t.queue? q.pa = some q' ∧ q'.rung = true ∧ t.mem = s.mem)
    ∧ (s.th.quiescent = true → exec .doorbell s
      = .next { s with th := { s.th with latched := s.th.latched ++ [s.ev.value.toNat % 4096] } })
    ∧ (∃ t, exec .ctxupd s = .next t ∧ t = { s with launches := t.launches, queues := t.queues }
      ∧ t.launches = s.launches.map fun (l : Launch) =>
          if l.ctx = s.ev.value.toNat then { l with prio := s.peek (s.ev.value.toNat + 16) 1 % 16 } else l)
    ∧ (s.ev.value = 0 → exec .wfovf s = .next (s.setHall s.ev.who { s.hall s.ev.who with wfovf := 0 }))
    ∧ (s.ev.value ≠ 0 → exec .wfovf s = .next s)
    ∧ (s.ev.who < s.halls.length → ∃ t, exec .xinv s = .next t ∧ (∀ e, e ∈ t.tlb ↔ e ∈ s.tlb ∧ ¬removedBy s.ev.value e)
      ∧ t.hall s.ev.who = { s.hall s.ev.who with xinv := (s.hall s.ev.who).xinv ++ [s.ev.value] }
      ∧ t = { s with tlb := t.tlb, halls := t.halls })
    ∧ (∀ v r, (s.hall s.ev.who).xinv = v :: r → s.xinvBusy v = false → exec .xinvComplete s
      = .next (s.setHall s.ev.who { s.hall s.ev.who with xinv := r, xdone := (s.hall s.ev.who).xdone + 1 }))
    ∧ (∀ n h, n < 24 → s.ev.arg = 0x9003000000 + 8 * n → s.hart? n = some h → ∃ h', exec .registerWrite s = .next (s.setHart h')
      ∧ h' = { h with mtimecmp := s.ev.value, mip := h'.mip } ∧ h'.mip.getLsbD 7 = decide (s.ev.value.toNat ≤ h.hc / 32))
    ∧ (s.ev.arg = 0x9004000008 → exec .registerWrite s
      = .next (if s.th.status = 1 then s else { s with th := { s.th with arg0 := s.ev.value } }))
    ∧ (s.ev.arg = 0x9004000010 → exec .registerWrite s
      = .next (if s.th.status = 1 then s else { s with th := { s.th with arg1 := s.ev.value } }))

/-- QCB_LOAD, QUEUE_ENTRY_TAKE, PROLOGUE_START and LAUNCH_VALIDATE complete: a rung queue that no other queue of its Hall was
asked for before is cached while its Hall holds fewer than 256; a published entry becomes a launch with its record, its tags
and the queue's sequence number, and its slot is freed; an unpublished one stops the Hall until the next doorbell; a
prologue begins on its Hall; and a launch is accepted with its context's priority, or rejected with its error. That a
prologue is one thread of width 1 (log 37), which of two errors of a record is reported (log 51), that a launch waits for
its schedule (log 62), and that a launch whose ASPACE cannot be used translates nothing (log 49), are the model's choices. -/
def Obligations.QueuesComplete : Prop :=
  ∀ (s : State) (pa : Nat) (q : QueueState), s.ev.who = pa →
    (s.objLive pa 7 = true → s.th.quiescent = false → s.queueOf pa = q → s.hallRuns q.die = true → q.cached = false → q.rung = true → s.askedBefore pa = false →
      (s.queues.filter fun x => x.cached && x.die == q.die).length < 256 →
      ∃ t q', exec .qcbLoad s = .next t ∧ t.queue? pa = some q' ∧ q'.cached = true ∧ t.mem = s.mem)
    ∧ (s.queue? pa = some q → q.cached = true → q.rung = true → s.th.quiescent = false → s.hallRuns q.die = true → s.objLive pa 7 = true → Canonical s →
      (s.peek (qcbEntry s pa (qcbRead s pa) + 254) 2 = 1 → ∃ t id tags, exec .queueEntryTake s = .next t
        ∧ t.launches = s.launches ++ [{ launchOf id pa q.die (qcbSeq s pa)
            ((List.range 256).map fun j => s.byteAt (qcbEntry s pa (qcbRead s pa) + j)) tags with
              asid := if s.fieldOk q.aspace 5 then s.asidAt q.aspace.objPa else 1024, ctx := q.ctx.objPa, scope := q.scope }]
        ∧ (∀ j < 16, tags.getLsbD j = (s.sift (s.capAt (qcbEntry s pa (qcbRead s pa) + 16 * j))).tag)
        ∧ t.peek (qcbEntry s pa (qcbRead s pa) + 254) 2 = 0
        ∧ t.peek (pa + 64) 8 = (qcbRead s pa + 1) % 2 ^ 64 ∧ t.peek (pa + 72) 8 = (qcbSeq s pa + 1) % 2 ^ 64)
      ∧ (s.peek (qcbEntry s pa (qcbRead s pa) + 254) 2 ≠ 1 → ∃ t q', exec .queueEntryTake s = .next t ∧ t.queue? pa = some q'
        ∧ q'.rung = false ∧ t.launches = s.launches ∧ t.mem = s.mem))
    ∧ (∀ l q' u, s.launch? pa = some l → l.state = .taken → l.prologue.isNull = false → s.hallRuns l.die = true →
      (∀ w ∈ s.wgs, w.prologue = true → w.core ≠ 1024 + l.die) → s.openQueue l.queue = (q', u) → u.queueEnded q' = false →
      u.queueUsable q' = true → fieldBad l.prologue 1 [] true = false →
      ∃ t l' w, exec .prologueStart s = .next t ∧ t.launch? pa = some l' ∧ l'.state = .prologue ∧ t.wgs = s.wgs ++ [w]
        ∧ w.prologue = true ∧ w.launch = l.id ∧ w.core = 1024 + l.die ∧ w.w = 1 ∧ w.life = .running)
    ∧ ∀ l, s.launch? pa = some l → s.hallRuns l.die = true → l.state = .prologueEnded ∨ l.state = .taken ∧ l.prologue.isNull = true →
      (∀ u e, s.validate l = (u, .error e) → exec .launchValidate s = .next (u.refuse l e))
      ∧ (∀ u l', s.behind l = false → s.scheduleBusy l = false → s.validate l = (u, .ok l') → ∃ t l'', exec .launchValidate s = .next t ∧ l'' ∈ t.launches ∧ l''.id = l'.id
        ∧ l''.state = .accepted ∧ l''.prio = u.peek (l'.ctx + 16) 1 % 16
        ∧ (l'.schedule.isNull = true → l''.undealt = [(l'.die, l'.count, 0)]))

/-- WORKGROUP_DISTRIBUTE, WORKGROUP_START, LAUNCH_FINISH and COMPLETION_STAMP_WRITE complete: the chosen launch's next workgroup
is placed on the asking core in its start state; a loaded one begins to issue; a launch all of whose workgroups have retired
probes its channels; and with every probe answered the dies' dirty lines are written back at a package-wide scope, and the
launch repeats, or its stamp is written, its notification signalled, and it is gone. Which core asks and which bank it fills
(log 38), where the budgets lie (log 21), which instance of a scope a completion probes (log 65), and that a repeated launch
begins again from its record (log 82), are the model's choices. -/
def Obligations.LaunchesComplete : Prop :=
  (∀ (s : State) (l : Launch) (e : Nat × Nat × Nat), s.chooseLaunch s.ev.who (s.core s.ev.who).active = some l →
    l.state = .distributed → s.dealEntry l s.ev.who = some e →
    ∃ t, exec .workgroupDistribute s = .next t
      ∧ Placed s t l s.ev.who (s.core s.ev.who).active e.2.2 l.entry.toPcc 0 0
      ∧ ∀ l', s.launch? l.id = some l' → ∃ l'', t.launch? l.id = some l'' ∧ l''.state = .distributed ∧ e ∉ l''.undealt)
  ∧ (∀ (s : State) (w : Workgroup), s.wg? s.ev.who = some w → w.life = .loading → w.bank = (s.core w.core).active →
    (∀ l, s.launch? w.launch = some l → l.flags.getLsbD 1 = false ∧ l.scope < 3) →
    exec .workgroupStart s = .next (s.setWg { w with life := .running }))
  ∧ (∀ (s : State) (l : Launch), s.launch? s.ev.who = some l → l.state = .distributed → l.undealt = [] →
    (∀ w ∈ s.wgs, w.launch ≠ l.id) → (∀ t ∈ s.tasks, t.launch ≠ l.id) →
    ∃ t cs, exec .launchFinish s = .next t ∧ t.launch? s.ev.who = some { l with state := .probing cs }
      ∧ ∀ c, c ∈ cs ↔ ∃ core, (c, core) ∈ l.used ∧ Reaches l.rscope core c)
  ∧ ∀ (s v : State) (l : Launch), s.launch? s.ev.who = some l → l.state = .probing [] → l.error = 0 → s.hallEvents = [] → NoPolls s →
    v = (if 3 ≤ l.rscope then [0, 1, 2, 3].foldl (fun x d => x.writeBackDie d) s else s) →
    (l.repeats = true → l.sched = none → ∃ t l', exec .completionStampWrite s = .next t ∧ t.launch? s.ev.who = some l'
      ∧ l'.state = .taken ∧ l'.record = l.record ∧ l'.seq = l.seq)
    ∧ (l.repeats = false → l.cnotify.valid = false → ∀ u p, l.stamp.isNull = false → Canonical u →
      checkAccess v l.seat l.stamp 0 l.stamp.cursor.toNat { perms := [pSTORE], n := 8, align := 8, need := { w := true } } = (u, .ok p) →
      (∀ a c, u.copy? l.die a = some c → c.dirty = 0) →
      isOutside p.pas = false → ∃ t, exec .completionStampWrite s = .next t ∧ t.launch? s.ev.who = none
        ∧ ∀ a, t.byteAt a = (lastByte (p.pas.zip (bytesOfNat 8 l.seq)) a).getD (u.byteAt a))
    ∧ (l.repeats = false → l.stamp.isNull = true → Names v l.cnotify 3 → l.cbit ≤ 31 → Canonical v →
      v.noteWaiting l.cnotify.objPa = [] → v.peek (l.cnotify.objPa + 24) 4 < 2 ^ 31 →
      ∃ t, exec .completionStampWrite s = .next t ∧ t.launch? s.ev.who = none
        ∧ t.peek (l.cnotify.objPa + 16) 4 = v.peek (l.cnotify.objPa + 16) 4 ||| 2 ^ l.cbit)

/-- TASK_SPILL, TASK_REFILL, TASK_READY, TASK_TAKE and TRANSIT_ACK complete: a full store moves its candidate to its launch's
spill area; the earliest spilled task returns; operand words that are FULL are no longer awaited; a core takes the upper
half of a task, whose workgroup is placed in the active bank, or in the other when only that has room, with the half's
bounds in s0 and s1, and the lower half stays; a task of another die travels first. Ties, the steps of their own for spill
and return, the choice of the bank (log 61), and the free bytes that the spill area holds (log 25), are the model's choices. -/
def Obligations.TasksComplete : Prop :=
  ∀ (s : State) (t : Task),
    (∀ l u p, s.storeFull s.ev.who = true → s.spillCandidate s.ev.who = some t → s.launch? t.launch = some l →
      (s.spilledOf l.id).length < l.spillRoom →
      checkAccess s l.seat l.work 0 ((l.work.cursor.toNat : Int) + 512 * l.nfslot + 64 * (s.spilledOf l.id).length)
        { perms := [pSTORE], n := 64, need := { w := true } } = (u, .ok p) →
      ∃ v, exec .taskSpill s = .next v ∧ v.tasks = putBy Task.id { t with place := .spilled } s.tasks)
    ∧ (t ∈ s.tasks → t.die = s.ev.who → t.place = .spilled → s.storeFull s.ev.who = false →
      (∀ x ∈ s.tasks, x.die = s.ev.who → x.place = .spilled → x ≠ t → t.seq < x.seq) →
      exec .taskRefill s = .next (s.setTask { t with place := .deque }))
    ∧ (s.tasks.find? (fun x => x.id == s.ev.who) = some t →
      exec .taskReady s = .next (s.setTask { t with pending := t.pending.filter fun a => !s.feAt a }))
    ∧ (∀ l, s.chooseTask s.ev.who = some t → s.launch? t.launch = some l →
      (t.die = dieOfCore s.ev.who → ∀ bank, TaskRoom s s.ev.who l bank → ∃ v n, exec .taskTake s = .next v
        ∧ Placed s v l s.ev.who bank n { t.entry with otype := 0 }
            (BitVec.ofNat 32 (takenPart t).lo) (BitVec.ofNat 32 (takenPart t).hi)
        ∧ v.tasks = (match stayingPart t with
          | some x => putBy Task.id x s.tasks
          | none => s.tasks.filter fun x => x.id != t.id))
      ∧ (t.die ≠ dieOfCore s.ev.who → ∃ v id, exec .taskTake s = .next v ∧ v.wgs = s.wgs
        ∧ v.tasks = (match stayingPart t with
          | some x => putBy Task.id x s.tasks
          | none => s.tasks.filter fun x => x.id != t.id) ++ [{ takenPart t with id := id, place := .transit s.ev.who }]))
    ∧ ∀ l thief bank, s.tasks.find? (fun x => x.id == s.ev.who) = some t → t.place = .transit thief → s.launch? t.launch = some l →
      TaskRoom s thief l bank →
      ∃ v n, exec .transitAck s = .next v
        ∧ Placed s v l thief bank n { t.entry with otype := 0 } (BitVec.ofNat 32 t.lo) (BitVec.ofNat 32 t.hi)
        ∧ v.tasks = s.tasks.filter fun x => x.id != t.id

/-! Steps of the cores and of waits. -/

/-- RESULT_WRITEBACK, BLOCK_ENTRY, BIN_AGE_EXPIRY, BIN_IDLE_FORM, GROUP_STARVED and YIELD_EXPIRY complete: due results are
written on the core; a group whose threads may enter its block has entered it, with every register the header declares live
unchanged, and only those of re-formed threads otherwise undefined; an aged bin, or the oldest of an idle bank, becomes a
group; a group ready for its age limit is starved from the time at which it reached the limit; a yield ends at its time. Of
two bins of one age the lower index is formed and a group that has never issued counts from its formation (log 17);
undefined registers of re-formed threads are free values (log 3) whose capabilities have no tag (log 8): these are the
model's choices. -/
def Obligations.CoreStepsComplete : Prop :=
  (∀ s : State, ∃ t, exec .resultWriteback s = .next t ∧ t = { s with wgs := t.wgs }
    ∧ ∀ id w, s.wg? id = some w →
      t.wg? id = some (if w.core = s.ev.who ∧ w.bank = (s.core s.ev.who).active ∧ w.saved = none
        then w.settle ((s.core s.ev.who).clock (s.core s.ev.who).active) else w))
  ∧ (∀ (s u : State) (w : Workgroup) (g : Group) (d : BitVec 1024), s.evGroup = some (w, g) → w.life = .running →
    s.canEnter w g = true → s.fetchSpan w g.pc = (u, .ok d) → u.hallEvents = [] → g.members ≠ [] →
    (∀ m ∈ g.members, ∃ th, w.thread? m.2 = some th ∧ MayEnter th.pcc g.pc (spanHeader d) w.prologue) →
    ∃ t w' g', exec .blockEntry s = .next t ∧ t.wg? w.id = some w' ∧ w'.group? g.id = some g'
      ∧ g'.blk = opened g.pc (spanHeader d) ∧ g'.entering = false ∧ g'.pc = g.pc ∧ g'.members = g.members ∧ w'.s = w.s
      ∧ ∀ tid th, w.thread? tid = some th → ∃ th', w'.thread? tid = some th' ∧ th'.p = th.p ∧ th'.pcc = th.pcc
        ∧ (th.reformed = false ∨ tid ∉ g.tids → th'.v = th.v ∧ th'.k = th.k)
        ∧ (∀ n < (opened g.pc (spanHeader d)).livev, th'.v[n]? = th.v[n]?)
        ∧ ∀ n ≤ (opened g.pc (spanHeader d)).livek, th'.k[n]? = th.k[n]?)
  ∧ (∀ (s : State) (b : Bin), (s.binsOf s.ev.who (s.core s.ev.who).active).find? (fun b => b.index == s.ev.arg) = some b →
    b.since + s.ageOf b.wg ≤ (s.core b.core).clock b.bank → ∃ t, exec .binAgeExpiry s = .next t ∧ Formed s t b)
  ∧ (∀ (s : State) (b : Bin), s.anyReady s.ev.who (s.core s.ev.who).active = false →
    (∀ x ∈ s.binsOf s.ev.who (s.core s.ev.who).active, s.binAged x = false) →
    oldestBin (s.binsOf s.ev.who (s.core s.ev.who).active) = some b → ∃ t, exec .binIdleForm s = .next t ∧ Formed s t b)
  ∧ (∀ (s : State) (w : Workgroup) (g : Group) (since : Nat), s.evGroup = some (w, g) → w.life = .running → s.isReady w g = true →
    g.readySince = some since → g.starved = none → since + w.agelim ≤ s.clockOf w →
    ∃ t w', exec .groupStarved s = .next t ∧ t.wg? w.id = some w' ∧ w'.group? g.id = some { g with starved := some (since + w.agelim) })
  ∧ ∀ (s : State) (w : Workgroup) (g : Group) (until_ : Nat), s.evGroup = some (w, g) → g.yieldUntil = some until_ →
    until_ ≤ s.clockOf w → exec .yieldExpiry s = .next (s.setWg (w.setGroup { g with yieldUntil := none, yieldOthers := [] }))

/-- BARRIER_PHASE_COMPLETE, RENDEZVOUS_COMPLETE and REGISTRATION_WALK_END complete: a barrier at which every member has arrived
goes to its next phase and releases the waits of the one before, a pod barrier (level 4) when it has told the other packages
and they have arrived (log 54); a full latch whose words agree becomes one engine operation, which holds its arrivals until
it is accepted, and one whose words differ faults every arrival; a walk that finds no cycle leaves the wait registered, and
one that finds a cycle faults its waiters DEADLOCK, or reports event 5 for a fault message. Whom the walk takes for holders
of a barrier (log 26), which undealt work holds back a phase (log 64), and the latch of gang0 (log 32), are the model's
choices. -/
def Obligations.WaitStepsComplete : Prop :=
  (∀ (s : State) (b : Barrier), s.barriers[s.ev.who]? = some b → s.barComplete b = true → (s.reqs.map Request.id).Nodup →
    (b.key.level = 4 → b.told = false → exec .barrierPhaseComplete s
      = .next (s.podOthers.foldl (fun u p => u.sendFlit p 2 0)
          ((s.setBar { b with told := true }).outbox (.podArrive b.key.num b.phase))))
    ∧ ((b.key.level = 4 → b.told = true ∧ s.ev.ok = true) →
      ∃ t, exec .barrierPhaseComplete s = .next t ∧ (t.bar b.key).phase = b.phase + 1
        ∧ ∀ q ∈ s.reqs, ∀ wait, q.op = .barrier b.key b.phase false wait → q.phase = .waiting ∨ q.phase = .registering →
          ∃ q' ws m, t.req? q.id = some q' ∧ q'.phase = .done ws m))
  ∧ (∀ (s : State) (w : Workgroup) (a : Arrival) (rest : List Arrival), s.wg? s.ev.who = some w →
    (w.latch s.ev.arg).arrivals = a :: rest → (w.latch s.ev.arg).op = none → (256 ≤ s.ev.arg ∨ w.latchLeft s.ev.arg = []) →
    ((∀ x ∈ rest, wordKey x.word = wordKey a.word) → ∃ t o w', exec .rendezvousComplete s = .next t ∧ t.ops = s.ops ++ [o]
      ∧ o.wg = w.id ∧ t.wg? w.id = some w' ∧ w'.latch s.ev.arg = { w.latch s.ev.arg with op := some o.id })
    ∧ ((∃ x ∈ rest, wordKey x.word ≠ wordKey a.word) → exec .rendezvousComplete s
      = .next ((s.setWg { w with latches := w.latches.filter fun l => l.gang != s.ev.arg }).faultRequests .instr
          (((a :: rest).filterMap fun x => s.req? x.req).map fun r => (r, illegalOp 1)))))
  ∧ ∀ (s : State) (e : WaitEntry) (v : WalkState), s.wait? s.ev.who = some e → e.walk = some v → s.hallEvents = [] →
    (v.found = none → v.limited = false → ∃ t, exec .registrationWalkEnd s = .next t
      ∧ t.wait? e.id = some { e with walk := none })
    ∧ (∀ path, v.found = some path → e.faultWait = false → e.die < s.halls.length → e.id < s.nextId →
      (s.reqs.map Request.id).Nodup → ∃ t, exec .registrationWalkEnd s = .next t
      ∧ t.wait? e.id = none ∧ (t.hall e.die).dlseq = (s.hall e.die).dlseq + 1
      ∧ ∀ q ∈ s.requestsOfEntry e, ∃ q' addr a0 a1 a2, t.req? q.id = some q' ∧ q'.phase = .failed 0x40 addr a0 a1 a2)
    ∧ ∀ path, v.found = some path → e.faultWait = true → exec .registrationWalkEnd s
      = .next (((s.freeWait e.id).hallEvent e.die 5
          [BitVec.ofNat 32 e.die, BitVec.ofNat 32 e.kind, match e.waiters with | p :: _ => s.identity p | [] => 0, loWord e.obj,
            hiWord e.obj]).flushEvents)

/-- ENGINE_ACCEPT, ENGINE_OPERATION_START and the completions of MMA, MMAK, SCACC, ACLR, AINIT and ADRAIN to a tile complete: a
ready operation that passes its checks is queued, its tiles and accumulators change state and its fragments are released,
one that fails them, whose TENSOR is dead or may not be read (log 49), or whose tensor record is poisoned (log 67) faults
them; the first of its unit starts, where a multicast without receivers ends; and a completed one leaves the product, sum,
conversion or zeros in its accumulator, or in the tile that it drains to. That the memory work is done in one step (log 10),
the order of the checks (log 11), that the expected B swizzle of `.a` is checked (log 68), and that the acceptance waits for
the fragments' earlier accesses (log 69), are the model's choices, and so are those that logs 49 and 67 name. -/
def Obligations.EnginesComplete : Prop :=
  ∀ (s : State) (o : EngineOp) (w : Workgroup) (rec : TensorRec),
    (s.op? s.ev.who = some o → s.wg? o.wg = some w → o.phase = .waiting → o.readiness w = .ready → w.spilled = false →
      s.accessBefore o = false → (∀ x ∈ s.ops, x.id ≠ o.id → ∀ a ∈ x.arrivals, a ∉ o.arrivals) →
      (∀ v code d, o.needsRecord = true → s.tensorAt o (leadTensor w o).objPa = (v, .error (code, d)) → exec .engineAccept s
        = .next (failedOp s o (.of code o.body.tk.toNat d (BitVec.ofNat 64 (leadTensor w o).objPa))))
      ∧ ∀ u po, RecordRead s o w u rec po →
      (po = true → exec .engineAccept s
        = .next (failedOp s o (.of 0x41 o.body.tk.toNat 0 (BitVec.ofNat 64 (leadTensor w o).objPa))))
      ∧ (∀ f, po = false → acceptFault s w o rec = some f → exec .engineAccept s = .next (failedOp s o f))
      ∧ (po = false → acceptFault s w o rec = none → s.queueRoom o = true → ∃ t o' w', exec .engineAccept s = .next t ∧ t.op? o.id = some o'
        ∧ o'.phase = .queued ∧ o'.word = o.word ∧ o'.record = (if o.needsRecord then some rec else o.record)
        ∧ t.wg? o.wg = some w'
        ∧ (∀ n, namings o n true = 1 → namings o n false = 0 → tState (w'.tile n) = tFILLING)
        ∧ (∀ n, namings o n false = 1 → namings o n true = 0 → tState (w'.tile n) = tREADY
          ∧ tReaders (w'.tile n) = tReaders (w.tile n) + 1)
        ∧ (∀ a, o.accs = [a] → a.1 < w.accs.length → (w'.accTile a.1).state = match a.2 with
          | .init => aREADY
          | .drain => aDRAINING
          | _ => (w.accTile a.1).state)
        ∧ ∀ r ∈ s.opRequests o, ∃ q, t.req? r.id = some q ∧ q.phase = .done [] none))
    ∧ (s.op? s.ev.who = some o → o.phase = .queued → (∀ x ∈ s.earlierOps o, o.after x = false) →
      (o.code = 0x1C6 → o.todo = [] → exec .engineOperationStart s = .next (s.endOp o))
      ∧ (o.code ≠ 0x1C8 → o.code ≠ 0x1C6 ∨ o.todo ≠ [] → ∃ t, exec .engineOperationStart s = .next t ∧ t.op? o.id = some { o with phase := .running })
      ∧ ∀ u ws, o.code = 0x1C8 → o.record = some rec → s.loadCodebook o rec.cbook = (u, .ok ws) → u.ops = s.ops →
        ∃ t, exec .engineOperationStart s = .next t ∧ t.op? o.id = some { o with phase := .running, table := ws })
    ∧ (Completing s 0x1C7 o w → ∃ t po, exec .mmaComplete s = .next t
      ∧ Computed s t o w (fun i j =>
          if o.bit12 then
            (List.range (64 / mmaDepth o.body.fmt.toNat)).foldl (fun c n => dot
              ((List.range (mmaDepth o.body.fmt.toNat)).map fun x => downConvert o.body.fmt.toNat
                (match o.record with | some r => r.clamp | none => 0)
                (accAt (w.accTile o.srcAcc).data i (n * mmaDepth o.body.fmt.toNat + x)))
              (colOf s w (w.tile o.body.tb.toNat) (mmaDepth o.body.fmt.toNat) (n * mmaDepth o.body.fmt.toNat) j) c)
              (accAt (w.accTile o.accIndex).data i j)
          else dot (rowOf s w (w.tile o.body.ta.toNat) (mmaDepth o.body.fmt.toNat) i)
            (colOf s w (w.tile o.body.tb.toNat) (mmaDepth o.body.fmt.toNat) 0 j) (accAt (w.accTile o.accIndex).data i j)) po
      ∧ ((w.accTile o.accIndex).poison = true → po = true))
    ∧ (Completing s 0x1C8 o w → ∃ t, exec .mmakComplete s = .next t
      ∧ Computed s t o w (fun i j => dot ((List.range 32).map fun x => cbWeight s w (w.tile o.body.ta.toNat) o.table i x)
          (colOf s w (w.tile o.body.tb.toNat) 32 0 j) 0)
          (s.anyPoison w (w.tile o.body.ta.toNat) || s.anyPoison w (w.tile o.body.tb.toNat)))
    ∧ (Completing s 0x1C9 o w → ∃ t po, exec .scaccComplete s = .next t
      ∧ Computed s t o w (fun i j => scaccElement (accAt (w.accTile o.accIndex).data i j) (accAt (w.accTile o.srcAcc).data i j)
          (s.tileValue w (w.tile o.body.ta.toNat) i 0) (s.tileValue w (w.tile o.body.tb.toNat) 0 j)) po)
    ∧ (Completing s 0x1CA o w → ∃ t, exec .aclrComplete s = .next t ∧ Computed s t o w (fun _ _ => 0) false)
    ∧ (Completing s 0x1CB o w → ∃ t, exec .ainitComplete s = .next t
      ∧ Computed s t o w (fun i j => ainitElement (tFmt (w.tile o.body.ta.toNat)) (s.tileBits w (w.tile o.body.ta.toNat) i j))
          (s.anyPoison w (w.tile o.body.ta.toNat)))
    ∧ (Completing s 0x1CC o w → o.bit12 = false → o.record = none → o.todo = [] → namings o o.body.ta.toNat false = 0 →
      (∀ q ∈ s.reqs, ∀ n e, q.op = .twait n e → q.order = 0) → Canonical s → Calm s w.id →
      ∃ t w', exec .adrainComplete s = .next t ∧ t.op? o.id = none ∧ t.wg? w.id = some w'
        ∧ w'.accTile o.accIndex = ⟨aEMPTY, [], false⟩
        ∧ (o.body.ta.toNat < w.tiles.length → tState (w'.tile o.body.ta.toNat) = tREADY
          ∧ tVrows (w'.tile o.body.ta.toNat) = 64 ∧ tVcols (w'.tile o.body.ta.toNat) = 64)
        ∧ ∀ a, t.byteAt a = (lastByte (((tileCells (w.tile o.body.ta.toNat)).map fun (r, c) =>
            (bytesOfNat (elemSize (tFmt (w.tile o.body.ta.toNat)))
              (drainOut o.body.fmt.toNat 0 (s.drainY w o r c))).zipIdx.map fun (x, k) =>
                (tilePa w (w.tile o.body.ta.toNat) r c + k, x)).flatten) a).getD (s.byteAt a))

/-- COPY_COMPLETE, COPYM_DELIVERY, DRAIN_WRITE_ACK, ADRAIN_COMPLETE to memory, ENGINE_FAULT and ENGINE_FAULT_REPLY complete:
a filled tile is READY with its valid extent; a memory copy ends and increments its stamp; a multicast makes each receiver's
tile FILLING, then READY with the source as it was read once, and acknowledges once for it; an add-on-store and a row of a
drain leave the drain's list; a drain with no row left empties its accumulator; a failed operation marks its tiles and its
drained accumulator FAULTED and sends its message, but for TEARDOWN none (R425); once no thread of its workgroup lives it is
skipped (R44); and a reply resumes, skips or ends it, where a multicast skipped goes on with its other receivers. What a
skipped multicast repeats, the code that names an unsuited receiver, and the accumulator of an MMAK whose codebook failed are
the model's choices (log 73); so are one step for the memory work of an operation (log 10) and for a row of a drain, and that
a stamp in a window fails (log 86). -/
def Obligations.CopiesComplete : Prop :=
  ∀ (s : State) (o : EngineOp) (w : Workgroup) (rec : TensorRec), o.record = some rec →
    (Completing s 0x1C5 o w →
      (∀ u ws vr vc, o.copyKind = 0 → State.gather o rec w (w.tile o.body.ta.toNat) (tileCells (w.tile o.body.ta.toNat)) s [] (0, 0)
          = (u, .ok (ws, vr, vc)) → u.wgs = s.wgs →
          (∀ q ∈ u.reqs, ∀ n e, q.op = .twait n e → q.order = 0) → Canonical u → Calm u w.id → vr ≤ 256 → vc ≤ 256 →
        ∃ t w', exec .copyComplete s = .next t ∧ t.op? o.id = none ∧ t.wg? w.id = some w'
          ∧ (o.body.ta.toNat < w.tiles.length → tState (w'.tile o.body.ta.toNat) = tREADY
            ∧ tVrows (w'.tile o.body.ta.toNat) = vr ∧ tVcols (w'.tile o.body.ta.toNat) = vc)
          ∧ ∀ a, t.byteAt a = (lastByte (ws.map fun x => (x.1, x.2.1)) a).getD (u.byteAt a))
      ∧ (∀ u x, o.copyKind = 1 → State.scatter o rec w (w.tile o.body.ta.toNat) ((tileCells (w.tile o.body.ta.toNat)).filter fun x =>
          x.1 < tVrows (w.tile o.body.ta.toNat) && x.2 < tVcols (w.tile o.body.ta.toNat)) s = (u, some x) → u.ops = s.ops → Calm u w.id →
        ∃ t, exec .copyComplete s = .next t ∧ t.op? o.id = some { o with fault := some x })
      ∧ (∀ u, o.copyKind = 1 → State.scatter o rec w (w.tile o.body.ta.toNat) ((tileCells (w.tile o.body.ta.toNat)).filter fun x =>
          x.1 < tVrows (w.tile o.body.ta.toNat) && x.2 < tVcols (w.tile o.body.ta.toNat)) s = (u, none) → u.wgs = s.wgs → Calm u w.id →
        rec.stamp = .null → ∃ t w', exec .copyComplete s = .next t ∧ t.op? o.id = none ∧ t.wg? w.id = some w'
          ∧ readerDone (w.tile o.body.ta.toNat) (w'.tile o.body.ta.toNat))
      ∧ (∀ u, o.copyKind = 2 → State.moveSlices o rec o.slices s = (u, none) → Calm u w.id →
        (rec.stamp = .null → ∃ t, exec .copyComplete s = .next t ∧ t.op? o.id = none ∧ ∀ a, t.byteAt a = u.byteAt a)
        ∧ ∀ v p, rec.stamp ≠ .null → o.stampScope rec < 3 →
          u.engineAccess o rec.stamp rec.stamp.cursor.toNat { perms := [pSTORE], n := 8, align := 8, need := { w := true }, noDevice := true }
            = (v, .ok p) →
          Canonical v → v.copies = [] → v.peekPoison (p.pas.headD 0) 8 = false →
          ∃ t, exec .copyComplete s = .next t ∧ t.op? o.id = none
            ∧ t.peek (p.pas.headD 0) 8 = (v.peek (p.pas.headD 0) 8 + 1) % 2 ^ 64))
    ∧ (∀ x, s.op? s.ev.who = some o → o.code = 0x1C6 → o.phase = .running → o.fault = none → s.wg? s.ev.arg = some x →
      x.id ∈ o.todo → x.spilled = false → o.body.ta.toNat < x.tiles.length → o.unsuited rec (x.tile o.body.ta.toNat) = false →
      (x.id ∉ o.begun → tState (x.tile o.body.ta.toNat) = tEMPTY → ∃ t w', exec .copymDelivery s = .next t
        ∧ t.wg? x.id = some w' ∧ tState (w'.tile o.body.ta.toNat) = tFILLING
        ∧ t.op? o.id = some { o with begun := x.id :: o.begun })
      ∧ ∀ u src, x.id ∈ o.begun → x.id ∉ o.acked → s.wg? o.wg = some w → w.anyLive = true →
        State.readSource o rec ((tileCells (x.tile o.body.ta.toNat)).filter fun c => rec.inside ((elementOf o.slices c.1 c.2).getD []))
          s (o.source.getD []) = (u, .ok src) → u.wgs = s.wgs → u.ops = s.ops → Calm u x.id → Canonical u →
        (∀ q ∈ u.reqs, ∀ n e, q.op = .twait n e → q.order = 0) →
        ∃ t w', exec .copymDelivery s = .next t ∧ t.wg? x.id = some w' ∧ tState (w'.tile o.body.ta.toNat) = tREADY
          ∧ (∀ a, t.byteAt a = (lastByte ((multicastBytes rec x (x.tile o.body.ta.toNat) src).map fun y => (y.1, y.2.1)) a).getD
              (u.byteAt a))
          ∧ (t.bar ⟨o.launch, 0, o.core, fld o.body.flags 3 0⟩).acks = (u.bar ⟨o.launch, 0, o.core, fld o.body.flags 3 0⟩).acks - 1
          ∧ (o.todo = [x.id] → t.op? o.id = none)
          ∧ ((∃ y ∈ o.todo, y ≠ x.id) → ∃ o', t.op? o.id = some o' ∧ o'.source = some src ∧ x.id ∉ o'.todo
            ∧ ∀ y ∈ o.todo, y ≠ x.id → y ∈ o'.todo))
    ∧ (s.op? s.ev.who = some o → s.wg? o.wg = some w → o.code = 0x1CC → o.phase = .running → s.ev.arg ∈ o.todo →
      (∀ u x, o.adds = true → s.addOnStore o rec w = (u, x) → u.ops = s.ops → ∃ t, exec .drainWriteAck s = .next t
        ∧ t.op? o.id = some { o with todo := [], fault := o.fault.or x } ∧ ∀ a, t.byteAt a = u.byteAt a)
      ∧ ∀ u x, o.adds = false → State.drainRow o rec w s.ev.arg (List.range 64) s = (u, x) → u.ops = s.ops →
        ∃ t, exec .drainWriteAck s = .next t ∧ (∀ a, t.byteAt a = u.byteAt a)
          ∧ t.op? o.id = some { o with todo := o.todo.filter fun i => i != s.ev.arg, fault := o.fault.or x })
    ∧ (Completing s 0x1CC o w → o.bit12 = true → o.todo = [] → rec.stamp = .null → ∃ t w', exec .adrainComplete s = .next t
      ∧ t.op? o.id = none ∧ t.wg? w.id = some w' ∧ w'.accTile o.accIndex = ⟨aEMPTY, [], false⟩)
    ∧ (∀ code x l, s.op? s.ev.who = some o → s.wg? o.wg = some w → o.phase = .running → o.fault = some (code, x) →
      s.launch? o.launch = some l →
      (o.code = 0x1CC ∧ o.todo ≠ [] ∨ o.begun ≠ [] → exec .engineFault s = .next s)
      ∧ (o.code ≠ 0x1CC ∨ o.todo = [] → o.begun = [] → ∃ (u : State) (w' : Workgroup) (m : Msg),
        u.op? o.id = some { o with phase := .faulted } ∧ u.wg? w.id = some w'
        ∧ (∀ n < w.tiles.length, namings o n true = 1 → tState (w'.tile n) = tFAULTED)
        ∧ (∀ n < w.accs.length, (n, AccUse.drain) ∈ o.accs → (w'.accTile n).state = aFAULTED)
        ∧ m = engineMessage s w o code x (o.groups.all fun g => (w.liveOf g).isEmpty)
        ∧ (w.anyLive = true → code ≠ cTEARDOWN → ∀ v sent, u.sendCall l.fault (.engine o.id) o.core m = (v, sent) →
          exec .engineFault s = .next (if sent then v
            else (v.skipOp { o with phase := .faulted }).terminateGroups { o with phase := .faulted }))
        ∧ (w.anyLive = true → code = cTEARDOWN → exec .engineFault s = .next u)
        ∧ (w.anyLive = false → code ≠ cTEARDOWN → exec .engineFault s
          = .next ((u.lastMessage l.fault o.core m).skipOp { o with phase := .faulted }))
        ∧ (w.anyLive = false → code = cTEARDOWN → exec .engineFault s = .next (u.skipOp { o with phase := .faulted }))))
    ∧ (s.op? s.ev.who = some o → s.wg? o.wg = some w → o.phase = .faulted → w.anyLive = false →
      (∀ i ∈ o.wg :: o.bad, ∀ y, s.wg? i = some y → y.spilled = false) →
      exec .engineFault s = .next ((s.orphanCalls o).skipOp o))
    ∧ ∀ r ws m, s.op? s.ev.who = some o → s.reqs.find? (fun r => r.who == .engine o.id) = some r → r.phase = .done ws (some m) →
      o.phase = .faulted → s.wg? o.wg = some w → w.anyLive = true → Calm s w.id →
      (∀ i ∈ o.wg :: o.bad, ∀ y, s.wg? i = some y → y.spilled = false) →
      (verdict m = .resume → ∃ t w' o', exec .engineFaultReply s = .next t ∧ t.wg? w.id = some w' ∧ t.op? o.id = some o'
        ∧ o'.fault = none ∧ o'.phase = (if o.code = 0x1C8 then .queued else .running)
        ∧ (o.bad = [] → ∀ n < w.tiles.length, namings o n true = 1 → tState (w'.tile n) = tFILLING)
        ∧ ∀ n < w.accs.length, (n, AccUse.drain) ∈ o.accs → (w'.accTile n).state = aDRAINING)
      ∧ (verdict m = .skip → o.code ≠ 0x1C6 → ∃ t w', exec .engineFaultReply s = .next t ∧ t.wg? w.id = some w' ∧ t.op? o.id = none
        ∧ (∀ n < w.tiles.length, namings o n true = 1 → namings o n false = 0 → tState (w'.tile n) = tEMPTY)
        ∧ ∀ n < w.accs.length, (n, AccUse.drain) ∈ o.accs → w'.accTile n = ⟨aEMPTY, [], false⟩)
      ∧ (verdict m = .skip → o.code = 0x1C6 → ∃ t, exec .engineFaultReply s = .next t
        ∧ t.op? o.id = (if o.todo = [] then none else some { o with phase := .running, fault := none, bad := [] })
        ∧ ∀ i ∈ o.bad, ∀ y, s.wg? i = some y → o.body.ta.toNat < y.tiles.length →
          ∃ y', t.wg? i = some y' ∧ tState (y'.tile o.body.ta.toNat) = tEMPTY)
      ∧ (verdict m = .terminate → o.code ≠ 0x1C6 → ∃ u : State, exec .engineFaultReply s = .next (u.terminateGroups o)
        ∧ u.op? o.id = none)

/-- PREEMPT_DECISION, FILL_COMPLETE, BANK_SWAP and SPILL_COMPLETE complete: the contender of highest priority fills the shadow
bank, or the swap that makes room for it is requested; a filled context is suspended and its swap requested; the swap
suspends the active bank's workgroups and resumes the other's with their results as far off as they were, or is withdrawn
when nothing can follow; a spilled context keeps its live registers and its fixed state in its save slot; and SAVESLOTS 0
disables pre-emption (R420 to R424). Which slot is used, the own slot of a context that a fill frees, and the swap that is
withdrawn are the model's choices (log 39); that a prepared workgroup is a contender is too (log 61). Where budgets lie is
the model's choice too (log 21). -/
def Obligations.PreemptionCompletes : Prop :=
  ∀ (s : State) (core shadow : Nat), s.ev.who = core → shadow = 1 - (s.core core).active → (s.wgs.map Workgroup.id).Nodup →
    (∀ l e, Chosen s core (.launch l.id) → s.launch? l.id = some l → l.state = .distributed → s.dealEntry l core = some e →
      s.fitsIn core shadow (.launch l.id) = true → (∀ w ∈ s.wgs, w.id < s.nextId) →
      ∃ t, exec .preemptDecision s = .next t ∧ Placed s t l core shadow e.2.2 l.entry.toPcc 0 0
        ∧ (t.core core).filling = [s.nextId] ∧ (t.core core).swapRequested = false)
    ∧ (∀ i, Chosen s core (.context i) → s.bankFor core (.context i) = some shadow →
      s.fitsIn core shadow (.context i) = true → s.sweep = none → Canonical s →
      ∃ t, exec .preemptDecision s = .next t ∧ (∀ w ∈ s.contextOf core i, t.wg? w.id
          = some { w with saved := none, spillScr := none, spillAcc := false })
        ∧ ∀ w bs fe po, s.contextOf core i = [w] → w.spillScr = some (bs, fe, po) →
          ∀ n < bs.length, t.byteAt (w.scrPa + n) = bs.getD n 0)
    ∧ (∀ x, Chosen s core x → s.bankFor core x = some (s.core core).active ∨ s.fitsIn core shadow x = false →
      exec .preemptDecision s = .next (s.setCore { s.core core with swapRequested := true }))
    ∧ ((s.hall (dieOfCore core)).saveslots = 0 → s.outgoing core ≠ [] → exec .preemptDecision s = .next s)
    ∧ ((s.core core).filling ≠ [] → ∃ t, exec .fillComplete s = .next t ∧ (t.core core).filling = []
      ∧ ((t.core core).swapRequested = true ↔ ∃ w ∈ s.wgs, w.id ∈ (s.core core).filling)
      ∧ ∀ w ∈ s.wgs, w.id ∈ (s.core core).filling → w.life = .loading →
        t.wg? w.id = some { w with life := .suspended, savedClock := (s.core core).clock shadow })
    ∧ (SwapDue s core →
      ((s.outgoing core = [] ∨ s.freeSaveSlot core ≠ none) → (∃ w ∈ s.residents core shadow, w.life = .suspended) →
        (∀ w ∈ s.residents core shadow, w.life = .suspended → w.anyLive = true ∧
          ∀ th ∈ w.threads, ∀ h, th.status = .held h → h.reply = none) →
        ∃ t, exec .bankSwap s = .next t ∧ (t.core core).active = shadow ∧ (t.core core).swapRequested = false
          ∧ (s.outgoing core ≠ [] → ∃ i, s.freeSaveSlot core = some i
            ∧ (t.core core).spilling = some (i, (s.outgoing core).map Workgroup.id))
          ∧ (∀ w ∈ s.outgoing core, ∃ w', t.wg? w.id = some w' ∧ w'.life = .suspended ∧ w'.threads = w.threads ∧ w'.s = w.s
            ∧ w'.pend = w.pend)
          ∧ ∀ w ∈ s.residents core shadow, w.life = .suspended → ∃ w', t.wg? w.id = some w' ∧ w'.life = .running
            ∧ w'.threads = w.threads ∧ w'.s = w.s
            ∧ w'.pend = w.pend.map fun p => { p with due := p.due + ((s.core core).clock shadow - w.savedClock) })
      ∧ (s.contenders core = [] → (∀ w ∈ s.residents core shadow, w.life ≠ .suspended) →
        ∃ t, exec .bankSwap s = .next t ∧ (t.core core).swapRequested = false ∧ (t.core core).active = (s.core core).active
          ∧ ∀ w ∈ t.wgs, w.core = core → ∀ g ∈ w.groups, g.stopped = false))
    ∧ ∀ slot ids, (s.core core).spilling = some (slot, ids) → ids.Nodup → ∃ t, exec .spillComplete s = .next t
      ∧ (t.core core).spilling = none ∧ ∀ id ∈ ids, ∀ w, s.wg? id = some w → w.life = .suspended →
        (w.threads.map Thread.tid).Nodup →
        ∃ w', t.wg? id = some w' ∧ w'.saved = some slot ∧ w'.s = w.s ∧ w'.tiles = w.tiles ∧ w'.accs = w.accs
          ∧ ∀ tid th b, w.thread? tid = some th → th.live = true → s.liveBlock w th = some b → ∃ th', w'.thread? tid = some th'
            ∧ th'.p = th.p ∧ th'.pcc = th.pcc ∧ th'.tags = th.tags
            ∧ (∀ n < b.livev, th'.v[n]? = th.v[n]?) ∧ ∀ n ≤ b.livek, th'.k[n]? = th.k[n]?

/-- The steps of a sweep and those of the passes between packages complete (R434, R436): the start phase ends with no dirty copy, the
register phase leaves no revoked capability tagged in a register, the memory phase none in a granule, the state phase none in
a launch, an engine operation or an issued root; then gen advances and the completion bit is signalled on any notification
that no thread waits on, at once or with the last package's acknowledgement; a pass for another package clears its remote
capabilities and is acknowledged; and a timeout shows status 6. The step in which each phase happens is the model's
choice (log 52); the granule of the REVOKER's status byte, which the step writes, is left out of the memory clause. -/
def Obligations.SweepsComplete : Prop :=
  (∀ (s : State) (w : Sweep), s.sweep = some w → w.marked.Pairwise (· < ·) → Canonical s →
    (w.phase = 1 → NoPolls s → s.hallEvents = [] → ∃ t, exec .sweepRegisterPhase s = .next t ∧ t.sweep = some { w with phase := 2 }
      ∧ ∀ d < 4, ∀ a c, t.copy? d a = some c → c.dirty = 0)
    ∧ (w.phase = 2 → ∃ t, exec .sweepRegisterPhase s = .next t ∧ t.sweep = some { w with scanned := true }
      ∧ RegistersSwept (condemned w) s t ∧ t.mem = s.mem ∧ t.tags = s.tags)
    ∧ (w.phase = 2 → w.scanned = true → ∃ t, exec .sweepMemoryPhase s = .next t ∧ t.sweep = some { w with phase := 3 }
      ∧ ∀ a, a % 16 = 0 → (∀ pa, s.revoker = some pa → a / 16 ≠ (pa + 24) / 16) → Swept (condemned w) (s.capAt a) (t.capAt a))
    ∧ (w.phase = 3 → ∃ t, exec .sweepStatePhase s = .next t ∧ t.sweep = some { w with phase := 4 }
      ∧ (∀ (i : Nat) (l : Launch), s.launches[i]? = some l → ∃ l' : Launch, t.launches[i]? = some l' ∧ Swept (condemned w) l.entry l'.entry
        ∧ Swept (condemned w) l.args l'.args ∧ Swept (condemned w) l.fault l'.fault ∧ Swept (condemned w) l.stamp l'.stamp
        ∧ Swept (condemned w) l.cnotify l'.cnotify ∧ Swept (condemned w) l.work l'.work)
      ∧ (∀ (i : Nat) (c : Cap), s.th.roots[i]? = some c → ∃ c', t.th.roots[i]? = some c' ∧ Swept (condemned w) c c')
      ∧ ∀ (i : Nat) (o : EngineOp) (r : TensorRec), s.ops[i]? = some o → o.record = some r → ∃ (o' : EngineOp) (r' : TensorRec), t.ops[i]? = some o' ∧ o'.record = some r'
        ∧ Swept (condemned w) r.data r'.data ∧ Swept (condemned w) r.peer r'.peer ∧ Swept (condemned w) r.stamp r'.stamp
        ∧ Swept (condemned w) r.cbook r'.cbook)
    ∧ (s.passes = [] → s.hallEvents = [] → NoPolls s → SignalFree s w →
      (w.phase = 4 → w.waiting = [] → ∃ t, exec .sweepComplete s = .next t ∧ SweepEnded s t w)
      ∧ (w.phase = 5 → w.waiting = [s.ev.who] → ∃ t, exec .remotePassAck s = .next t ∧ SweepEnded s t w))
    ∧ (∀ pa, s.revoker = some pa → s.passes = [] → s.hallEvents = [] → w.phase = 5 → ∃ t, exec .remotePassTimeout s = .next t
      ∧ t.sweep = none ∧ t.peek (pa + 16) 8 = s.peek (pa + 16) 8 ∧ t.peek (pa + 24) 1 = 6)
    ∧ (w.phase = 4 → w.waiting ≠ [] → ∃ t, exec .sweepComplete s = .next t ∧ t.sweep = some { w with phase := 5 })
    ∧ ((∃ p ∈ w.waiting, p ≠ s.ev.who) → exec .remotePassAck s
      = .next { s with sweep := some { w with waiting := w.waiting.filter fun p => p != s.ev.who } })
    ∧ ∃ p, exec .remotePassRequest s = .next { s with passes := s.passes ++ [p] } ∧ p.source = s.ev.who
      ∧ p.rlo = s.ev.value.toNat ∧ p.rlen = s.ev.value2.toNat)
  ∧ ∀ s : State, s.sweep = none → Canonical s → (∀ d < 4, ∀ a c, s.copy? d a = some c → c.dirty = 0) → NoPolls s →
    s.hallEvents = [] → ∃ t marked, exec .remotePassRequest s = .next t
      ∧ (∀ n, n ∈ marked ↔ ∃ b, s.ev.bytes[n / 8]? = some b ∧ b.getLsbD (n % 8) = true)
      ∧ t.th.outbox = s.th.outbox ++ [.passAck s.ev.who]
      ∧ RegistersSwept (condemnedBy s.ev.who s.ev.value.toNat s.ev.value2.toNat marked) s t
      ∧ ∀ a, a % 16 = 0 → Swept (condemnedBy s.ev.who s.ev.value.toNat s.ev.value2.toNat marked) (s.capAt a) (t.capAt a)

/-- POWER_ON, BOOT_STEP, BOOT_WATCHDOG_EXPIRY, POWER_LOSS, CORE_RESET and UNCORRECTABLE_ERROR complete: a start keeps the flash
and the fences alone and takes the next boot number; a boot step is logged when it begins and when it ends, and has its own
effect, where a root port gets no more than 8 selective streams (R454); a failure or a watchdog starts the package again, or
holds it at step 0; a power loss leaves of a flash write what was written; a core's reset returns its transits; and an
uncorrectable error poisons its granule. That a restart keeps memory is the model's choice (log 43), and that a start clears
it log 1's. How many streams the devices agree to, and their keys, come from outside (log 79), as do the answers of training
(log 43). -/
def Obligations.BootCompletes : Prop :=
  ∀ s : State,
    (∃ t, exec .powerOn s = .next t ∧ t.mem = [] ∧ t.tags = [] ∧ t.fe = [] ∧ t.wgs = [] ∧ t.th.powered = true ∧ t.th.step = 0
      ∧ FlashKept s t ∧ FencesKept s t ∧ NextBoot s t)
    ∧ (∃ t, exec .powerLoss s = .next t ∧ t.mem = [] ∧ t.tags = [] ∧ t.wgs = [] ∧ t.th.powered = false ∧ t.th.log = s.th.log
      ∧ FencesKept s t ∧ (s.th.stage ≠ 1 → t.th.slots = s.th.slots)
      ∧ (s.th.stage = 1 → t.th.slots = s.th.slots.set s.th.target s.ev.bytes)
      ∧ (s.th.stage ≠ 3 → s.th.stage ≠ 4 → t.th.markers = s.th.markers)
      ∧ (s.th.stage = 3 → s.ev.ok = false → t.th.markers = s.th.markers.set s.th.flipCopy (BitVec.allOnes 128))
      ∧ (s.th.stage = 4 → s.ev.ok = true → ∃ m, t.th.markers = s.th.markers.set s.th.flipCopy m
        ∧ MarkerOf m s.th.flipSeq s.th.target))
    ∧ (s.th.powered = true → s.th.held = false → s.th.step < 10 →
      (s.th.begun = false → ∃ t, exec .bootStep s = .next t ∧ t.th.begun = true ∧ t.th.step = s.th.step
        ∧ Logged s t s.th.step 0 0 ∧ t.mem = s.mem)
      ∧ (s.th.begun = true → s.ev.outcome = .ok → ∃ t, exec .bootStep s = .next t ∧ t.th.begun = false
        ∧ t.th.step = s.th.step + 1
        ∧ Logged s t s.th.step (if s.th.troubled s.th.step then (if s.th.step = 2 ∨ s.th.step = 3 ∨ s.th.step = 4 then 4
            else if s.th.step = 7 ∨ s.th.step = 8 then 3 else 1) else 1) s.ev.value2.toNat
        ∧ (s.th.step = 0 → t.th.meas = s.th.meas.set 0 (Config.sha384 (bytesOfNat 48 (s.th.meas.getD 0 0).toNat
            ++ bytesOfNat 48 (Config.digest [0, Config.fusedSvn]).toNat)))
        ∧ (s.th.step = 1 → t.tags = [] ∧ t.summary = [] ∧ t.fe = [] ∧ t.mem = s.mem)
        ∧ (s.th.step = 5 → t.th.booted = some (if s.th.recovery then 2 else s.th.choose))
        ∧ (s.th.step = 8 → s.th.troubled 8 = false → ∀ p, (t.th.ideStreams.filter fun x => x.port == p).length ≤ 8)
        ∧ (s.th.step = 9 → ∀ i h, s.hart? i = some h → t.hart? i = some (if h.id = 0 then { h with run := .running } else h)))
      ∧ (s.th.begun = true → s.th.step = 0 → s.th.troubled 0 = true →
        (s.ev.outcome = .failed → ∃ t, exec .bootStep s = .next t ∧ t.th.held = true ∧ Logged s t 0 2 s.ev.value2.toNat)
        ∧ ∃ t, exec .bootWatchdogExpiry s = .next t ∧ t.th.held = true ∧ Logged s t 0 2 0)
      ∧ (s.th.begun = true → s.th.step ≠ 0 ∨ s.th.troubled 0 = false →
        (s.ev.outcome = .failed → ∃ t, exec .bootStep s = .next t ∧ t.th.step = 0 ∧ t.th.begun = false ∧ t.mem = s.mem
          ∧ t.wgs = [] ∧ FencesKept s t ∧ Logged s t s.th.step 2 s.ev.value2.toNat)
        ∧ ∃ t, exec .bootWatchdogExpiry s = .next t ∧ t.th.step = 0 ∧ t.th.begun = false ∧ t.mem = s.mem ∧ t.wgs = []
          ∧ FencesKept s t ∧ Logged s t s.th.step 2 0))
    ∧ (∃ t, exec .coreReset s = .next t ∧ t = { s with tasks := t.tasks }
      ∧ ∀ (i : Nat) (x : Task), s.tasks[i]? = some x →
        t.tasks[i]? = some (if x.place = .transit s.ev.who then { x with place := .deque } else x))
    ∧ (spaceOf s.ev.value.toNat = .hbm ∨ spaceOf s.ev.value.toNat = .vault ∨ spaceOf s.ev.value.toNat = .scratch →
      (s.ev.ok = true → homeOf s.ev.value.toNat < 4 → s.ev.arg = 0 → exec .uncorrectableError s
        = .next (s.count (hEccCorrected (homeOf s.ev.value.toNat))))
      ∧ (s.ev.ok = false → s.ev.arg = 0 → s.hallEvents = [] → s.th.replace = true → Canonical s →
        ∃ t, exec .uncorrectableError s = .next t ∧ (∀ a, t.poisonAt a = (s.poisonAt a || decide (a / 16 = s.ev.value.toNat / 16)))
          ∧ (homeOf s.ev.value.toNat < 4 → hEccUncorrectable (homeOf s.ev.value.toNat) < s.th.health.length → t.th.health.getD (hEccUncorrectable (homeOf s.ev.value.toNat)) 0
            = satInc (s.th.health.getD (hEccUncorrectable (homeOf s.ev.value.toNat)) 0))
          ∧ t.mem = s.mem))

/-- The mailbox commands complete: UPDATE and HANDOVER stage by stage through verification, slot and marker, LOGREAD, EVIDENCE,
DEBUG_UNLOCK, EXPORT, IMPORT, PROVISION, HEALTH, FENCE and REKEY with their effects, and MAILBOX_COMMAND_COMPLETE writes the
command's status. The bytes that the spec does not give are free functions (log 20); the refusals with status 6 that no rule
names, the order of the state block (log 41) and of the counters, the header and the region of a policy (log 25), the
refusals of EXPORT and IMPORT (log 42), which page tables keep a pseudo-channel (log 44), and how a rotation goes on (log
45), are the model's choices. -/
def Obligations.MailboxCompletes : Prop :=
  ∀ s : State, Canonical s →
    (s.th.stage = 100 → (s.th.pldm = false → ∃ t, exec .mailboxCommandComplete s = .next t
        ∧ t.th.status = BitVec.ofNat 64 s.th.result ∧ t.th.stage = 0)
      ∧ (s.th.pldm = true → ∃ t, exec .mailboxCommandComplete s = .next t ∧ t.th.pldm = false
        ∧ t.th.outbox = s.th.outbox ++ [.report reportDone s.th.result]))
    ∧ (s.th.runs 1 = true ∨ s.th.powered = true ∧ s.th.pldm = true ∧ s.th.stage ≠ 100 →
      UpdateStages s .update 3 ∧ FlipStages s .update)
    ∧ (s.th.runs 2 = true → s.th.pldm = false → UpdateStages s .handover 10 ∧ FlipStages s .handover
      ∧ (s.th.stage = 10 → ∃ t, exec .handover s = .next t ∧ t.th.quiescent = true ∧ t.th.stage = 11)
      ∧ (s.th.stage = 11 → ∃ t body, exec .handover s = .next t ∧ t.th.stage = 12
        ∧ t.th.stateBlock.drop 16 = body ∧ natOfBytes ((t.th.stateBlock.drop 8).take 4) = body.length % 2 ^ 32
        ∧ natOfBytes ((t.th.stateBlock.drop 12).take 4) = (crc32 body).toNat)
      ∧ (s.th.stage = 12 → s.th.latched = [] → ∃ t, exec .handover s = .next t ∧ t.th.quiescent = false
        ∧ (Config.imageAccepts (s.th.slot s.th.target) (natOfBytes (s.th.stateBlock.take 4)) = true → t.th.stage = 3
          ∧ t.th.bank = 1 - s.th.bank)
        ∧ (Config.imageAccepts (s.th.slot s.th.target) (natOfBytes (s.th.stateBlock.take 4)) = false → Ended t 5
          ∧ t.th.bank = s.th.bank)))
    ∧ (s.th.runs 3 = true → (s.th.arg0.toNat + 2 ^ 20 ≤ 2 ^ 39 → ∃ t, exec .logread s = .next t ∧ Ended t 0
        ∧ ∀ (i : Nat) (r : Nat × BitVec 128), i < 65024 → s.th.log.find? (fun r => r.1 == i) = some r →
          ∀ j < 16, t.byteAt (s.th.arg0.toNat + 16 * i + j) = (bytesOfNat 16 r.2.toNat).getD j 0)
      ∧ (2 ^ 39 < s.th.arg0.toNat + 2 ^ 20 → ∃ t, exec .logread s = .next t ∧ Ended t 6 ∧ t.mem = s.mem))
    ∧ (s.th.runs 0x10 = true → s.th.arg0.toNat + 2 ^ 14 ≤ 2 ^ 39 → s.th.arg1.toNat + 64 ≤ 2 ^ 39 →
      ∃ t token, exec .evidence s = .next t ∧ Ended t 0 ∧ t.th.nonce = (List.range 64).map (fun i => s.byteAt (s.th.arg1.toNat + i))
        ∧ token = (Config.evidence t.th.nonce s.th.meas s.th.dbgstat s.bootedSvn s.fenceMap s.th.replace s.th.boot).take 0x3FFC
        ∧ t.peek s.th.arg0.toNat 4 = token.length
        ∧ ∀ i < token.length, t.byteAt (s.th.arg0.toNat + 4 + i) = token.getD i 0)
    ∧ (s.th.runs 0x11 = true → s.th.arg0.toNat + 4096 ≤ 2 ^ 39 → ∀ token, token = s.bytesAt s.th.arg0.toNat 4096 →
      (Config.debugSigned token = true → s.th.nonce ≠ [] → Config.debugMatches token s.th.nonce = true → ∃ t, exec .debugUnlock s = .next t ∧ Ended t 0
        ∧ t.th.dbgstat = 3 ∧ t.th.debugPort = true ∧ t.th.fleetRoot = none ∧ t.th.ideStreams = []
        ∧ (∀ p ∈ s.podOthers, (t.pair p).down = true) ∧ ∀ p, (t.pair p).out.key = none ∧ (t.pair p).inn.key = none)
      ∧ (Config.debugSigned token = true → s.th.nonce = [] ∨ Config.debugMatches token s.th.nonce = false →
        exec .debugUnlock s = .next (s.endCommand 6))
      ∧ (Config.debugSigned token = false → exec .debugUnlock s = .next (s.endCommand 2)))
    ∧ (s.th.runs 0x14 = true → s.th.arg0.toNat + 4096 ≤ 2 ^ 39 → s.th.dbgstat = 0 →
      (∀ root, Config.fleetRootOf (s.bytesAt s.th.arg0.toNat 4096) = some root → ∃ t, exec .provision s = .next t ∧ Ended t 0
        ∧ t.th.fleetRoot = some root)
      ∧ (Config.fleetRootOf (s.bytesAt s.th.arg0.toNat 4096) = none → exec .provision s = .next (s.endCommand 2)))
    ∧ (s.th.runs 0x15 = true → s.th.arg0.toNat + 4096 ≤ 2 ^ 39 → ∃ t, exec .health s = .next t ∧ Ended t 0
      ∧ ∀ k < s.th.health.length, t.peek (s.th.arg0.toNat + 4 * k) 4 = (s.th.health.getD k 0).toNat)
    ∧ (s.th.runs 0x16 = true →
      (s.th.arg0.toNat < 1024 → ∃ t, exec .mailboxFence s = .next t ∧ Ended t 0
        ∧ ((∀ w ∈ s.wgs, w.core ≠ s.th.arg0.toNat) → (t.core s.th.arg0.toNat).fenced = true)
        ∧ ((∃ w ∈ s.wgs, w.core = s.th.arg0.toNat) → (s.core s.th.arg0.toNat).fenced = false →
          s.th.arg0.toNat ∈ t.th.fencePending))
      ∧ (∀ n, s.th.arg0.toNat = 0x10000 + n → n < 1024 → n % 256 < 128 →
        (s.channelUnmapped n = true → ∃ t, exec .mailboxFence s = .next t ∧ Ended t 0 ∧ n ∈ t.th.fencedPcs)
        ∧ (s.channelUnmapped n = false → exec .mailboxFence s = .next (s.endCommand 6))))
    ∧ (s.th.runs 0x17 = true → s.th.arg0.toNat ∈ s.podOthers → (s.pair s.th.arg0.toNat).down = false →
      (s.pair s.th.arg0.toNat).oldLeft = 0 → ∃ t, exec .rekey s = .next t ∧ Ended t 0
        ∧ t.th.outbox = s.th.outbox ++ [.rotation s.th.arg0.toNat]
        ∧ Rotated (s.pair s.th.arg0.toNat) (t.pair s.th.arg0.toNat))
    ∧ (∀ root, s.th.runs 0x12 = true → s.th.fleetRoot = some root →
      (s.th.stage = 0 → s.descriptorOk = true → s.th.dbgstat = 0 → s.checkpoint.count = 134272 → s.ops = [] →
        (∀ w ∈ s.wgs, w.life = .suspended) → (∀ l ∈ s.launches, l.state = .finished) → ∃ t, exec .exportCmd s = .next t ∧ t.th.stage = 1000 ∧ t.th.quiescent = true
          ∧ t.th.outbox = s.th.outbox ++ [.header t.th.header])
      ∧ (∀ i < 134272, s.th.stage = 1000 + i → ∃ t, exec .exportCmd s = .next t ∧ t.th.stage = 1000 + i + 1
        ∧ t.th.outbox = s.th.outbox ++ [.chunk (s.peek (s.checkpoint.chunks + 8 * i) 8) i
          (Config.sealChunk root (Config.policyHash s.checkpoint.policy) s.th.ckNonce s.th.header i
            (s.chunkBytes i s.checkpoint.work))])
      ∧ (s.th.stage = 1000 + 134272 → s.th.latched = [] → ∃ t, exec .exportCmd s = .next t ∧ Ended t 0
        ∧ t.th.quiescent = false))
    ∧ ∀ root, s.th.runs 0x13 = true → s.th.fleetRoot = some root →
      (∀ nonce, s.th.stage = 0 → s.descriptorOk = true → s.th.dbgstat = 0 → s.checkpoint.count = 134272 →
        (∀ i < 4, Config.policyAdmits s.checkpoint.policy i (s.th.meas.getD i 0) = true) →
        Config.policySvn s.checkpoint.policy ≤ s.bootedSvn →
        readHeader (Config.policyHash s.checkpoint.policy) (s.th.meas.getD 3 0) s.ev.bytes = some (134272, nonce) →
        ∃ t, exec .importCmd s = .next t ∧ t.th.stage = 1000 ∧ t.th.quiescent = true ∧ t.th.ckNonce = nonce)
      ∧ (∀ i b, i < 131072 → s.th.stage = 1000 + i →
        Config.openChunk root (Config.policyHash s.checkpoint.policy) s.th.ckNonce s.th.header i s.ev.bytes = some b →
        s.checkpoint.work + 2 ^ 20 ≤ i * 2 ^ 22 ∨ (i + 1) * 2 ^ 22 ≤ s.checkpoint.work →
        ∃ t, exec .importCmd s = .next t ∧ t.th.stage = 1000 + i + 1
          ∧ ∀ j < 2 ^ 22, j < b.length → t.byteAt (i * 2 ^ 22 + j) = b.getD j 0)
      ∧ (∀ i < 134272, s.th.stage = 1000 + i → s.th.latched = [] →
        Config.openChunk root (Config.policyHash s.checkpoint.policy) s.th.ckNonce s.th.header i s.ev.bytes = none →
        ∃ t, exec .importCmd s = .next t ∧ Ended t 2 ∧ t.mem = [] ∧ t.tags = [] ∧ t.wgs = [])

/-- What reaches the package completes: an access of another package is performed through its unsealed capability and answered
(R248), one of 16 bytes in two halves (R105), of which the lower is performed at once; a flit keeps or ends its pair; keys
rotate and expire; a line signals the notification bound to it; inbound reads, writes and interrupts are performed or
refused; a root port's error raises its line; and a management message has its effect. The requests between packages and
their operands (log 36), one flit a message, its tag's check and the retry as operands (log 45), the layouts of the IOMMU
and the shares of the windows (log 16), and free bytes for what a device or a responder answers (log 53), are the model's
choices. -/
def Obligations.PortsComplete : Prop :=
  ∀ (s : State) (req : Nat), req = (s.ev.value2.extractLsb' 32 32).toNat →
    ((s.pair s.ev.who).down = false →
      (s.ev.arg ≠ 7 → s.ev.cap.tag = false ∨ s.ev.cap.remote = false ∨ s.ev.cap.source ≠ s.ownPkg → ∃ t, exec .remoteAccessRequest s = .next t
        ∧ t.th.outbox = s.th.outbox ++ [.remoteReply s.ev.who req [] none none 0x10 0] ∧ t.mem = s.mem)
      ∧ ∀ u p c, c = { s.ev.cap with otype := 0 } → s.ev.cap.tag = true → s.ev.cap.remote = true → s.ev.cap.source = s.ownPkg →
        c.valid = true → (∀ w, s.sweep = some w → w.test c = false) → isOutside p.pas = false → u.th = s.th → u.copies = [] → Canonical u →
        Quiet u →
        (s.ev.arg = 0 → checkAccess s (remoteSeat s.ev.arg2) c 0 s.ev.value.toNat
            { perms := [pLOAD], n := s.ev.value2.toNat % 256, align := s.ev.value2.toNat % 256 } = (u, .ok p) →
          ((∀ a ∈ p.pas, u.poisonAt a = false) → s.ev.value2.toNat % 256 ≠ 16 → ∃ t, exec .remoteAccessRequest s = .next t
            ∧ t.th.outbox = s.th.outbox ++ [.remoteReply s.ev.who req (p.pas.map u.byteAt) none none 0 0])
          ∧ ((∀ a ∈ p.pas.take 8, u.poisonAt a = false) → s.ev.value2.toNat % 256 = 16 → ∃ t r, exec .remoteAccessRequest s = .next t
            ∧ r ∈ t.reqs ∧ r.who = .remote s.ev.who req ∧ r.pas = p.pas ∧ r.phase = .half (bytesAt u (p.pas.take 8))))
        ∧ (s.ev.arg = 1 → checkAccess s (remoteSeat s.ev.arg2) c 0 s.ev.value.toNat
            { perms := [pSTORE], n := s.ev.value2.toNat % 256, align := s.ev.value2.toNat % 256, need := { w := true } } = (u, .ok p) →
          (s.ev.value2.toNat % 256 ≠ 16 → ∃ t, exec .remoteAccessRequest s = .next t
            ∧ t.th.outbox = s.th.outbox ++ [.remoteReply s.ev.who req [] none none 0 0]
            ∧ ∀ a, t.byteAt a = (lastByte (p.pas.zip s.ev.bytes) a).getD (u.byteAt a))
          ∧ (s.ev.value2.toNat % 256 = 16 → ∃ t r, exec .remoteAccessRequest s = .next t
            ∧ r ∈ t.reqs ∧ r.who = .remote s.ev.who req ∧ r.pas = p.pas ∧ r.phase = .half []
            ∧ ∀ a, t.byteAt a = (lastByte ((p.pas.zip s.ev.bytes).take 8) a).getD (u.byteAt a))))
    ∧ ((s.pair s.ev.who).down = false → s.ev.value = 0 →
      (s.ev.ok = true → (s.ev.arg % 2 == 1) = (s.pair s.ev.who).inn.phase → s.ev.bytes = [] → ∃ t, exec .flitReceive s = .next t
        ∧ s.ev.value2 ∉ (t.pair s.ev.who).failed ∧ (t.pair s.ev.who).down = false)
      ∧ (s.ev.ok = false → s.ev.value2 ∉ (s.pair s.ev.who).failed → ∃ t, exec .flitReceive s = .next t
        ∧ s.ev.value2 ∈ (t.pair s.ev.who).failed ∧ (t.pair s.ev.who).down = false
        ∧ t.th.outbox = s.th.outbox ++ [.flitRetry s.ev.who s.ev.value2])
      ∧ (s.ev.ok = false → s.ev.value2 ∈ (s.pair s.ev.who).failed → ∃ t, exec .flitReceive s = .next t
        ∧ (t.pair s.ev.who).down = true))
    ∧ ((s.pair s.ev.who).down = false → s.ev.ok = true ∨ 2 ^ 47 ≤ (s.pair s.ev.who).out.seq → (s.pair s.ev.who).oldLeft = 0 →
      ∃ t, exec .keyRotationStart s = .next t ∧ Rotated (s.pair s.ev.who) (t.pair s.ev.who)
        ∧ t.th.outbox = s.th.outbox ++ (if s.ev.ok then [] else [.rotation s.ev.who]))
    ∧ ((s.pair s.ev.who).oldLeft = 1 → ∃ t, exec .oldKeyExpiry s = .next t ∧ (t.pair s.ev.who).oldLeft = 0
      ∧ (t.pair s.ev.who).oldKey = none ∧ (t.pair s.ev.who).inn = (s.pair s.ev.who).inn)
    ∧ (∀ pa n, s.ev.who < 24 → s.ev.who ≠ 18 → s.hallEvents = [] → Canonical s → LineBound s s.ev.who pa n →
      ∃ t, exec .irqLineAssert s = .next t ∧ t.peek (n + 16) 4 = s.peek (n + 16) 4 ||| 2 ^ s.peek (pa + 32) 4)
    ∧ (s.ev.who < s.th.rootPorts → s.th.links.getD s.ev.who false = true → ∀ u n, n = (if s.ev.ok then s.ev.bytes.length else s.ev.arg2) →
      0 < n → n ≤ (if s.ev.ok then 512 else 4096) → s.ev.value.toNat % 4096 + n ≤ 4096 →
      (∀ c, s.iommu (s.ev.arg % 2 ^ 16) (pasidOf s.ev.value2) s.ev.value.toNat s.ev.ok = (u, .fault c) → u.th = s.th → Canonical u →
        ∃ t, exec .inboundDma s = .next t ∧ RequestRefused u t c)
      ∧ ∀ pa pas, s.iommu (s.ev.arg % 2 ^ 16) (pasidOf s.ev.value2) s.ev.value.toNat s.ev.ok = (u, .memory pa) → u.ev = s.ev → u.th = s.th →
        pas = (List.range n).map (pa + ·) → Canonical u →
        (u.inboundOk s.ev.who pas = false → ∃ t, exec .inboundDma s = .next t ∧ RequestRefused u t (if s.ev.ok then 7 else 5))
        ∧ (u.inboundOk s.ev.who pas = true → isOutside pas = false →
          (s.ev.ok = true → Quiet u → ∃ t, exec .inboundDma s = .next t
            ∧ ∀ a, t.byteAt a = (lastByte (pas.zip s.ev.bytes) a).getD (u.byteAt a))
          ∧ (s.ev.ok = false → (∀ a ∈ pas, u.poisonAt a = false) → ∃ t, exec .inboundDma s = .next t ∧ t.mem = u.mem
            ∧ t.th.outbox = s.th.outbox ++ [.readCompletion s.ev.value.toNat (pas.map u.byteAt)])))
    ∧ (∀ u h n, s.ev.who < s.th.rootPorts → s.th.links.getD s.ev.who false = true → 1 ≤ s.ev.arg2 → s.ev.arg2 ≤ 255 →
      s.iommu (s.ev.arg % 2 ^ 16) (pasidOf s.ev.value2) s.ev.value.toNat true = (u, .msi (0x9001000000 + 4096 * n)) → u.ev = s.ev →
      u.hallEvents = [] → n < 24 → u.hart? n = some h →
      ∃ h', exec .inboundMsi s = .next (u.setHart h') ∧ h' = { h with mfile := { h.mfile with pending := h'.mfile.pending } }
        ∧ ∀ i < 256, h'.mfile.pending.getLsbD i = (h.mfile.pending.getLsbD i || decide (i = s.ev.arg2)))
    ∧ (∀ pa n, s.ev.who < s.th.rootPorts → s.ev.arg ≤ 3 → s.hallEvents = [] → Canonical s →
      LineBound s (4 * s.ev.who + s.ev.arg) pa n →
      ∃ t, exec .rootPortError s = .next t ∧ t.peek (n + 16) 4 = s.peek (n + 16) 4 ||| 2 ^ s.peek (pa + 32) 4
        ∧ (s.ev.arg = 3 → t.th.links = s.th.links.set s.ev.who s.ev.ok) ∧ (s.ev.arg ≠ 3 → t.th.links = s.th.links))
    ∧ (s.th.powered = true →
      (s.ev.arg = 0 → exec .managementMessage s = .next { s with th := { s.th with eid := s.ev.value.toNat % 256 } })
      ∧ (s.ev.arg = 2 → s.ev.value = 0 → ∃ t, exec .managementMessage s = .next t
        ∧ t.th.outbox = s.th.outbox ++ [.report reportReplace (if s.th.replace then 1 else 0)])
      ∧ (∀ k x, s.ev.arg = 2 → s.ev.value.toNat = k + 1 → s.th.health[k]? = some x → ∃ t, exec .managementMessage s = .next t
        ∧ t.th.outbox = s.th.outbox ++ [.report (256 + k) x.toNat])
      ∧ (s.ev.arg = 6 → ∃ t, exec .managementMessage s = .next t
        ∧ t.th.outbox = s.th.outbox ++ [.spdm (Config.spdmResponse s.ev.bytes s.th.meas)])
      ∧ (s.ev.arg = 5 → s.th.status ≠ 1 → s.th.pldm = false → ∃ t, exec .managementMessage s = .next t ∧ t.th.pldm = true
        ∧ t.th.pldmImage = s.ev.bytes ∧ t.th.stage = 0)
      ∧ (s.ev.arg = 5 → s.th.status = 1 → ∃ t, exec .managementMessage s = .next t ∧ t.th.pldm = s.th.pldm
        ∧ t.th.outbox = s.th.outbox ++ [.report reportRefused 6]))
end

