-- ==== Sys2Proof/Laws/State.lean ====
section
/-! SUPPORT. Updates of one field of the state leave every other field alone: one lemma for each field and update, so that
no proof unfolds a record update. -/

namespace Sys2Proof.Machine

@[simp] theorem State.setWg_agenda (s : State) (w : Workgroup) : (s.setWg w).agenda = s.agenda := rfl
@[simp] theorem State.setWg_cur (s : State) (w : Workgroup) : (s.setWg w).cur = s.cur := rfl
@[simp] theorem State.setWg_ev (s : State) (w : Workgroup) : (s.setWg w).ev = s.ev := rfl
@[simp] theorem State.setWg_freeCtr (s : State) (w : Workgroup) : (s.setWg w).freeCtr = s.freeCtr := rfl
@[simp] theorem State.setWg_nextId (s : State) (w : Workgroup) : (s.setWg w).nextId = s.nextId := rfl
@[simp] theorem State.setWg_mem (s : State) (w : Workgroup) : (s.setWg w).mem = s.mem := rfl
@[simp] theorem State.setWg_tags (s : State) (w : Workgroup) : (s.setWg w).tags = s.tags := rfl
@[simp] theorem State.setWg_summary (s : State) (w : Workgroup) : (s.setWg w).summary = s.summary := rfl
@[simp] theorem State.setWg_fe (s : State) (w : Workgroup) : (s.setWg w).fe = s.fe := rfl
@[simp] theorem State.setWg_poison (s : State) (w : Workgroup) : (s.setWg w).poison = s.poison := rfl
@[simp] theorem State.setWg_copies (s : State) (w : Workgroup) : (s.setWg w).copies = s.copies := rfl
@[simp] theorem State.setWg_l1 (s : State) (w : Workgroup) : (s.setWg w).l1 = s.l1 := rfl
@[simp] theorem State.setWg_directory (s : State) (w : Workgroup) : (s.setWg w).directory = s.directory := rfl
@[simp] theorem State.setWg_spans (s : State) (w : Workgroup) : (s.setWg w).spans = s.spans := rfl
@[simp] theorem State.setWg_tlb (s : State) (w : Workgroup) : (s.setWg w).tlb = s.tlb := rfl
@[simp] theorem State.setWg_asids (s : State) (w : Workgroup) : (s.setWg w).asids = s.asids := rfl
@[simp] theorem State.setWg_reqs (s : State) (w : Workgroup) : (s.setWg w).reqs = s.reqs := rfl
@[simp] theorem State.setWg_cores (s : State) (w : Workgroup) : (s.setWg w).cores = s.cores := rfl
@[simp] theorem State.setWg_bins (s : State) (w : Workgroup) : (s.setWg w).bins = s.bins := rfl
@[simp] theorem State.setWg_waits (s : State) (w : Workgroup) : (s.setWg w).waits = s.waits := rfl
@[simp] theorem State.setWg_barriers (s : State) (w : Workgroup) : (s.setWg w).barriers = s.barriers := rfl
@[simp] theorem State.setWg_eps (s : State) (w : Workgroup) : (s.setWg w).eps = s.eps := rfl
@[simp] theorem State.setWg_notes (s : State) (w : Workgroup) : (s.setWg w).notes = s.notes := rfl
@[simp] theorem State.setWg_halls (s : State) (w : Workgroup) : (s.setWg w).halls = s.halls := rfl
@[simp] theorem State.setWg_harts (s : State) (w : Workgroup) : (s.setWg w).harts = s.harts := rfl
@[simp] theorem State.setWg_ops (s : State) (w : Workgroup) : (s.setWg w).ops = s.ops := rfl
@[simp] theorem State.setWg_codebooks (s : State) (w : Workgroup) : (s.setWg w).codebooks = s.codebooks := rfl
@[simp] theorem State.setWg_prefetches (s : State) (w : Workgroup) : (s.setWg w).prefetches = s.prefetches := rfl
@[simp] theorem State.setWg_mailClaims (s : State) (w : Workgroup) : (s.setWg w).mailClaims = s.mailClaims := rfl
@[simp] theorem State.setWg_tasks (s : State) (w : Workgroup) : (s.setWg w).tasks = s.tasks := rfl
@[simp] theorem State.setWg_launches (s : State) (w : Workgroup) : (s.setWg w).launches = s.launches := rfl
@[simp] theorem State.setWg_queues (s : State) (w : Workgroup) : (s.setWg w).queues = s.queues := rfl
@[simp] theorem State.setWg_hallEvents (s : State) (w : Workgroup) : (s.setWg w).hallEvents = s.hallEvents := rfl
@[simp] theorem State.setWg_reservations (s : State) (w : Workgroup) : (s.setWg w).reservations = s.reservations := rfl
@[simp] theorem State.setWg_grains (s : State) (w : Workgroup) : (s.setWg w).grains = s.grains := rfl
@[simp] theorem State.setWg_sizes (s : State) (w : Workgroup) : (s.setWg w).sizes = s.sizes := rfl
@[simp] theorem State.setWg_lines (s : State) (w : Workgroup) : (s.setWg w).lines = s.lines := rfl
@[simp] theorem State.setWg_revoker (s : State) (w : Workgroup) : (s.setWg w).revoker = s.revoker := rfl
@[simp] theorem State.setWg_sweep (s : State) (w : Workgroup) : (s.setWg w).sweep = s.sweep := rfl
@[simp] theorem State.setWg_passes (s : State) (w : Workgroup) : (s.setWg w).passes = s.passes := rfl
@[simp] theorem State.setWg_th (s : State) (w : Workgroup) : (s.setWg w).th = s.th := rfl

@[simp] theorem State.setReq_agenda (s : State) (r : Request) : (s.setReq r).agenda = s.agenda := rfl
@[simp] theorem State.setReq_cur (s : State) (r : Request) : (s.setReq r).cur = s.cur := rfl
@[simp] theorem State.setReq_ev (s : State) (r : Request) : (s.setReq r).ev = s.ev := rfl
@[simp] theorem State.setReq_freeCtr (s : State) (r : Request) : (s.setReq r).freeCtr = s.freeCtr := rfl
@[simp] theorem State.setReq_nextId (s : State) (r : Request) : (s.setReq r).nextId = s.nextId := rfl
@[simp] theorem State.setReq_mem (s : State) (r : Request) : (s.setReq r).mem = s.mem := rfl
@[simp] theorem State.setReq_tags (s : State) (r : Request) : (s.setReq r).tags = s.tags := rfl
@[simp] theorem State.setReq_summary (s : State) (r : Request) : (s.setReq r).summary = s.summary := rfl
@[simp] theorem State.setReq_fe (s : State) (r : Request) : (s.setReq r).fe = s.fe := rfl
@[simp] theorem State.setReq_poison (s : State) (r : Request) : (s.setReq r).poison = s.poison := rfl
@[simp] theorem State.setReq_copies (s : State) (r : Request) : (s.setReq r).copies = s.copies := rfl
@[simp] theorem State.setReq_l1 (s : State) (r : Request) : (s.setReq r).l1 = s.l1 := rfl
@[simp] theorem State.setReq_directory (s : State) (r : Request) : (s.setReq r).directory = s.directory := rfl
@[simp] theorem State.setReq_spans (s : State) (r : Request) : (s.setReq r).spans = s.spans := rfl
@[simp] theorem State.setReq_tlb (s : State) (r : Request) : (s.setReq r).tlb = s.tlb := rfl
@[simp] theorem State.setReq_asids (s : State) (r : Request) : (s.setReq r).asids = s.asids := rfl
@[simp] theorem State.setReq_cores (s : State) (r : Request) : (s.setReq r).cores = s.cores := rfl
@[simp] theorem State.setReq_bins (s : State) (r : Request) : (s.setReq r).bins = s.bins := rfl
@[simp] theorem State.setReq_wgs (s : State) (r : Request) : (s.setReq r).wgs = s.wgs := rfl
@[simp] theorem State.setReq_waits (s : State) (r : Request) : (s.setReq r).waits = s.waits := rfl
@[simp] theorem State.setReq_barriers (s : State) (r : Request) : (s.setReq r).barriers = s.barriers := rfl
@[simp] theorem State.setReq_eps (s : State) (r : Request) : (s.setReq r).eps = s.eps := rfl
@[simp] theorem State.setReq_notes (s : State) (r : Request) : (s.setReq r).notes = s.notes := rfl
@[simp] theorem State.setReq_halls (s : State) (r : Request) : (s.setReq r).halls = s.halls := rfl
@[simp] theorem State.setReq_harts (s : State) (r : Request) : (s.setReq r).harts = s.harts := rfl
@[simp] theorem State.setReq_ops (s : State) (r : Request) : (s.setReq r).ops = s.ops := rfl
@[simp] theorem State.setReq_codebooks (s : State) (r : Request) : (s.setReq r).codebooks = s.codebooks := rfl
@[simp] theorem State.setReq_prefetches (s : State) (r : Request) : (s.setReq r).prefetches = s.prefetches := rfl
@[simp] theorem State.setReq_mailClaims (s : State) (r : Request) : (s.setReq r).mailClaims = s.mailClaims := rfl
@[simp] theorem State.setReq_tasks (s : State) (r : Request) : (s.setReq r).tasks = s.tasks := rfl
@[simp] theorem State.setReq_launches (s : State) (r : Request) : (s.setReq r).launches = s.launches := rfl
@[simp] theorem State.setReq_queues (s : State) (r : Request) : (s.setReq r).queues = s.queues := rfl
@[simp] theorem State.setReq_hallEvents (s : State) (r : Request) : (s.setReq r).hallEvents = s.hallEvents := rfl
@[simp] theorem State.setReq_reservations (s : State) (r : Request) : (s.setReq r).reservations = s.reservations := rfl
@[simp] theorem State.setReq_grains (s : State) (r : Request) : (s.setReq r).grains = s.grains := rfl
@[simp] theorem State.setReq_sizes (s : State) (r : Request) : (s.setReq r).sizes = s.sizes := rfl
@[simp] theorem State.setReq_lines (s : State) (r : Request) : (s.setReq r).lines = s.lines := rfl
@[simp] theorem State.setReq_revoker (s : State) (r : Request) : (s.setReq r).revoker = s.revoker := rfl
@[simp] theorem State.setReq_sweep (s : State) (r : Request) : (s.setReq r).sweep = s.sweep := rfl
@[simp] theorem State.setReq_passes (s : State) (r : Request) : (s.setReq r).passes = s.passes := rfl
@[simp] theorem State.setReq_th (s : State) (r : Request) : (s.setReq r).th = s.th := rfl

@[simp] theorem State.dropReq_agenda (s : State) (n : Nat) : (s.dropReq n).agenda = s.agenda := rfl
@[simp] theorem State.dropReq_cur (s : State) (n : Nat) : (s.dropReq n).cur = s.cur := rfl
@[simp] theorem State.dropReq_ev (s : State) (n : Nat) : (s.dropReq n).ev = s.ev := rfl
@[simp] theorem State.dropReq_freeCtr (s : State) (n : Nat) : (s.dropReq n).freeCtr = s.freeCtr := rfl
@[simp] theorem State.dropReq_nextId (s : State) (n : Nat) : (s.dropReq n).nextId = s.nextId := rfl
@[simp] theorem State.dropReq_mem (s : State) (n : Nat) : (s.dropReq n).mem = s.mem := rfl
@[simp] theorem State.dropReq_tags (s : State) (n : Nat) : (s.dropReq n).tags = s.tags := rfl
@[simp] theorem State.dropReq_summary (s : State) (n : Nat) : (s.dropReq n).summary = s.summary := rfl
@[simp] theorem State.dropReq_fe (s : State) (n : Nat) : (s.dropReq n).fe = s.fe := rfl
@[simp] theorem State.dropReq_poison (s : State) (n : Nat) : (s.dropReq n).poison = s.poison := rfl
@[simp] theorem State.dropReq_copies (s : State) (n : Nat) : (s.dropReq n).copies = s.copies := rfl
@[simp] theorem State.dropReq_l1 (s : State) (n : Nat) : (s.dropReq n).l1 = s.l1 := rfl
@[simp] theorem State.dropReq_directory (s : State) (n : Nat) : (s.dropReq n).directory = s.directory := rfl
@[simp] theorem State.dropReq_spans (s : State) (n : Nat) : (s.dropReq n).spans = s.spans := rfl
@[simp] theorem State.dropReq_tlb (s : State) (n : Nat) : (s.dropReq n).tlb = s.tlb := rfl
@[simp] theorem State.dropReq_asids (s : State) (n : Nat) : (s.dropReq n).asids = s.asids := rfl
@[simp] theorem State.dropReq_cores (s : State) (n : Nat) : (s.dropReq n).cores = s.cores := rfl
@[simp] theorem State.dropReq_bins (s : State) (n : Nat) : (s.dropReq n).bins = s.bins := rfl
@[simp] theorem State.dropReq_wgs (s : State) (n : Nat) : (s.dropReq n).wgs = s.wgs := rfl
@[simp] theorem State.dropReq_waits (s : State) (n : Nat) : (s.dropReq n).waits = s.waits := rfl
@[simp] theorem State.dropReq_barriers (s : State) (n : Nat) : (s.dropReq n).barriers = s.barriers := rfl
@[simp] theorem State.dropReq_eps (s : State) (n : Nat) : (s.dropReq n).eps = s.eps := rfl
@[simp] theorem State.dropReq_notes (s : State) (n : Nat) : (s.dropReq n).notes = s.notes := rfl
@[simp] theorem State.dropReq_halls (s : State) (n : Nat) : (s.dropReq n).halls = s.halls := rfl
@[simp] theorem State.dropReq_harts (s : State) (n : Nat) : (s.dropReq n).harts = s.harts := rfl
@[simp] theorem State.dropReq_ops (s : State) (n : Nat) : (s.dropReq n).ops = s.ops := rfl
@[simp] theorem State.dropReq_codebooks (s : State) (n : Nat) : (s.dropReq n).codebooks = s.codebooks := rfl
@[simp] theorem State.dropReq_prefetches (s : State) (n : Nat) : (s.dropReq n).prefetches = s.prefetches := rfl
@[simp] theorem State.dropReq_mailClaims (s : State) (n : Nat) : (s.dropReq n).mailClaims = s.mailClaims := rfl
@[simp] theorem State.dropReq_tasks (s : State) (n : Nat) : (s.dropReq n).tasks = s.tasks := rfl
@[simp] theorem State.dropReq_launches (s : State) (n : Nat) : (s.dropReq n).launches = s.launches := rfl
@[simp] theorem State.dropReq_queues (s : State) (n : Nat) : (s.dropReq n).queues = s.queues := rfl
@[simp] theorem State.dropReq_hallEvents (s : State) (n : Nat) : (s.dropReq n).hallEvents = s.hallEvents := rfl
@[simp] theorem State.dropReq_reservations (s : State) (n : Nat) : (s.dropReq n).reservations = s.reservations := rfl
@[simp] theorem State.dropReq_grains (s : State) (n : Nat) : (s.dropReq n).grains = s.grains := rfl
@[simp] theorem State.dropReq_sizes (s : State) (n : Nat) : (s.dropReq n).sizes = s.sizes := rfl
@[simp] theorem State.dropReq_lines (s : State) (n : Nat) : (s.dropReq n).lines = s.lines := rfl
@[simp] theorem State.dropReq_revoker (s : State) (n : Nat) : (s.dropReq n).revoker = s.revoker := rfl
@[simp] theorem State.dropReq_sweep (s : State) (n : Nat) : (s.dropReq n).sweep = s.sweep := rfl
@[simp] theorem State.dropReq_passes (s : State) (n : Nat) : (s.dropReq n).passes = s.passes := rfl
@[simp] theorem State.dropReq_th (s : State) (n : Nat) : (s.dropReq n).th = s.th := rfl

@[simp] theorem State.setOp_agenda (s : State) (o : EngineOp) : (s.setOp o).agenda = s.agenda := rfl
@[simp] theorem State.setOp_cur (s : State) (o : EngineOp) : (s.setOp o).cur = s.cur := rfl
@[simp] theorem State.setOp_ev (s : State) (o : EngineOp) : (s.setOp o).ev = s.ev := rfl
@[simp] theorem State.setOp_freeCtr (s : State) (o : EngineOp) : (s.setOp o).freeCtr = s.freeCtr := rfl
@[simp] theorem State.setOp_nextId (s : State) (o : EngineOp) : (s.setOp o).nextId = s.nextId := rfl
@[simp] theorem State.setOp_mem (s : State) (o : EngineOp) : (s.setOp o).mem = s.mem := rfl
@[simp] theorem State.setOp_tags (s : State) (o : EngineOp) : (s.setOp o).tags = s.tags := rfl
@[simp] theorem State.setOp_summary (s : State) (o : EngineOp) : (s.setOp o).summary = s.summary := rfl
@[simp] theorem State.setOp_fe (s : State) (o : EngineOp) : (s.setOp o).fe = s.fe := rfl
@[simp] theorem State.setOp_poison (s : State) (o : EngineOp) : (s.setOp o).poison = s.poison := rfl
@[simp] theorem State.setOp_copies (s : State) (o : EngineOp) : (s.setOp o).copies = s.copies := rfl
@[simp] theorem State.setOp_l1 (s : State) (o : EngineOp) : (s.setOp o).l1 = s.l1 := rfl
@[simp] theorem State.setOp_directory (s : State) (o : EngineOp) : (s.setOp o).directory = s.directory := rfl
@[simp] theorem State.setOp_spans (s : State) (o : EngineOp) : (s.setOp o).spans = s.spans := rfl
@[simp] theorem State.setOp_tlb (s : State) (o : EngineOp) : (s.setOp o).tlb = s.tlb := rfl
@[simp] theorem State.setOp_asids (s : State) (o : EngineOp) : (s.setOp o).asids = s.asids := rfl
@[simp] theorem State.setOp_reqs (s : State) (o : EngineOp) : (s.setOp o).reqs = s.reqs := rfl
@[simp] theorem State.setOp_cores (s : State) (o : EngineOp) : (s.setOp o).cores = s.cores := rfl
@[simp] theorem State.setOp_bins (s : State) (o : EngineOp) : (s.setOp o).bins = s.bins := rfl
@[simp] theorem State.setOp_wgs (s : State) (o : EngineOp) : (s.setOp o).wgs = s.wgs := rfl
@[simp] theorem State.setOp_waits (s : State) (o : EngineOp) : (s.setOp o).waits = s.waits := rfl
@[simp] theorem State.setOp_barriers (s : State) (o : EngineOp) : (s.setOp o).barriers = s.barriers := rfl
@[simp] theorem State.setOp_eps (s : State) (o : EngineOp) : (s.setOp o).eps = s.eps := rfl
@[simp] theorem State.setOp_notes (s : State) (o : EngineOp) : (s.setOp o).notes = s.notes := rfl
@[simp] theorem State.setOp_halls (s : State) (o : EngineOp) : (s.setOp o).halls = s.halls := rfl
@[simp] theorem State.setOp_harts (s : State) (o : EngineOp) : (s.setOp o).harts = s.harts := rfl
@[simp] theorem State.setOp_codebooks (s : State) (o : EngineOp) : (s.setOp o).codebooks = s.codebooks := rfl
@[simp] theorem State.setOp_prefetches (s : State) (o : EngineOp) : (s.setOp o).prefetches = s.prefetches := rfl
@[simp] theorem State.setOp_mailClaims (s : State) (o : EngineOp) : (s.setOp o).mailClaims = s.mailClaims := rfl
@[simp] theorem State.setOp_tasks (s : State) (o : EngineOp) : (s.setOp o).tasks = s.tasks := rfl
@[simp] theorem State.setOp_launches (s : State) (o : EngineOp) : (s.setOp o).launches = s.launches := rfl
@[simp] theorem State.setOp_queues (s : State) (o : EngineOp) : (s.setOp o).queues = s.queues := rfl
@[simp] theorem State.setOp_hallEvents (s : State) (o : EngineOp) : (s.setOp o).hallEvents = s.hallEvents := rfl
@[simp] theorem State.setOp_reservations (s : State) (o : EngineOp) : (s.setOp o).reservations = s.reservations := rfl
@[simp] theorem State.setOp_grains (s : State) (o : EngineOp) : (s.setOp o).grains = s.grains := rfl
@[simp] theorem State.setOp_sizes (s : State) (o : EngineOp) : (s.setOp o).sizes = s.sizes := rfl
@[simp] theorem State.setOp_lines (s : State) (o : EngineOp) : (s.setOp o).lines = s.lines := rfl
@[simp] theorem State.setOp_revoker (s : State) (o : EngineOp) : (s.setOp o).revoker = s.revoker := rfl
@[simp] theorem State.setOp_sweep (s : State) (o : EngineOp) : (s.setOp o).sweep = s.sweep := rfl
@[simp] theorem State.setOp_passes (s : State) (o : EngineOp) : (s.setOp o).passes = s.passes := rfl
@[simp] theorem State.setOp_th (s : State) (o : EngineOp) : (s.setOp o).th = s.th := rfl

@[simp] theorem State.dropOp_agenda (s : State) (n : Nat) : (s.dropOp n).agenda = s.agenda := rfl
@[simp] theorem State.dropOp_cur (s : State) (n : Nat) : (s.dropOp n).cur = s.cur := rfl
@[simp] theorem State.dropOp_ev (s : State) (n : Nat) : (s.dropOp n).ev = s.ev := rfl
@[simp] theorem State.dropOp_freeCtr (s : State) (n : Nat) : (s.dropOp n).freeCtr = s.freeCtr := rfl
@[simp] theorem State.dropOp_nextId (s : State) (n : Nat) : (s.dropOp n).nextId = s.nextId := rfl
@[simp] theorem State.dropOp_mem (s : State) (n : Nat) : (s.dropOp n).mem = s.mem := rfl
@[simp] theorem State.dropOp_tags (s : State) (n : Nat) : (s.dropOp n).tags = s.tags := rfl
@[simp] theorem State.dropOp_summary (s : State) (n : Nat) : (s.dropOp n).summary = s.summary := rfl
@[simp] theorem State.dropOp_fe (s : State) (n : Nat) : (s.dropOp n).fe = s.fe := rfl
@[simp] theorem State.dropOp_poison (s : State) (n : Nat) : (s.dropOp n).poison = s.poison := rfl
@[simp] theorem State.dropOp_copies (s : State) (n : Nat) : (s.dropOp n).copies = s.copies := rfl
@[simp] theorem State.dropOp_l1 (s : State) (n : Nat) : (s.dropOp n).l1 = s.l1 := rfl
@[simp] theorem State.dropOp_directory (s : State) (n : Nat) : (s.dropOp n).directory = s.directory := rfl
@[simp] theorem State.dropOp_spans (s : State) (n : Nat) : (s.dropOp n).spans = s.spans := rfl
@[simp] theorem State.dropOp_tlb (s : State) (n : Nat) : (s.dropOp n).tlb = s.tlb := rfl
@[simp] theorem State.dropOp_asids (s : State) (n : Nat) : (s.dropOp n).asids = s.asids := rfl
@[simp] theorem State.dropOp_reqs (s : State) (n : Nat) : (s.dropOp n).reqs = s.reqs := rfl
@[simp] theorem State.dropOp_cores (s : State) (n : Nat) : (s.dropOp n).cores = s.cores := rfl
@[simp] theorem State.dropOp_bins (s : State) (n : Nat) : (s.dropOp n).bins = s.bins := rfl
@[simp] theorem State.dropOp_wgs (s : State) (n : Nat) : (s.dropOp n).wgs = s.wgs := rfl
@[simp] theorem State.dropOp_waits (s : State) (n : Nat) : (s.dropOp n).waits = s.waits := rfl
@[simp] theorem State.dropOp_barriers (s : State) (n : Nat) : (s.dropOp n).barriers = s.barriers := rfl
@[simp] theorem State.dropOp_eps (s : State) (n : Nat) : (s.dropOp n).eps = s.eps := rfl
@[simp] theorem State.dropOp_notes (s : State) (n : Nat) : (s.dropOp n).notes = s.notes := rfl
@[simp] theorem State.dropOp_halls (s : State) (n : Nat) : (s.dropOp n).halls = s.halls := rfl
@[simp] theorem State.dropOp_harts (s : State) (n : Nat) : (s.dropOp n).harts = s.harts := rfl
@[simp] theorem State.dropOp_codebooks (s : State) (n : Nat) : (s.dropOp n).codebooks = s.codebooks := rfl
@[simp] theorem State.dropOp_prefetches (s : State) (n : Nat) : (s.dropOp n).prefetches = s.prefetches := rfl
@[simp] theorem State.dropOp_mailClaims (s : State) (n : Nat) : (s.dropOp n).mailClaims = s.mailClaims := rfl
@[simp] theorem State.dropOp_tasks (s : State) (n : Nat) : (s.dropOp n).tasks = s.tasks := rfl
@[simp] theorem State.dropOp_launches (s : State) (n : Nat) : (s.dropOp n).launches = s.launches := rfl
@[simp] theorem State.dropOp_queues (s : State) (n : Nat) : (s.dropOp n).queues = s.queues := rfl
@[simp] theorem State.dropOp_hallEvents (s : State) (n : Nat) : (s.dropOp n).hallEvents = s.hallEvents := rfl
@[simp] theorem State.dropOp_reservations (s : State) (n : Nat) : (s.dropOp n).reservations = s.reservations := rfl
@[simp] theorem State.dropOp_grains (s : State) (n : Nat) : (s.dropOp n).grains = s.grains := rfl
@[simp] theorem State.dropOp_sizes (s : State) (n : Nat) : (s.dropOp n).sizes = s.sizes := rfl
@[simp] theorem State.dropOp_lines (s : State) (n : Nat) : (s.dropOp n).lines = s.lines := rfl
@[simp] theorem State.dropOp_revoker (s : State) (n : Nat) : (s.dropOp n).revoker = s.revoker := rfl
@[simp] theorem State.dropOp_sweep (s : State) (n : Nat) : (s.dropOp n).sweep = s.sweep := rfl
@[simp] theorem State.dropOp_passes (s : State) (n : Nat) : (s.dropOp n).passes = s.passes := rfl
@[simp] theorem State.dropOp_th (s : State) (n : Nat) : (s.dropOp n).th = s.th := rfl

@[simp] theorem State.setLaunch_agenda (s : State) (l : Launch) : (s.setLaunch l).agenda = s.agenda := rfl
@[simp] theorem State.setLaunch_cur (s : State) (l : Launch) : (s.setLaunch l).cur = s.cur := rfl
@[simp] theorem State.setLaunch_ev (s : State) (l : Launch) : (s.setLaunch l).ev = s.ev := rfl
@[simp] theorem State.setLaunch_freeCtr (s : State) (l : Launch) : (s.setLaunch l).freeCtr = s.freeCtr := rfl
@[simp] theorem State.setLaunch_nextId (s : State) (l : Launch) : (s.setLaunch l).nextId = s.nextId := rfl
@[simp] theorem State.setLaunch_mem (s : State) (l : Launch) : (s.setLaunch l).mem = s.mem := rfl
@[simp] theorem State.setLaunch_tags (s : State) (l : Launch) : (s.setLaunch l).tags = s.tags := rfl
@[simp] theorem State.setLaunch_summary (s : State) (l : Launch) : (s.setLaunch l).summary = s.summary := rfl
@[simp] theorem State.setLaunch_fe (s : State) (l : Launch) : (s.setLaunch l).fe = s.fe := rfl
@[simp] theorem State.setLaunch_poison (s : State) (l : Launch) : (s.setLaunch l).poison = s.poison := rfl
@[simp] theorem State.setLaunch_copies (s : State) (l : Launch) : (s.setLaunch l).copies = s.copies := rfl
@[simp] theorem State.setLaunch_l1 (s : State) (l : Launch) : (s.setLaunch l).l1 = s.l1 := rfl
@[simp] theorem State.setLaunch_directory (s : State) (l : Launch) : (s.setLaunch l).directory = s.directory := rfl
@[simp] theorem State.setLaunch_spans (s : State) (l : Launch) : (s.setLaunch l).spans = s.spans := rfl
@[simp] theorem State.setLaunch_tlb (s : State) (l : Launch) : (s.setLaunch l).tlb = s.tlb := rfl
@[simp] theorem State.setLaunch_asids (s : State) (l : Launch) : (s.setLaunch l).asids = s.asids := rfl
@[simp] theorem State.setLaunch_reqs (s : State) (l : Launch) : (s.setLaunch l).reqs = s.reqs := rfl
@[simp] theorem State.setLaunch_cores (s : State) (l : Launch) : (s.setLaunch l).cores = s.cores := rfl
@[simp] theorem State.setLaunch_bins (s : State) (l : Launch) : (s.setLaunch l).bins = s.bins := rfl
@[simp] theorem State.setLaunch_wgs (s : State) (l : Launch) : (s.setLaunch l).wgs = s.wgs := rfl
@[simp] theorem State.setLaunch_waits (s : State) (l : Launch) : (s.setLaunch l).waits = s.waits := rfl
@[simp] theorem State.setLaunch_barriers (s : State) (l : Launch) : (s.setLaunch l).barriers = s.barriers := rfl
@[simp] theorem State.setLaunch_eps (s : State) (l : Launch) : (s.setLaunch l).eps = s.eps := rfl
@[simp] theorem State.setLaunch_notes (s : State) (l : Launch) : (s.setLaunch l).notes = s.notes := rfl
@[simp] theorem State.setLaunch_halls (s : State) (l : Launch) : (s.setLaunch l).halls = s.halls := rfl
@[simp] theorem State.setLaunch_harts (s : State) (l : Launch) : (s.setLaunch l).harts = s.harts := rfl
@[simp] theorem State.setLaunch_ops (s : State) (l : Launch) : (s.setLaunch l).ops = s.ops := rfl
@[simp] theorem State.setLaunch_codebooks (s : State) (l : Launch) : (s.setLaunch l).codebooks = s.codebooks := rfl
@[simp] theorem State.setLaunch_prefetches (s : State) (l : Launch) : (s.setLaunch l).prefetches = s.prefetches := rfl
@[simp] theorem State.setLaunch_mailClaims (s : State) (l : Launch) : (s.setLaunch l).mailClaims = s.mailClaims := rfl
@[simp] theorem State.setLaunch_tasks (s : State) (l : Launch) : (s.setLaunch l).tasks = s.tasks := rfl
@[simp] theorem State.setLaunch_queues (s : State) (l : Launch) : (s.setLaunch l).queues = s.queues := rfl
@[simp] theorem State.setLaunch_hallEvents (s : State) (l : Launch) : (s.setLaunch l).hallEvents = s.hallEvents := rfl
@[simp] theorem State.setLaunch_reservations (s : State) (l : Launch) : (s.setLaunch l).reservations = s.reservations := rfl
@[simp] theorem State.setLaunch_grains (s : State) (l : Launch) : (s.setLaunch l).grains = s.grains := rfl
@[simp] theorem State.setLaunch_sizes (s : State) (l : Launch) : (s.setLaunch l).sizes = s.sizes := rfl
@[simp] theorem State.setLaunch_lines (s : State) (l : Launch) : (s.setLaunch l).lines = s.lines := rfl
@[simp] theorem State.setLaunch_revoker (s : State) (l : Launch) : (s.setLaunch l).revoker = s.revoker := rfl
@[simp] theorem State.setLaunch_sweep (s : State) (l : Launch) : (s.setLaunch l).sweep = s.sweep := rfl
@[simp] theorem State.setLaunch_passes (s : State) (l : Launch) : (s.setLaunch l).passes = s.passes := rfl
@[simp] theorem State.setLaunch_th (s : State) (l : Launch) : (s.setLaunch l).th = s.th := rfl

@[simp] theorem State.setQueue_agenda (s : State) (q : QueueState) : (s.setQueue q).agenda = s.agenda := rfl
@[simp] theorem State.setQueue_cur (s : State) (q : QueueState) : (s.setQueue q).cur = s.cur := rfl
@[simp] theorem State.setQueue_ev (s : State) (q : QueueState) : (s.setQueue q).ev = s.ev := rfl
@[simp] theorem State.setQueue_freeCtr (s : State) (q : QueueState) : (s.setQueue q).freeCtr = s.freeCtr := rfl
@[simp] theorem State.setQueue_nextId (s : State) (q : QueueState) : (s.setQueue q).nextId = s.nextId := rfl
@[simp] theorem State.setQueue_mem (s : State) (q : QueueState) : (s.setQueue q).mem = s.mem := rfl
@[simp] theorem State.setQueue_tags (s : State) (q : QueueState) : (s.setQueue q).tags = s.tags := rfl
@[simp] theorem State.setQueue_summary (s : State) (q : QueueState) : (s.setQueue q).summary = s.summary := rfl
@[simp] theorem State.setQueue_fe (s : State) (q : QueueState) : (s.setQueue q).fe = s.fe := rfl
@[simp] theorem State.setQueue_poison (s : State) (q : QueueState) : (s.setQueue q).poison = s.poison := rfl
@[simp] theorem State.setQueue_copies (s : State) (q : QueueState) : (s.setQueue q).copies = s.copies := rfl
@[simp] theorem State.setQueue_l1 (s : State) (q : QueueState) : (s.setQueue q).l1 = s.l1 := rfl
@[simp] theorem State.setQueue_directory (s : State) (q : QueueState) : (s.setQueue q).directory = s.directory := rfl
@[simp] theorem State.setQueue_spans (s : State) (q : QueueState) : (s.setQueue q).spans = s.spans := rfl
@[simp] theorem State.setQueue_tlb (s : State) (q : QueueState) : (s.setQueue q).tlb = s.tlb := rfl
@[simp] theorem State.setQueue_asids (s : State) (q : QueueState) : (s.setQueue q).asids = s.asids := rfl
@[simp] theorem State.setQueue_reqs (s : State) (q : QueueState) : (s.setQueue q).reqs = s.reqs := rfl
@[simp] theorem State.setQueue_cores (s : State) (q : QueueState) : (s.setQueue q).cores = s.cores := rfl
@[simp] theorem State.setQueue_bins (s : State) (q : QueueState) : (s.setQueue q).bins = s.bins := rfl
@[simp] theorem State.setQueue_wgs (s : State) (q : QueueState) : (s.setQueue q).wgs = s.wgs := rfl
@[simp] theorem State.setQueue_waits (s : State) (q : QueueState) : (s.setQueue q).waits = s.waits := rfl
@[simp] theorem State.setQueue_barriers (s : State) (q : QueueState) : (s.setQueue q).barriers = s.barriers := rfl
@[simp] theorem State.setQueue_eps (s : State) (q : QueueState) : (s.setQueue q).eps = s.eps := rfl
@[simp] theorem State.setQueue_notes (s : State) (q : QueueState) : (s.setQueue q).notes = s.notes := rfl
@[simp] theorem State.setQueue_halls (s : State) (q : QueueState) : (s.setQueue q).halls = s.halls := rfl
@[simp] theorem State.setQueue_harts (s : State) (q : QueueState) : (s.setQueue q).harts = s.harts := rfl
@[simp] theorem State.setQueue_ops (s : State) (q : QueueState) : (s.setQueue q).ops = s.ops := rfl
@[simp] theorem State.setQueue_codebooks (s : State) (q : QueueState) : (s.setQueue q).codebooks = s.codebooks := rfl
@[simp] theorem State.setQueue_prefetches (s : State) (q : QueueState) : (s.setQueue q).prefetches = s.prefetches := rfl
@[simp] theorem State.setQueue_mailClaims (s : State) (q : QueueState) : (s.setQueue q).mailClaims = s.mailClaims := rfl
@[simp] theorem State.setQueue_tasks (s : State) (q : QueueState) : (s.setQueue q).tasks = s.tasks := rfl
@[simp] theorem State.setQueue_launches (s : State) (q : QueueState) : (s.setQueue q).launches = s.launches := rfl
@[simp] theorem State.setQueue_hallEvents (s : State) (q : QueueState) : (s.setQueue q).hallEvents = s.hallEvents := rfl
@[simp] theorem State.setQueue_reservations (s : State) (q : QueueState) : (s.setQueue q).reservations = s.reservations := rfl
@[simp] theorem State.setQueue_grains (s : State) (q : QueueState) : (s.setQueue q).grains = s.grains := rfl
@[simp] theorem State.setQueue_sizes (s : State) (q : QueueState) : (s.setQueue q).sizes = s.sizes := rfl
@[simp] theorem State.setQueue_lines (s : State) (q : QueueState) : (s.setQueue q).lines = s.lines := rfl
@[simp] theorem State.setQueue_revoker (s : State) (q : QueueState) : (s.setQueue q).revoker = s.revoker := rfl
@[simp] theorem State.setQueue_sweep (s : State) (q : QueueState) : (s.setQueue q).sweep = s.sweep := rfl
@[simp] theorem State.setQueue_passes (s : State) (q : QueueState) : (s.setQueue q).passes = s.passes := rfl
@[simp] theorem State.setQueue_th (s : State) (q : QueueState) : (s.setQueue q).th = s.th := rfl

@[simp] theorem State.setWait_agenda (s : State) (e : WaitEntry) : (s.setWait e).agenda = s.agenda := rfl
@[simp] theorem State.setWait_cur (s : State) (e : WaitEntry) : (s.setWait e).cur = s.cur := rfl
@[simp] theorem State.setWait_ev (s : State) (e : WaitEntry) : (s.setWait e).ev = s.ev := rfl
@[simp] theorem State.setWait_freeCtr (s : State) (e : WaitEntry) : (s.setWait e).freeCtr = s.freeCtr := rfl
@[simp] theorem State.setWait_nextId (s : State) (e : WaitEntry) : (s.setWait e).nextId = s.nextId := rfl
@[simp] theorem State.setWait_mem (s : State) (e : WaitEntry) : (s.setWait e).mem = s.mem := rfl
@[simp] theorem State.setWait_tags (s : State) (e : WaitEntry) : (s.setWait e).tags = s.tags := rfl
@[simp] theorem State.setWait_summary (s : State) (e : WaitEntry) : (s.setWait e).summary = s.summary := rfl
@[simp] theorem State.setWait_fe (s : State) (e : WaitEntry) : (s.setWait e).fe = s.fe := rfl
@[simp] theorem State.setWait_poison (s : State) (e : WaitEntry) : (s.setWait e).poison = s.poison := rfl
@[simp] theorem State.setWait_copies (s : State) (e : WaitEntry) : (s.setWait e).copies = s.copies := rfl
@[simp] theorem State.setWait_l1 (s : State) (e : WaitEntry) : (s.setWait e).l1 = s.l1 := rfl
@[simp] theorem State.setWait_directory (s : State) (e : WaitEntry) : (s.setWait e).directory = s.directory := rfl
@[simp] theorem State.setWait_spans (s : State) (e : WaitEntry) : (s.setWait e).spans = s.spans := rfl
@[simp] theorem State.setWait_tlb (s : State) (e : WaitEntry) : (s.setWait e).tlb = s.tlb := rfl
@[simp] theorem State.setWait_asids (s : State) (e : WaitEntry) : (s.setWait e).asids = s.asids := rfl
@[simp] theorem State.setWait_reqs (s : State) (e : WaitEntry) : (s.setWait e).reqs = s.reqs := rfl
@[simp] theorem State.setWait_cores (s : State) (e : WaitEntry) : (s.setWait e).cores = s.cores := rfl
@[simp] theorem State.setWait_bins (s : State) (e : WaitEntry) : (s.setWait e).bins = s.bins := rfl
@[simp] theorem State.setWait_wgs (s : State) (e : WaitEntry) : (s.setWait e).wgs = s.wgs := rfl
@[simp] theorem State.setWait_barriers (s : State) (e : WaitEntry) : (s.setWait e).barriers = s.barriers := rfl
@[simp] theorem State.setWait_eps (s : State) (e : WaitEntry) : (s.setWait e).eps = s.eps := rfl
@[simp] theorem State.setWait_notes (s : State) (e : WaitEntry) : (s.setWait e).notes = s.notes := rfl
@[simp] theorem State.setWait_halls (s : State) (e : WaitEntry) : (s.setWait e).halls = s.halls := rfl
@[simp] theorem State.setWait_harts (s : State) (e : WaitEntry) : (s.setWait e).harts = s.harts := rfl
@[simp] theorem State.setWait_ops (s : State) (e : WaitEntry) : (s.setWait e).ops = s.ops := rfl
@[simp] theorem State.setWait_codebooks (s : State) (e : WaitEntry) : (s.setWait e).codebooks = s.codebooks := rfl
@[simp] theorem State.setWait_prefetches (s : State) (e : WaitEntry) : (s.setWait e).prefetches = s.prefetches := rfl
@[simp] theorem State.setWait_mailClaims (s : State) (e : WaitEntry) : (s.setWait e).mailClaims = s.mailClaims := rfl
@[simp] theorem State.setWait_tasks (s : State) (e : WaitEntry) : (s.setWait e).tasks = s.tasks := rfl
@[simp] theorem State.setWait_launches (s : State) (e : WaitEntry) : (s.setWait e).launches = s.launches := rfl
@[simp] theorem State.setWait_queues (s : State) (e : WaitEntry) : (s.setWait e).queues = s.queues := rfl
@[simp] theorem State.setWait_hallEvents (s : State) (e : WaitEntry) : (s.setWait e).hallEvents = s.hallEvents := rfl
@[simp] theorem State.setWait_reservations (s : State) (e : WaitEntry) : (s.setWait e).reservations = s.reservations := rfl
@[simp] theorem State.setWait_grains (s : State) (e : WaitEntry) : (s.setWait e).grains = s.grains := rfl
@[simp] theorem State.setWait_sizes (s : State) (e : WaitEntry) : (s.setWait e).sizes = s.sizes := rfl
@[simp] theorem State.setWait_lines (s : State) (e : WaitEntry) : (s.setWait e).lines = s.lines := rfl
@[simp] theorem State.setWait_revoker (s : State) (e : WaitEntry) : (s.setWait e).revoker = s.revoker := rfl
@[simp] theorem State.setWait_sweep (s : State) (e : WaitEntry) : (s.setWait e).sweep = s.sweep := rfl
@[simp] theorem State.setWait_passes (s : State) (e : WaitEntry) : (s.setWait e).passes = s.passes := rfl
@[simp] theorem State.setWait_th (s : State) (e : WaitEntry) : (s.setWait e).th = s.th := rfl

@[simp] theorem State.setCore_agenda (s : State) (c : Core) : (s.setCore c).agenda = s.agenda := rfl
@[simp] theorem State.setCore_cur (s : State) (c : Core) : (s.setCore c).cur = s.cur := rfl
@[simp] theorem State.setCore_ev (s : State) (c : Core) : (s.setCore c).ev = s.ev := rfl
@[simp] theorem State.setCore_freeCtr (s : State) (c : Core) : (s.setCore c).freeCtr = s.freeCtr := rfl
@[simp] theorem State.setCore_nextId (s : State) (c : Core) : (s.setCore c).nextId = s.nextId := rfl
@[simp] theorem State.setCore_mem (s : State) (c : Core) : (s.setCore c).mem = s.mem := rfl
@[simp] theorem State.setCore_tags (s : State) (c : Core) : (s.setCore c).tags = s.tags := rfl
@[simp] theorem State.setCore_summary (s : State) (c : Core) : (s.setCore c).summary = s.summary := rfl
@[simp] theorem State.setCore_fe (s : State) (c : Core) : (s.setCore c).fe = s.fe := rfl
@[simp] theorem State.setCore_poison (s : State) (c : Core) : (s.setCore c).poison = s.poison := rfl
@[simp] theorem State.setCore_copies (s : State) (c : Core) : (s.setCore c).copies = s.copies := rfl
@[simp] theorem State.setCore_l1 (s : State) (c : Core) : (s.setCore c).l1 = s.l1 := rfl
@[simp] theorem State.setCore_directory (s : State) (c : Core) : (s.setCore c).directory = s.directory := rfl
@[simp] theorem State.setCore_spans (s : State) (c : Core) : (s.setCore c).spans = s.spans := rfl
@[simp] theorem State.setCore_tlb (s : State) (c : Core) : (s.setCore c).tlb = s.tlb := rfl
@[simp] theorem State.setCore_asids (s : State) (c : Core) : (s.setCore c).asids = s.asids := rfl
@[simp] theorem State.setCore_reqs (s : State) (c : Core) : (s.setCore c).reqs = s.reqs := rfl
@[simp] theorem State.setCore_bins (s : State) (c : Core) : (s.setCore c).bins = s.bins := rfl
@[simp] theorem State.setCore_wgs (s : State) (c : Core) : (s.setCore c).wgs = s.wgs := rfl
@[simp] theorem State.setCore_waits (s : State) (c : Core) : (s.setCore c).waits = s.waits := rfl
@[simp] theorem State.setCore_barriers (s : State) (c : Core) : (s.setCore c).barriers = s.barriers := rfl
@[simp] theorem State.setCore_eps (s : State) (c : Core) : (s.setCore c).eps = s.eps := rfl
@[simp] theorem State.setCore_notes (s : State) (c : Core) : (s.setCore c).notes = s.notes := rfl
@[simp] theorem State.setCore_halls (s : State) (c : Core) : (s.setCore c).halls = s.halls := rfl
@[simp] theorem State.setCore_harts (s : State) (c : Core) : (s.setCore c).harts = s.harts := rfl
@[simp] theorem State.setCore_ops (s : State) (c : Core) : (s.setCore c).ops = s.ops := rfl
@[simp] theorem State.setCore_codebooks (s : State) (c : Core) : (s.setCore c).codebooks = s.codebooks := rfl
@[simp] theorem State.setCore_prefetches (s : State) (c : Core) : (s.setCore c).prefetches = s.prefetches := rfl
@[simp] theorem State.setCore_mailClaims (s : State) (c : Core) : (s.setCore c).mailClaims = s.mailClaims := rfl
@[simp] theorem State.setCore_tasks (s : State) (c : Core) : (s.setCore c).tasks = s.tasks := rfl
@[simp] theorem State.setCore_launches (s : State) (c : Core) : (s.setCore c).launches = s.launches := rfl
@[simp] theorem State.setCore_queues (s : State) (c : Core) : (s.setCore c).queues = s.queues := rfl
@[simp] theorem State.setCore_hallEvents (s : State) (c : Core) : (s.setCore c).hallEvents = s.hallEvents := rfl
@[simp] theorem State.setCore_reservations (s : State) (c : Core) : (s.setCore c).reservations = s.reservations := rfl
@[simp] theorem State.setCore_grains (s : State) (c : Core) : (s.setCore c).grains = s.grains := rfl
@[simp] theorem State.setCore_sizes (s : State) (c : Core) : (s.setCore c).sizes = s.sizes := rfl
@[simp] theorem State.setCore_lines (s : State) (c : Core) : (s.setCore c).lines = s.lines := rfl
@[simp] theorem State.setCore_revoker (s : State) (c : Core) : (s.setCore c).revoker = s.revoker := rfl
@[simp] theorem State.setCore_sweep (s : State) (c : Core) : (s.setCore c).sweep = s.sweep := rfl
@[simp] theorem State.setCore_passes (s : State) (c : Core) : (s.setCore c).passes = s.passes := rfl
@[simp] theorem State.setCore_th (s : State) (c : Core) : (s.setCore c).th = s.th := rfl

@[simp] theorem State.setClock_agenda (s : State) (c b t : Nat) : (s.setClock c b t).agenda = s.agenda := rfl
@[simp] theorem State.setClock_cur (s : State) (c b t : Nat) : (s.setClock c b t).cur = s.cur := rfl
@[simp] theorem State.setClock_ev (s : State) (c b t : Nat) : (s.setClock c b t).ev = s.ev := rfl
@[simp] theorem State.setClock_freeCtr (s : State) (c b t : Nat) : (s.setClock c b t).freeCtr = s.freeCtr := rfl
@[simp] theorem State.setClock_nextId (s : State) (c b t : Nat) : (s.setClock c b t).nextId = s.nextId := rfl
@[simp] theorem State.setClock_mem (s : State) (c b t : Nat) : (s.setClock c b t).mem = s.mem := rfl
@[simp] theorem State.setClock_tags (s : State) (c b t : Nat) : (s.setClock c b t).tags = s.tags := rfl
@[simp] theorem State.setClock_summary (s : State) (c b t : Nat) : (s.setClock c b t).summary = s.summary := rfl
@[simp] theorem State.setClock_fe (s : State) (c b t : Nat) : (s.setClock c b t).fe = s.fe := rfl
@[simp] theorem State.setClock_poison (s : State) (c b t : Nat) : (s.setClock c b t).poison = s.poison := rfl
@[simp] theorem State.setClock_copies (s : State) (c b t : Nat) : (s.setClock c b t).copies = s.copies := rfl
@[simp] theorem State.setClock_l1 (s : State) (c b t : Nat) : (s.setClock c b t).l1 = s.l1 := rfl
@[simp] theorem State.setClock_directory (s : State) (c b t : Nat) : (s.setClock c b t).directory = s.directory := rfl
@[simp] theorem State.setClock_spans (s : State) (c b t : Nat) : (s.setClock c b t).spans = s.spans := rfl
@[simp] theorem State.setClock_tlb (s : State) (c b t : Nat) : (s.setClock c b t).tlb = s.tlb := rfl
@[simp] theorem State.setClock_asids (s : State) (c b t : Nat) : (s.setClock c b t).asids = s.asids := rfl
@[simp] theorem State.setClock_reqs (s : State) (c b t : Nat) : (s.setClock c b t).reqs = s.reqs := rfl
@[simp] theorem State.setClock_bins (s : State) (c b t : Nat) : (s.setClock c b t).bins = s.bins := rfl
@[simp] theorem State.setClock_wgs (s : State) (c b t : Nat) : (s.setClock c b t).wgs = s.wgs := rfl
@[simp] theorem State.setClock_waits (s : State) (c b t : Nat) : (s.setClock c b t).waits = s.waits := rfl
@[simp] theorem State.setClock_barriers (s : State) (c b t : Nat) : (s.setClock c b t).barriers = s.barriers := rfl
@[simp] theorem State.setClock_eps (s : State) (c b t : Nat) : (s.setClock c b t).eps = s.eps := rfl
@[simp] theorem State.setClock_notes (s : State) (c b t : Nat) : (s.setClock c b t).notes = s.notes := rfl
@[simp] theorem State.setClock_halls (s : State) (c b t : Nat) : (s.setClock c b t).halls = s.halls := rfl
@[simp] theorem State.setClock_harts (s : State) (c b t : Nat) : (s.setClock c b t).harts = s.harts := rfl
@[simp] theorem State.setClock_ops (s : State) (c b t : Nat) : (s.setClock c b t).ops = s.ops := rfl
@[simp] theorem State.setClock_codebooks (s : State) (c b t : Nat) : (s.setClock c b t).codebooks = s.codebooks := rfl
@[simp] theorem State.setClock_prefetches (s : State) (c b t : Nat) : (s.setClock c b t).prefetches = s.prefetches := rfl
@[simp] theorem State.setClock_mailClaims (s : State) (c b t : Nat) : (s.setClock c b t).mailClaims = s.mailClaims := rfl
@[simp] theorem State.setClock_tasks (s : State) (c b t : Nat) : (s.setClock c b t).tasks = s.tasks := rfl
@[simp] theorem State.setClock_launches (s : State) (c b t : Nat) : (s.setClock c b t).launches = s.launches := rfl
@[simp] theorem State.setClock_queues (s : State) (c b t : Nat) : (s.setClock c b t).queues = s.queues := rfl
@[simp] theorem State.setClock_hallEvents (s : State) (c b t : Nat) : (s.setClock c b t).hallEvents = s.hallEvents := rfl
@[simp] theorem State.setClock_reservations (s : State) (c b t : Nat) : (s.setClock c b t).reservations = s.reservations := rfl
@[simp] theorem State.setClock_grains (s : State) (c b t : Nat) : (s.setClock c b t).grains = s.grains := rfl
@[simp] theorem State.setClock_sizes (s : State) (c b t : Nat) : (s.setClock c b t).sizes = s.sizes := rfl
@[simp] theorem State.setClock_lines (s : State) (c b t : Nat) : (s.setClock c b t).lines = s.lines := rfl
@[simp] theorem State.setClock_revoker (s : State) (c b t : Nat) : (s.setClock c b t).revoker = s.revoker := rfl
@[simp] theorem State.setClock_sweep (s : State) (c b t : Nat) : (s.setClock c b t).sweep = s.sweep := rfl
@[simp] theorem State.setClock_passes (s : State) (c b t : Nat) : (s.setClock c b t).passes = s.passes := rfl
@[simp] theorem State.setClock_th (s : State) (c b t : Nat) : (s.setClock c b t).th = s.th := rfl

@[simp] theorem State.setHall_agenda (s : State) (d : Nat) (h : Hall) : (s.setHall d h).agenda = s.agenda := rfl
@[simp] theorem State.setHall_cur (s : State) (d : Nat) (h : Hall) : (s.setHall d h).cur = s.cur := rfl
@[simp] theorem State.setHall_ev (s : State) (d : Nat) (h : Hall) : (s.setHall d h).ev = s.ev := rfl
@[simp] theorem State.setHall_freeCtr (s : State) (d : Nat) (h : Hall) : (s.setHall d h).freeCtr = s.freeCtr := rfl
@[simp] theorem State.setHall_nextId (s : State) (d : Nat) (h : Hall) : (s.setHall d h).nextId = s.nextId := rfl
@[simp] theorem State.setHall_mem (s : State) (d : Nat) (h : Hall) : (s.setHall d h).mem = s.mem := rfl
@[simp] theorem State.setHall_tags (s : State) (d : Nat) (h : Hall) : (s.setHall d h).tags = s.tags := rfl
@[simp] theorem State.setHall_summary (s : State) (d : Nat) (h : Hall) : (s.setHall d h).summary = s.summary := rfl
@[simp] theorem State.setHall_fe (s : State) (d : Nat) (h : Hall) : (s.setHall d h).fe = s.fe := rfl
@[simp] theorem State.setHall_poison (s : State) (d : Nat) (h : Hall) : (s.setHall d h).poison = s.poison := rfl
@[simp] theorem State.setHall_copies (s : State) (d : Nat) (h : Hall) : (s.setHall d h).copies = s.copies := rfl
@[simp] theorem State.setHall_l1 (s : State) (d : Nat) (h : Hall) : (s.setHall d h).l1 = s.l1 := rfl
@[simp] theorem State.setHall_directory (s : State) (d : Nat) (h : Hall) : (s.setHall d h).directory = s.directory := rfl
@[simp] theorem State.setHall_spans (s : State) (d : Nat) (h : Hall) : (s.setHall d h).spans = s.spans := rfl
@[simp] theorem State.setHall_tlb (s : State) (d : Nat) (h : Hall) : (s.setHall d h).tlb = s.tlb := rfl
@[simp] theorem State.setHall_asids (s : State) (d : Nat) (h : Hall) : (s.setHall d h).asids = s.asids := rfl
@[simp] theorem State.setHall_reqs (s : State) (d : Nat) (h : Hall) : (s.setHall d h).reqs = s.reqs := rfl
@[simp] theorem State.setHall_cores (s : State) (d : Nat) (h : Hall) : (s.setHall d h).cores = s.cores := rfl
@[simp] theorem State.setHall_bins (s : State) (d : Nat) (h : Hall) : (s.setHall d h).bins = s.bins := rfl
@[simp] theorem State.setHall_wgs (s : State) (d : Nat) (h : Hall) : (s.setHall d h).wgs = s.wgs := rfl
@[simp] theorem State.setHall_waits (s : State) (d : Nat) (h : Hall) : (s.setHall d h).waits = s.waits := rfl
@[simp] theorem State.setHall_barriers (s : State) (d : Nat) (h : Hall) : (s.setHall d h).barriers = s.barriers := rfl
@[simp] theorem State.setHall_eps (s : State) (d : Nat) (h : Hall) : (s.setHall d h).eps = s.eps := rfl
@[simp] theorem State.setHall_notes (s : State) (d : Nat) (h : Hall) : (s.setHall d h).notes = s.notes := rfl
@[simp] theorem State.setHall_harts (s : State) (d : Nat) (h : Hall) : (s.setHall d h).harts = s.harts := rfl
@[simp] theorem State.setHall_ops (s : State) (d : Nat) (h : Hall) : (s.setHall d h).ops = s.ops := rfl
@[simp] theorem State.setHall_codebooks (s : State) (d : Nat) (h : Hall) : (s.setHall d h).codebooks = s.codebooks := rfl
@[simp] theorem State.setHall_prefetches (s : State) (d : Nat) (h : Hall) : (s.setHall d h).prefetches = s.prefetches := rfl
@[simp] theorem State.setHall_mailClaims (s : State) (d : Nat) (h : Hall) : (s.setHall d h).mailClaims = s.mailClaims := rfl
@[simp] theorem State.setHall_tasks (s : State) (d : Nat) (h : Hall) : (s.setHall d h).tasks = s.tasks := rfl
@[simp] theorem State.setHall_launches (s : State) (d : Nat) (h : Hall) : (s.setHall d h).launches = s.launches := rfl
@[simp] theorem State.setHall_queues (s : State) (d : Nat) (h : Hall) : (s.setHall d h).queues = s.queues := rfl
@[simp] theorem State.setHall_hallEvents (s : State) (d : Nat) (h : Hall) : (s.setHall d h).hallEvents = s.hallEvents := rfl
@[simp] theorem State.setHall_reservations (s : State) (d : Nat) (h : Hall) : (s.setHall d h).reservations = s.reservations := rfl
@[simp] theorem State.setHall_grains (s : State) (d : Nat) (h : Hall) : (s.setHall d h).grains = s.grains := rfl
@[simp] theorem State.setHall_sizes (s : State) (d : Nat) (h : Hall) : (s.setHall d h).sizes = s.sizes := rfl
@[simp] theorem State.setHall_lines (s : State) (d : Nat) (h : Hall) : (s.setHall d h).lines = s.lines := rfl
@[simp] theorem State.setHall_revoker (s : State) (d : Nat) (h : Hall) : (s.setHall d h).revoker = s.revoker := rfl
@[simp] theorem State.setHall_sweep (s : State) (d : Nat) (h : Hall) : (s.setHall d h).sweep = s.sweep := rfl
@[simp] theorem State.setHall_passes (s : State) (d : Nat) (h : Hall) : (s.setHall d h).passes = s.passes := rfl
@[simp] theorem State.setHall_th (s : State) (d : Nat) (h : Hall) : (s.setHall d h).th = s.th := rfl

@[simp] theorem State.setHart_agenda (s : State) (h : Hart) : (s.setHart h).agenda = s.agenda := rfl
@[simp] theorem State.setHart_cur (s : State) (h : Hart) : (s.setHart h).cur = s.cur := rfl
@[simp] theorem State.setHart_ev (s : State) (h : Hart) : (s.setHart h).ev = s.ev := rfl
@[simp] theorem State.setHart_freeCtr (s : State) (h : Hart) : (s.setHart h).freeCtr = s.freeCtr := rfl
@[simp] theorem State.setHart_nextId (s : State) (h : Hart) : (s.setHart h).nextId = s.nextId := rfl
@[simp] theorem State.setHart_mem (s : State) (h : Hart) : (s.setHart h).mem = s.mem := rfl
@[simp] theorem State.setHart_tags (s : State) (h : Hart) : (s.setHart h).tags = s.tags := rfl
@[simp] theorem State.setHart_summary (s : State) (h : Hart) : (s.setHart h).summary = s.summary := rfl
@[simp] theorem State.setHart_fe (s : State) (h : Hart) : (s.setHart h).fe = s.fe := rfl
@[simp] theorem State.setHart_poison (s : State) (h : Hart) : (s.setHart h).poison = s.poison := rfl
@[simp] theorem State.setHart_copies (s : State) (h : Hart) : (s.setHart h).copies = s.copies := rfl
@[simp] theorem State.setHart_l1 (s : State) (h : Hart) : (s.setHart h).l1 = s.l1 := rfl
@[simp] theorem State.setHart_directory (s : State) (h : Hart) : (s.setHart h).directory = s.directory := rfl
@[simp] theorem State.setHart_spans (s : State) (h : Hart) : (s.setHart h).spans = s.spans := rfl
@[simp] theorem State.setHart_tlb (s : State) (h : Hart) : (s.setHart h).tlb = s.tlb := rfl
@[simp] theorem State.setHart_asids (s : State) (h : Hart) : (s.setHart h).asids = s.asids := rfl
@[simp] theorem State.setHart_reqs (s : State) (h : Hart) : (s.setHart h).reqs = s.reqs := rfl
@[simp] theorem State.setHart_cores (s : State) (h : Hart) : (s.setHart h).cores = s.cores := rfl
@[simp] theorem State.setHart_bins (s : State) (h : Hart) : (s.setHart h).bins = s.bins := rfl
@[simp] theorem State.setHart_wgs (s : State) (h : Hart) : (s.setHart h).wgs = s.wgs := rfl
@[simp] theorem State.setHart_waits (s : State) (h : Hart) : (s.setHart h).waits = s.waits := rfl
@[simp] theorem State.setHart_barriers (s : State) (h : Hart) : (s.setHart h).barriers = s.barriers := rfl
@[simp] theorem State.setHart_eps (s : State) (h : Hart) : (s.setHart h).eps = s.eps := rfl
@[simp] theorem State.setHart_notes (s : State) (h : Hart) : (s.setHart h).notes = s.notes := rfl
@[simp] theorem State.setHart_halls (s : State) (h : Hart) : (s.setHart h).halls = s.halls := rfl
@[simp] theorem State.setHart_ops (s : State) (h : Hart) : (s.setHart h).ops = s.ops := rfl
@[simp] theorem State.setHart_codebooks (s : State) (h : Hart) : (s.setHart h).codebooks = s.codebooks := rfl
@[simp] theorem State.setHart_prefetches (s : State) (h : Hart) : (s.setHart h).prefetches = s.prefetches := rfl
@[simp] theorem State.setHart_mailClaims (s : State) (h : Hart) : (s.setHart h).mailClaims = s.mailClaims := rfl
@[simp] theorem State.setHart_tasks (s : State) (h : Hart) : (s.setHart h).tasks = s.tasks := rfl
@[simp] theorem State.setHart_launches (s : State) (h : Hart) : (s.setHart h).launches = s.launches := rfl
@[simp] theorem State.setHart_queues (s : State) (h : Hart) : (s.setHart h).queues = s.queues := rfl
@[simp] theorem State.setHart_hallEvents (s : State) (h : Hart) : (s.setHart h).hallEvents = s.hallEvents := rfl
@[simp] theorem State.setHart_reservations (s : State) (h : Hart) : (s.setHart h).reservations = s.reservations := rfl
@[simp] theorem State.setHart_grains (s : State) (h : Hart) : (s.setHart h).grains = s.grains := rfl
@[simp] theorem State.setHart_sizes (s : State) (h : Hart) : (s.setHart h).sizes = s.sizes := rfl
@[simp] theorem State.setHart_lines (s : State) (h : Hart) : (s.setHart h).lines = s.lines := rfl
@[simp] theorem State.setHart_revoker (s : State) (h : Hart) : (s.setHart h).revoker = s.revoker := rfl
@[simp] theorem State.setHart_sweep (s : State) (h : Hart) : (s.setHart h).sweep = s.sweep := rfl
@[simp] theorem State.setHart_passes (s : State) (h : Hart) : (s.setHart h).passes = s.passes := rfl
@[simp] theorem State.setHart_th (s : State) (h : Hart) : (s.setHart h).th = s.th := rfl

@[simp] theorem State.fresh_agenda (s : State) : s.fresh.2.agenda = s.agenda := rfl
@[simp] theorem State.fresh_cur (s : State) : s.fresh.2.cur = s.cur := rfl
@[simp] theorem State.fresh_ev (s : State) : s.fresh.2.ev = s.ev := rfl
@[simp] theorem State.fresh_nextId (s : State) : s.fresh.2.nextId = s.nextId := rfl
@[simp] theorem State.fresh_mem (s : State) : s.fresh.2.mem = s.mem := rfl
@[simp] theorem State.fresh_tags (s : State) : s.fresh.2.tags = s.tags := rfl
@[simp] theorem State.fresh_summary (s : State) : s.fresh.2.summary = s.summary := rfl
@[simp] theorem State.fresh_fe (s : State) : s.fresh.2.fe = s.fe := rfl
@[simp] theorem State.fresh_poison (s : State) : s.fresh.2.poison = s.poison := rfl
@[simp] theorem State.fresh_copies (s : State) : s.fresh.2.copies = s.copies := rfl
@[simp] theorem State.fresh_l1 (s : State) : s.fresh.2.l1 = s.l1 := rfl
@[simp] theorem State.fresh_directory (s : State) : s.fresh.2.directory = s.directory := rfl
@[simp] theorem State.fresh_spans (s : State) : s.fresh.2.spans = s.spans := rfl
@[simp] theorem State.fresh_tlb (s : State) : s.fresh.2.tlb = s.tlb := rfl
@[simp] theorem State.fresh_asids (s : State) : s.fresh.2.asids = s.asids := rfl
@[simp] theorem State.fresh_reqs (s : State) : s.fresh.2.reqs = s.reqs := rfl
@[simp] theorem State.fresh_cores (s : State) : s.fresh.2.cores = s.cores := rfl
@[simp] theorem State.fresh_bins (s : State) : s.fresh.2.bins = s.bins := rfl
@[simp] theorem State.fresh_wgs (s : State) : s.fresh.2.wgs = s.wgs := rfl
@[simp] theorem State.fresh_waits (s : State) : s.fresh.2.waits = s.waits := rfl
@[simp] theorem State.fresh_barriers (s : State) : s.fresh.2.barriers = s.barriers := rfl
@[simp] theorem State.fresh_eps (s : State) : s.fresh.2.eps = s.eps := rfl
@[simp] theorem State.fresh_notes (s : State) : s.fresh.2.notes = s.notes := rfl
@[simp] theorem State.fresh_halls (s : State) : s.fresh.2.halls = s.halls := rfl
@[simp] theorem State.fresh_harts (s : State) : s.fresh.2.harts = s.harts := rfl
@[simp] theorem State.fresh_ops (s : State) : s.fresh.2.ops = s.ops := rfl
@[simp] theorem State.fresh_codebooks (s : State) : s.fresh.2.codebooks = s.codebooks := rfl
@[simp] theorem State.fresh_prefetches (s : State) : s.fresh.2.prefetches = s.prefetches := rfl
@[simp] theorem State.fresh_mailClaims (s : State) : s.fresh.2.mailClaims = s.mailClaims := rfl
@[simp] theorem State.fresh_tasks (s : State) : s.fresh.2.tasks = s.tasks := rfl
@[simp] theorem State.fresh_launches (s : State) : s.fresh.2.launches = s.launches := rfl
@[simp] theorem State.fresh_queues (s : State) : s.fresh.2.queues = s.queues := rfl
@[simp] theorem State.fresh_hallEvents (s : State) : s.fresh.2.hallEvents = s.hallEvents := rfl
@[simp] theorem State.fresh_reservations (s : State) : s.fresh.2.reservations = s.reservations := rfl
@[simp] theorem State.fresh_grains (s : State) : s.fresh.2.grains = s.grains := rfl
@[simp] theorem State.fresh_sizes (s : State) : s.fresh.2.sizes = s.sizes := rfl
@[simp] theorem State.fresh_lines (s : State) : s.fresh.2.lines = s.lines := rfl
@[simp] theorem State.fresh_revoker (s : State) : s.fresh.2.revoker = s.revoker := rfl
@[simp] theorem State.fresh_sweep (s : State) : s.fresh.2.sweep = s.sweep := rfl
@[simp] theorem State.fresh_passes (s : State) : s.fresh.2.passes = s.passes := rfl
@[simp] theorem State.fresh_th (s : State) : s.fresh.2.th = s.th := rfl

@[simp] theorem State.newId_agenda (s : State) : s.newId.2.agenda = s.agenda := rfl
@[simp] theorem State.newId_cur (s : State) : s.newId.2.cur = s.cur := rfl
@[simp] theorem State.newId_ev (s : State) : s.newId.2.ev = s.ev := rfl
@[simp] theorem State.newId_freeCtr (s : State) : s.newId.2.freeCtr = s.freeCtr := rfl
@[simp] theorem State.newId_mem (s : State) : s.newId.2.mem = s.mem := rfl
@[simp] theorem State.newId_tags (s : State) : s.newId.2.tags = s.tags := rfl
@[simp] theorem State.newId_summary (s : State) : s.newId.2.summary = s.summary := rfl
@[simp] theorem State.newId_fe (s : State) : s.newId.2.fe = s.fe := rfl
@[simp] theorem State.newId_poison (s : State) : s.newId.2.poison = s.poison := rfl
@[simp] theorem State.newId_copies (s : State) : s.newId.2.copies = s.copies := rfl
@[simp] theorem State.newId_l1 (s : State) : s.newId.2.l1 = s.l1 := rfl
@[simp] theorem State.newId_directory (s : State) : s.newId.2.directory = s.directory := rfl
@[simp] theorem State.newId_spans (s : State) : s.newId.2.spans = s.spans := rfl
@[simp] theorem State.newId_tlb (s : State) : s.newId.2.tlb = s.tlb := rfl
@[simp] theorem State.newId_asids (s : State) : s.newId.2.asids = s.asids := rfl
@[simp] theorem State.newId_reqs (s : State) : s.newId.2.reqs = s.reqs := rfl
@[simp] theorem State.newId_cores (s : State) : s.newId.2.cores = s.cores := rfl
@[simp] theorem State.newId_bins (s : State) : s.newId.2.bins = s.bins := rfl
@[simp] theorem State.newId_wgs (s : State) : s.newId.2.wgs = s.wgs := rfl
@[simp] theorem State.newId_waits (s : State) : s.newId.2.waits = s.waits := rfl
@[simp] theorem State.newId_barriers (s : State) : s.newId.2.barriers = s.barriers := rfl
@[simp] theorem State.newId_eps (s : State) : s.newId.2.eps = s.eps := rfl
@[simp] theorem State.newId_notes (s : State) : s.newId.2.notes = s.notes := rfl
@[simp] theorem State.newId_halls (s : State) : s.newId.2.halls = s.halls := rfl
@[simp] theorem State.newId_harts (s : State) : s.newId.2.harts = s.harts := rfl
@[simp] theorem State.newId_ops (s : State) : s.newId.2.ops = s.ops := rfl
@[simp] theorem State.newId_codebooks (s : State) : s.newId.2.codebooks = s.codebooks := rfl
@[simp] theorem State.newId_prefetches (s : State) : s.newId.2.prefetches = s.prefetches := rfl
@[simp] theorem State.newId_mailClaims (s : State) : s.newId.2.mailClaims = s.mailClaims := rfl
@[simp] theorem State.newId_tasks (s : State) : s.newId.2.tasks = s.tasks := rfl
@[simp] theorem State.newId_launches (s : State) : s.newId.2.launches = s.launches := rfl
@[simp] theorem State.newId_queues (s : State) : s.newId.2.queues = s.queues := rfl
@[simp] theorem State.newId_hallEvents (s : State) : s.newId.2.hallEvents = s.hallEvents := rfl
@[simp] theorem State.newId_reservations (s : State) : s.newId.2.reservations = s.reservations := rfl
@[simp] theorem State.newId_grains (s : State) : s.newId.2.grains = s.grains := rfl
@[simp] theorem State.newId_sizes (s : State) : s.newId.2.sizes = s.sizes := rfl
@[simp] theorem State.newId_lines (s : State) : s.newId.2.lines = s.lines := rfl
@[simp] theorem State.newId_revoker (s : State) : s.newId.2.revoker = s.revoker := rfl
@[simp] theorem State.newId_sweep (s : State) : s.newId.2.sweep = s.sweep := rfl
@[simp] theorem State.newId_passes (s : State) : s.newId.2.passes = s.passes := rfl
@[simp] theorem State.newId_th (s : State) : s.newId.2.th = s.th := rfl

@[simp] theorem State.fresh_freeCtr (s : State) : s.fresh.2.freeCtr = s.freeCtr + 1 := rfl
@[simp] theorem State.newId_nextId (s : State) : s.newId.2.nextId = s.nextId + 1 := rfl
@[simp] theorem State.newId_fst (s : State) : s.newId.1 = s.nextId := rfl


/-! Looking up what was put back. -/

theorem find_putBy {α : Type} (key : α → Nat) (a : α) (l : List α) (k : Nat) :
    (putBy key a l).find? (fun x => key x == k)
      = if k = key a then (l.find? fun x => key x == k).map fun _ => a else l.find? fun x => key x == k := by
  induction l with
  | nil => simp [putBy]
  | cons x l ih =>
    have step (y : α) (l : List α) : (y :: l).find? (fun x => key x == k)
        = if key y = k then some y else l.find? fun x => key x == k := by
      rw [List.find?_cons]; by_cases h : key y = k
      · simp [h]
      · simp [h, beq_eq_false_iff_ne.mpr h]
    have hm : putBy key a (x :: l) = (if key x = key a then a else x) :: putBy key a l := rfl
    rw [hm, step, step, ih]
    split <;> split <;> split <;> first | rfl | (exfalso; omega) | (split <;> first | rfl | (exfalso; omega))

theorem putBy_putBy {α : Type} (key : α → Nat) (a b : α) (h : key a = key b) (l : List α) :
    putBy key b (putBy key a l) = putBy key b l := by
  simp only [putBy, List.map_map]
  refine List.map_congr_left fun x _ => ?_
  simp only [Function.comp]
  by_cases hx : key x = key a
  · simp [hx, h]
  · simp [hx, show ¬ key x = key b from h ▸ hx]

theorem State.setWg_setWg (s : State) (a b : Workgroup) (h : a.id = b.id) : (s.setWg a).setWg b = s.setWg b :=
  congrArg (fun l => ({ s with wgs := l } : State)) (putBy_putBy Workgroup.id a b h s.wgs)

theorem State.wg?_setWg (s : State) (w : Workgroup) (id : Nat) :
    (s.setWg w).wg? id = if id = w.id then (s.wg? id).map fun _ => w else s.wg? id :=
  find_putBy Workgroup.id w s.wgs id

theorem State.wg?_setWg_self {s : State} {w x : Workgroup} (h : s.wg? w.id = some x) : (s.setWg w).wg? w.id = some w := by
  rw [State.wg?_setWg, h]; simp

theorem State.req?_setReq (s : State) (r : Request) (id : Nat) :
    (s.setReq r).req? id = if id = r.id then (s.req? id).map fun _ => r else s.req? id :=
  find_putBy Request.id r s.reqs id

theorem State.launch?_setLaunch (s : State) (l : Launch) (id : Nat) :
    (s.setLaunch l).launch? id = if id = l.id then (s.launch? id).map fun _ => l else s.launch? id :=
  find_putBy Launch.id l s.launches id

theorem State.queue?_setQueue (s : State) (q : QueueState) (pa : Nat) :
    (s.setQueue q).queue? pa = if pa = q.pa then (s.queue? pa).map fun _ => q else s.queue? pa :=
  find_putBy QueueState.pa q s.queues pa

theorem State.wait?_setWait (s : State) (e : WaitEntry) (id : Nat) :
    (s.setWait e).wait? id = if id = e.id then (s.wait? id).map fun _ => e else s.wait? id :=
  find_putBy WaitEntry.id e s.waits id

theorem Workgroup.group?_setGroup (w : Workgroup) (g : Group) (id : Nat) :
    (w.setGroup g).group? id = if id = g.id then (w.group? id).map fun _ => g else w.group? id :=
  find_putBy Group.id g w.groups id

theorem State.wg?_id {s : State} {id : Nat} {w : Workgroup} (h : s.wg? id = some w) : w.id = id := by
  have := List.find?_some h; simpa using this

theorem Workgroup.group?_id {w : Workgroup} {id : Nat} {g : Group} (h : w.group? id = some g) : g.id = id := by
  have := List.find?_some h; simpa using this

theorem State.hart?_id {s : State} {n : Nat} {h : Hart} (e : s.hart? n = some h) : h.id = n := by
  simp only [State.hart?, Option.map_eq_some_iff] at e
  obtain ⟨x, -, rfl⟩ := e
  rfl

theorem State.hart?_lt {s : State} {n : Nat} {h : Hart} (e : s.hart? n = some h) : n < s.harts.length := by
  simp only [State.hart?, Option.map_eq_some_iff] at e
  obtain ⟨x, hx, -⟩ := e
  exact (List.getElem?_eq_some_iff.mp hx).1

theorem State.setHart_hart? (s : State) (h : Hart) (n : Nat) :
    (s.setHart h).hart? n = if n = h.id ∧ n < s.harts.length then some h else s.hart? n := by
  simp only [State.setHart, State.hart?, List.getElem?_set]
  by_cases h1 : h.id = n
  · subst h1; by_cases h2 : h.id < s.harts.length <;> simp [h2]
  · simp [h1, Ne.symm h1]

theorem State.setHall_hall (s : State) (d n : Nat) (h : Hall) :
    (s.setHall d h).hall n = if n = d ∧ n < s.halls.length then h else s.hall n := by
  simp only [State.setHall, State.hall, List.getD_eq_getElem?_getD, List.getElem?_set]
  by_cases h1 : n = d
  · subst h1; by_cases h2 : n < s.halls.length <;> simp [h2]
  · simp [h1, Ne.symm h1]

end Sys2Proof.Machine
end

