-- ==== Sys2Proof/Laws/Issue.lean ====
section
/-! SUPPORT. What issuing an instruction comes to when no lane faults, and what a fixed-latency instruction then leaves. -/

namespace Sys2Proof.Machine
open Sys2Proof.Safety

theorem filterMap_none {α β : Type} (l : List α) : l.filterMap (fun _ => (none : Option β)) = [] := by
  induction l <;> simp_all

theorem current_wg? {s : State} {w : Workgroup} {g : Group} (h : s.current = some (w, g)) : s.wg? w.id = some w := by
  unfold State.current at h
  split at h
  · rename_i wg grp _
    cases hw : s.wg? wg with
    | none => simp [hw] at h
    | some x =>
      cases hg : x.group? grp with
      | none => simp [hw, hg] at h
      | some y => simp [hw, hg] at h; rw [← h.1, State.wg?_id hw, hw]
  · simp at h

theorem current_group? {s : State} {w : Workgroup} {g : Group} (h : s.current = some (w, g)) : w.group? g.id = some g := by
  unfold State.current at h
  split at h
  · rename_i wg grp _
    cases hw : s.wg? wg with
    | none => simp [hw] at h
    | some x =>
      cases hg : x.group? grp with
      | none => simp [hw, hg] at h
      | some y => simp [hw, hg] at h; rw [← h.1, ← h.2, Workgroup.group?_id hg, hg]
  · simp at h

/-- Tags of lanes that stay pending, once no lane has faulted; then the ac of the last chunk is over. -/
theorem finishIssue_clean (w : Workgroup) (h : Head) (c : IssueCtx) (lanes : List Lane) (e : Effect) (he : e.faults = []) :
    finishIssue w h c lanes [] e
      = (if e.pending.isEmpty then e.s
        else e.s.modWg w.id fun w => e.pending.foldl (fun w t => w.setTag t h.talloc.toNat true) w).setClock w.core w.bank
          (c.last + 1) := by
  have : ∀ l : List Nat, l.filter (fun _ => true) = l := fun l => List.filter_eq_self.mpr fun _ _ => rfl
  simp [finishIssue, he, this]

/-- Where no lane faults by the common checks, none is judged faulty. -/
theorem judge_clean {s : State} {i : Instr} {lanes : List Lane} {c : IssueCtx} {g : Group}
    (hc : ∀ l ∈ lanes, s.laneFault l c g = none) : s.judge i lanes c g = lanes.map fun l => (l, none) := by
  have hown : lanes.map (fun l => (l, s.laneFault l c g)) = lanes.map fun l => (l, none) :=
    List.map_congr_left fun l hl => by rw [hc l hl]
  have hno : (lanes.map fun l => (l, (none : Option FaultInfo))).findSome? Prod.snd = none := by
    simp [List.findSome?_eq_none_iff]
  simp only [State.judge, hown, hno]

/-- An instruction that issues without a fault has its own effect in every active lane, and nothing else happens. -/
theorem issue_clean {s : State} {i : Instr} {h : Head} {w : Workgroup} {g : Group} (H : Issues s i h w g)
    (eff : State → IssueCtx → List Lane → Effect) :
    issue i h eff s = finishIssue w h (s.issueCtx w g i h) (s.issueLanes w g i h) []
      (eff (s.issuedBy w g i h) (s.issueCtx w g i h) (s.issueLanes w g i h)) := by
  have hgood : ((s.issueLanes w g i h).map fun l => (l, (none : Option FaultInfo))).filter (fun x => x.2.isNone)
      = (s.issueLanes w g i h).map fun l => (l, none) := by
    rw [List.filter_eq_self]; simp
  have hne : (s.issueLanes w g i h).isEmpty = false := by simp [H.active]
  simp only [issue, H.current, H.ready, Bool.not_true, Bool.false_eq_true, if_false, judge_clean H.clean, hgood,
    List.map_map, Function.comp_def, List.map_id', hne, List.filterMap_map, Option.map_none, filterMap_none]

/-! The issued state. -/

theorem modThread_fields (w : Workgroup) (tid : Nat) (f : Thread → Thread) :
    w.modThread tid f = { w with threads := (w.modThread tid f).threads } := by
  unfold Workgroup.modThread; split <;> rfl

theorem modThread_threads (w : Workgroup) (tid : Nat) (f : Thread → Thread) :
    (w.modThread tid f).threads = w.threads.modify tid f := by
  unfold Workgroup.modThread Workgroup.thread?
  apply List.ext_getElem?
  intro i
  cases h : w.threads[tid]? with
  | none =>
    simp only [List.getElem?_modify]
    by_cases hi : tid = i
    · subst hi; simp [h]
    · simp [hi]
  | some th =>
    simp only [List.getElem?_modify, List.getElem?_set]
    by_cases hi : tid = i
    · subst hi
      obtain ⟨hl, he⟩ := List.getElem?_eq_some_iff.mp h
      simp [hl, he]
    · simp [hi]

/-- A change of a thread that keeps what `keptThread` keeps. -/
theorem modThread_kept (w : Workgroup) (tid : Nat) (f : Thread → Thread) (hf : ∀ th, keptThread (f th) = keptThread th) :
    (w.modThread tid f).threads.map keptThread = w.threads.map keptThread := by
  rw [modThread_threads]
  apply List.ext_getElem?
  intro i
  simp only [List.getElem?_map, List.getElem?_modify]
  cases w.threads[i]? with
  | none => simp
  | some th => by_cases h : tid = i <;> simp [h, hf]

theorem foldl_modThread (ts : List Nat) (f : Thread → Thread) (hf : ∀ th, keptThread (f th) = keptThread th) (w : Workgroup) :
    ∃ th, ts.foldl (fun w t => w.modThread t f) w = { w with threads := th } ∧ th.map keptThread = w.threads.map keptThread := by
  induction ts generalizing w with
  | nil => exact ⟨w.threads, rfl, rfl⟩
  | cons t ts ih =>
    obtain ⟨th, h1, h2⟩ := ih (w.modThread t f)
    refine ⟨th, ?_, h2.trans (modThread_kept w t f hf)⟩
    rw [List.foldl_cons, h1, modThread_fields w t f]

theorem wg?_mapWgs (s : State) (f : Workgroup → Workgroup) (hf : ∀ x, (f x).id = x.id) (id : Nat) :
    ({ s with wgs := s.wgs.map f } : State).wg? id = (s.wg? id).map f := by
  simp only [State.wg?]
  induction s.wgs with
  | nil => rfl
  | cons x l ih => by_cases h : x.id = id <;> simp_all

theorem core_setClock (s : State) (c b t : Nat) : ((s.setClock c b t).core c).clock b = t := by
  have hid : (s.core c).id = c := by
    unfold State.core State.core?
    cases h : s.cores.find? fun x => x.id == c with
    | none => rfl
    | some x => have := List.find?_some h; simpa using this
  have hset : ((s.core c).setClock b t).id = c := by unfold Core.setClock; split <;> exact hid
  have key : ∀ x : Core, x.id = c → (s.setCore x).core c = x := by
    intro x hx
    unfold State.setCore
    simp only [State.core, State.core?, hx]
    cases h : s.cores.find? fun y => y.id == c with
    | none =>
      simp only [Option.isSome_none, Bool.false_eq_true, if_false]
      rw [List.find?_append, h]; simp [hx]
    | some y =>
      simp only [Option.isSome_some, if_true]
      have := find_putBy Core.id x s.cores c
      rw [this, h]; simp [hx]
  unfold State.setClock
  rw [key _ hset]
  unfold Core.setClock Core.clock
  split <;> simp_all

theorem seen_id (x w : Workgroup) (grp : Nat) : (x.seen w grp).id = x.id := by
  unfold Workgroup.seen; split <;> rfl

theorem seen_kept (x w : Workgroup) (grp : Nat) : keptOther (x.seen w grp) = keptOther x := by
  unfold Workgroup.seen keptOther; split <;> simp [Function.comp_def]

theorem seen_own (x w : Workgroup) (grp : Nat) : { x.seen w grp with groups := x.groups } = x := by
  unfold Workgroup.seen; split <;> rfl

theorem find_map_id (f : Group → Group) (hf : ∀ y, (f y).id = y.id) (l : List Group) (id : Nat) :
    (l.map f).find? (fun g => g.id == id) = (l.find? fun g => g.id == id).map f := by
  induction l with
  | nil => rfl
  | cons y l ih =>
    rw [List.map_cons, List.find?_cons, List.find?_cons, hf]
    cases y.id == id with
    | true => rfl
    | false => exact ih

theorem seen_group? (x w : Workgroup) (grp id : Nat) (g : Group) (h : x.group? id = some g) :
    ∃ ys, (x.seen w grp).group? id = some { g with yieldOthers := ys } := by
  unfold Workgroup.seen
  split
  · refine ⟨g.yieldOthers.filter fun i => i != grp, ?_⟩
    exact (find_map_id (fun y => { y with yieldOthers := y.yieldOthers.filter fun i => i != grp }) (fun _ => rfl) x.groups id).trans
      (congrArg (Option.map _) h)
  · exact ⟨g.yieldOthers, h⟩

/-- The workgroup that issues, with the threads of a group that leaves its block marked. -/
theorem issuedBy_eq (s : State) (w : Workgroup) (g : Group) (i : Instr) (h : Head) :
    ∃ th, th.map keptThread = w.threads.map keptThread ∧
      s.issuedBy w g i h = s.issued { w with threads := th } g (s.clockOf w)
        (chunksOf (s.issueLanes w g i h).length)
        (if (formOf (formCtx w g 0) i).lat = 0 then 0
          else s.clockOf w + chunksOf (s.issueLanes w g i h).length - 1 + (formOf (formCtx w g 0) i).lat)
        (nextPc g).1 (nextPc g).2 (isYield i) := by
  unfold State.issuedBy nextPc
  cases (g.blk.next g.pc).2 with
  | false => exact ⟨w.threads, rfl, rfl⟩
  | true =>
    obtain ⟨th, h1, h2⟩ := foldl_modThread g.tids (fun th => { th with via := g.pc, midBlock := false }) (fun _ => rfl) w
    refine ⟨th, h2, ?_⟩
    simp only [if_true, h1]

/-- The workgroup of the issued state: the old one with its group moved on. -/
theorem issuedBy_wg? {s : State} {i : Instr} {h : Head} {w : Workgroup} {g : Group} (hc : s.current = some (w, g)) :
    ∃ th grps, (s.issuedBy w g i h).wg? w.id = some { w with threads := th, groups := grps }
      ∧ th.map keptThread = w.threads.map keptThread
      ∧ ∃ g', ({ w with threads := th, groups := grps } : Workgroup).group? g.id = some g' ∧ g'.pc = (nextPc g).1
        ∧ g'.entering = (nextPc g).2 ∧ g'.members = g.members := by
  have hw := current_wg? hc
  have hg := current_group? hc
  obtain ⟨th, hth, he⟩ := issuedBy_eq s w g i h
  rw [he]
  generalize (if (formOf (formCtx w g 0) i).lat = 0 then 0
    else s.clockOf w + chunksOf (s.issueLanes w g i h).length - 1 + (formOf (formCtx w g 0) i).lat) = done
  generalize isYield i = keep
  let w1 : Workgroup := { w with threads := th }
  let g1 := g.issued (s.clockOf w) done (nextPc g).1 (nextPc g).2 keep
  let w2 := w1.setGroup g1
  have h2 : (s.setWg w2).wg? w.id = some w2 := by rw [State.wg?_setWg, hw, if_pos (show w.id = w2.id from rfl)]; rfl
  have h3 : (s.issued w1 g (s.clockOf w) (chunksOf (s.issueLanes w g i h).length) done (nextPc g).1 (nextPc g).2 keep).wg? w.id
      = some (w2.seen w1 g.id) := by
    show ({ s.setWg w2 with wgs := (s.setWg w2).wgs.map fun (x : Workgroup) => x.seen w1 g.id } : State).wg? w.id = _
    rw [wg?_mapWgs _ _ (fun x => seen_id x w1 g.id), h2]; rfl
  have hg2 : w2.group? g.id = some g1 := by
    show (w1.setGroup g1).group? g.id = some g1
    rw [Workgroup.group?_setGroup, if_pos (show g.id = g1.id from rfl), show w1.group? g.id = some g from hg]; rfl
  obtain ⟨ys, hys⟩ := seen_group? w2 w1 g.id g.id g1 hg2
  refine ⟨th, (w2.seen w1 g.id).groups, ?_, hth, { g1 with yieldOthers := ys }, ?_, rfl, rfl, rfl⟩
  · rw [h3]
    congr 1
    exact congrArg (fun x : Workgroup => { x with groups := (w2.seen w1 g.id).groups }) (seen_own w2 w1 g.id)
  · exact hys

theorem issuedBy_others {s : State} {i : Instr} {h : Head} {w : Workgroup} {g : Group} {id : Nat} (hid : id ≠ w.id) :
    ((s.issuedBy w g i h).wg? id).map keptOther = (s.wg? id).map keptOther := by
  obtain ⟨th, _, he⟩ := issuedBy_eq s w g i h
  rw [he]
  generalize (if (formOf (formCtx w g 0) i).lat = 0 then 0
    else s.clockOf w + chunksOf (s.issueLanes w g i h).length - 1 + (formOf (formCtx w g 0) i).lat) = done
  generalize isYield i = keep
  let w1 : Workgroup := { w with threads := th }
  let w2 := w1.setGroup (g.issued (s.clockOf w) done (nextPc g).1 (nextPc g).2 keep)
  show (({ s.setWg w2 with wgs := (s.setWg w2).wgs.map fun (x : Workgroup) => x.seen w1 g.id } : State).wg? id).map keptOther = _
  rw [wg?_mapWgs _ _ (fun x => seen_id x w1 g.id), State.wg?_setWg, if_neg (show id ≠ w2.id from hid), Option.map_map]
  congr 1
  exact funext fun x => seen_kept x w1 g.id

/-- Nothing but the workgroups and the clocks. -/
theorem issuedBy_rest (s : State) (w : Workgroup) (g : Group) (i : Instr) (h : Head) :
    s.issuedBy w g i h = { s with wgs := (s.issuedBy w g i h).wgs, cores := (s.issuedBy w g i h).cores } := by
  obtain ⟨th, _, he⟩ := issuedBy_eq s w g i h
  rw [he]; rfl

theorem chunksOf_pos (n : Nat) : 0 < chunksOf n := by unfold chunksOf; omega

theorem issuedBy_clock (s : State) (w : Workgroup) (g : Group) (i : Instr) (h : Head) :
    (s.issuedBy w g i h).clockOf w = lastChunk s w g i h := by
  obtain ⟨th, _, he⟩ := issuedBy_eq s w g i h
  rw [he]
  exact core_setClock _ w.core w.bank _

/-! Fixed-latency instructions. -/

theorem foldl_max_ge (f : PendWrite → Bool) (l : List PendWrite) (a : Nat) :
    a ≤ l.foldl (fun acc p => if f p then max acc p.due else acc) a := by
  induction l generalizing a with
  | nil => exact Nat.le_refl a
  | cons p l ih =>
    rw [List.foldl_cons]
    split
    · exact Nat.le_trans (Nat.le_max_left a p.due) (ih _)
    · exact ih a

theorem foldl_max_same (f : PendWrite → Bool) (l : List PendWrite) (a : Nat)
    (h : ∀ p ∈ l, f p = true → p.due ≤ a) : l.foldl (fun acc p => if f p then max acc p.due else acc) a = a := by
  induction l generalizing a with
  | nil => rfl
  | cons p l ih =>
    rw [List.foldl_cons]
    split
    · rename_i hp
      rw [Nat.max_eq_left (h p (by simp) hp)]; exact ih a fun q hq => h q (by simp [hq])
    · exact ih a fun q hq => h q (by simp [hq])

theorem Wr.same_trans {a b c : Wr} (h1 : a.same b = true) (h2 : b.same c = true) : a.same c = true := by
  cases a <;> cases b <;> cases c <;> simp_all [Wr.same]

/-- Results that go on their way for a lane whose writes may land from `due` on: no older result but those of `base` is
due later. -/
def Timely (base : List PendWrite) (due : Nat) (w : Workgroup) : Prop :=
  ∀ x, (∀ p ∈ base, p.wr.same x = false) → ∀ p ∈ w.pend, p.wr.same x = true → p.due ≤ due

theorem timely_self (due : Nat) (w : Workgroup) : Timely w.pend due w := fun x hx p hp hs => by
  rw [hx p hp] at hs; simp at hs

theorem dueFor_ge (w : Workgroup) (due : Nat) (x : Wr) : due ≤ w.dueFor due x :=
  foldl_max_ge (fun p => p.wr.same x) w.pend due

theorem dueFor_timely {base : List PendWrite} {due : Nat} {w : Workgroup} (ht : Timely base due w) {x : Wr}
    (hx : ∀ p ∈ base, p.wr.same x = false) : w.dueFor due x = due :=
  foldl_max_same (fun p => p.wr.same x) w.pend due (ht x hx)

theorem laneDue_ge (w : Workgroup) (due : Nat) (ws : List Wr) : due ≤ w.laneDue due ws := by
  have key : ∀ (ws : List Wr) (a : Nat), due ≤ a → due ≤ ws.foldl (fun acc x => max acc (w.dueFor due x)) a := by
    intro ws
    induction ws with
    | nil => exact fun _ h => h
    | cons x ws ih => exact fun a h => ih _ (Nat.le_trans h (Nat.le_max_left ..))
  exact key ws due (Nat.le_refl due)

theorem laneDue_timely {base : List PendWrite} {due : Nat} {w : Workgroup} (ht : Timely base due w) (ws : List Wr)
    (hx : ∀ y ∈ ws, ∀ p ∈ base, p.wr.same y = false) : w.laneDue due ws = due := by
  unfold Workgroup.laneDue
  induction ws with
  | nil => rfl
  | cons x ws ih =>
    rw [List.foldl_cons, dueFor_timely ht (hx x (by simp)), Nat.max_self]
    exact ih fun y hy => hx y (by simp [hy])

theorem Wr.same_flags {a x : Wr} (h : x.isFlags = true) : x.same a = false := by
  cases x <;> cases a <;> simp_all [Wr.isFlags, Wr.same]

theorem Wr.flags_same {a x : Wr} (h : x.isFlags = true) : a.same x = false := by
  cases x <;> cases a <;> simp_all [Wr.isFlags, Wr.same]

/-- A result added keeps the others timely: flags hold nothing up, and another result is due no later than it must be. -/
theorem timely_addPend {base : List PendWrite} {due d : Nat} {w : Workgroup} (ht : Timely base due w) (x : Wr) (tids : List Nat) (grp : Nat)
    (hd : x.isFlags = true ∨ d = due) : Timely base due (w.addPend d x tids grp) := by
  intro y hy p hp hs
  simp only [Workgroup.addPend, List.mem_append, List.mem_singleton] at hp
  rcases hp with hp | rfl
  · exact ht y hy p hp hs
  · rcases hd with hf | rfl
    · rw [Wr.same_flags hf] at hs; simp at hs
    · refine Nat.le_of_eq (dueFor_timely ht fun q hq => ?_)
      cases hqx : q.wr.same x with
      | false => rfl
      | true => rw [← hy q hq]; exact (Wr.same_trans hqx hs).symm

/-- What adding the results `ws` of one lane leaves: `ps` are the new ones on their way. -/
structure LaneAdded (base : List PendWrite) (due : Nat) (tids : List Nat) (tid grp : Nat) (lowest : Bool) (held ws : List Wr)
    (w w' : Workgroup) (ps : List PendWrite) : Prop where
  eq : w' = { w with pend := w.pend ++ ps }
  timely : Timely base due w'
  own : ∀ x ∈ ws, x.isS = false → x.isFlags = false →
    ∃ d, (⟨d, x, [], grp⟩ : PendWrite) ∈ ps ∧ due ≤ d ∧ ((∀ p ∈ base, p.wr.same x = false) → d = due)
  shared : lowest = true → ∀ x ∈ ws, x.isS = true →
    ∃ d, (⟨d, x, tids, grp⟩ : PendWrite) ∈ ps ∧ due ≤ d ∧ ((∀ p ∈ base, p.wr.same x = false) → d = due)
  flags : ∀ x ∈ ws, x.isFlags = true →
    ∃ d, (⟨d, x, [tid], grp⟩ : PendWrite) ∈ ps ∧ due ≤ d ∧ ((∀ y ∈ held, ∀ p ∈ base, p.wr.same y = false) → d = due)
  only : ∀ p ∈ ps, p.wr ∈ ws ∧ (p.wr.isS = true → lowest = true)

/-- One more result in front of those that a lane has added. -/
theorem LaneAdded.cons {base : List PendWrite} {due d : Nat} {tids at_ : List Nat} {tid grp : Nat} {lowest : Bool} {held ws : List Wr} {x : Wr}
    {w w' : Workgroup} {ps : List PendWrite} (hd : due ≤ d) (hs : x.isS = true → lowest = true)
    (ho : x.isS = false → x.isFlags = false → at_ = [] ∧ d = due) (hsh : x.isS = true → at_ = tids ∧ d = due)
    (hf : x.isFlags = true → at_ = [tid] ∧ ((∀ y ∈ held, ∀ p ∈ base, p.wr.same y = false) → d = due))
    (ht : Timely base due w) (H : LaneAdded base due tids tid grp lowest held ws (w.addPend d x at_ grp) w' ps) :
    LaneAdded base due tids tid grp lowest held (x :: ws) w w' (⟨w.dueFor d x, x, at_, grp⟩ :: ps) := by
  refine ⟨by rw [H.eq]; simp [Workgroup.addPend], H.timely, ?_, ?_, ?_, ?_⟩
  · intro y hy hns hnf
    rcases List.mem_cons.mp hy with rfl | hy
    · obtain ⟨rfl, rfl⟩ := ho hns hnf
      exact ⟨_, List.mem_cons_self, dueFor_ge .., dueFor_timely ht⟩
    · obtain ⟨e, m, r⟩ := H.own y hy hns hnf
      exact ⟨e, List.mem_cons_of_mem _ m, r⟩
  · intro hl y hy hys
    rcases List.mem_cons.mp hy with rfl | hy
    · obtain ⟨rfl, rfl⟩ := hsh hys
      exact ⟨_, List.mem_cons_self, dueFor_ge .., dueFor_timely ht⟩
    · obtain ⟨e, m, r⟩ := H.shared hl y hy hys
      exact ⟨e, List.mem_cons_of_mem _ m, r⟩
  · intro y hy hyf
    rcases List.mem_cons.mp hy with rfl | hy
    · obtain ⟨rfl, hdd⟩ := hf hyf
      have hsame : w.dueFor d y = d := foldl_max_same (fun p => p.wr.same y) w.pend d fun p _ hp => by
        rw [Wr.flags_same hyf] at hp; exact absurd hp (by decide)
      exact ⟨_, List.mem_cons_self, Nat.le_trans hd (dueFor_ge ..), fun hb => hsame.trans (hdd hb)⟩
    · obtain ⟨e, m, r⟩ := H.flags y hy hyf
      exact ⟨e, List.mem_cons_of_mem _ m, r⟩
  · intro p hp
    rcases List.mem_cons.mp hp with rfl | hp
    · exact ⟨List.mem_cons_self, hs⟩
    · obtain ⟨m, r⟩ := H.only p hp
      exact ⟨List.mem_cons_of_mem _ m, r⟩

/-- Everything that adding one lane's results does. -/
theorem addLane_added {base : List PendWrite} {due : Nat} (tids : List Nat) (tid grp : Nat) (lowest : Bool) (held : List Wr)
    {w : Workgroup} (ht : Timely base due w) :
    ∃ ps, LaneAdded base due tids tid grp lowest held held w (w.addLane due tids tid grp lowest held) ps := by
  have hlate := laneDue_ge w due held
  have hbase := laneDue_timely ht held
  unfold Workgroup.addLane
  generalize w.laneDue due held = late at hlate hbase
  suffices H : ∀ (ws : List Wr) (w : Workgroup), Timely base due w →
      ∃ ps, LaneAdded base due tids tid grp lowest held ws w (ws.foldl (fun w x => match x with
        | .flags _ => w.addPend late x [tid] grp
        | .s .. => if lowest then w.addPend due x tids grp else w
        | _ => w.addPend due x [] grp) w) ps from H held w ht
  intro ws
  induction ws with
  | nil => exact fun w ht => ⟨[], by simp, ht, by simp, by simp, by simp, by simp⟩
  | cons x ws ih =>
    intro w ht
    rw [List.foldl_cons]
    cases x with
    | flags f =>
      obtain ⟨ps, H⟩ := ih (w.addPend late (.flags f) [tid] grp) (timely_addPend ht _ _ _ (.inl rfl))
      exact ⟨_, H.cons hlate (by simp [Wr.isS]) (by simp [Wr.isFlags]) (by simp [Wr.isS]) (fun _ => ⟨rfl, hbase⟩) ht⟩
    | s n v po =>
      cases lowest with
      | true =>
        obtain ⟨ps, H⟩ := ih (w.addPend due (.s n v po) tids grp) (timely_addPend ht _ _ _ (.inr rfl))
        exact ⟨_, H.cons (Nat.le_refl _) (fun _ => rfl) (by simp [Wr.isS]) (fun _ => ⟨rfl, rfl⟩) (by simp [Wr.isFlags]) ht⟩
      | false =>
        obtain ⟨ps, H⟩ := ih w ht
        refine ⟨ps, H.eq, H.timely, ?_, by simp, ?_, fun p hp => ⟨List.mem_cons_of_mem _ (H.only p hp).1, (H.only p hp).2⟩⟩
        · intro y hy hns hnf
          rcases List.mem_cons.mp hy with rfl | hy
          · simp [Wr.isS] at hns
          · exact H.own y hy hns hnf
        · intro y hy hf
          rcases List.mem_cons.mp hy with rfl | hy
          · simp [Wr.isFlags] at hf
          · exact H.flags y hy hf
    | v a b c d =>
      obtain ⟨ps, H⟩ := ih (w.addPend due (.v a b c d) [] grp) (timely_addPend ht _ _ _ (.inr rfl))
      exact ⟨_, H.cons (Nat.le_refl _) (by simp [Wr.isS]) (fun _ _ => ⟨rfl, rfl⟩) (by simp [Wr.isS]) (by simp [Wr.isFlags]) ht⟩
    | k a b c d =>
      obtain ⟨ps, H⟩ := ih (w.addPend due (.k a b c d) [] grp) (timely_addPend ht _ _ _ (.inr rfl))
      exact ⟨_, H.cons (Nat.le_refl _) (by simp [Wr.isS]) (fun _ _ => ⟨rfl, rfl⟩) (by simp [Wr.isS]) (by simp [Wr.isFlags]) ht⟩
    | p a b c =>
      obtain ⟨ps, H⟩ := ih (w.addPend due (.p a b c) [] grp) (timely_addPend ht _ _ _ (.inr rfl))
      exact ⟨_, H.cons (Nat.le_refl _) (by simp [Wr.isS]) (fun _ _ => ⟨rfl, rfl⟩) (by simp [Wr.isS]) (by simp [Wr.isFlags]) ht⟩

/-- Everything that adding the results of all lanes does: `lowest` says whether the first of them is the lowest. -/
structure LanesAdded (base : List PendWrite) (due : Nat) (tids : List Nat) (grp : Nat) (lowest : Bool) (lanes : List Lane)
    (res : Lane → List Wr) (w w' : Workgroup) (ps : List PendWrite) : Prop where
  eq : w' = { w with pend := w.pend ++ ps }
  own : ∀ l ∈ lanes, ∀ x ∈ res l, x.isS = false → x.isFlags = false →
    ∃ d, (⟨d, x, [], grp⟩ : PendWrite) ∈ ps ∧ due ≤ d ∧ ((∀ p ∈ base, p.wr.same x = false) → d = due)
  shared : lowest = true → ∀ l ∈ lanes.head?, ∀ x ∈ res l, x.isS = true →
    ∃ d, (⟨d, x, tids, grp⟩ : PendWrite) ∈ ps ∧ due ≤ d ∧ ((∀ p ∈ base, p.wr.same x = false) → d = due)
  flags : ∀ l ∈ lanes, ∀ x ∈ res l, x.isFlags = true →
    ∃ d, (⟨d, x, [l.tid], grp⟩ : PendWrite) ∈ ps ∧ due ≤ d ∧ ((∀ y ∈ res l, ∀ p ∈ base, p.wr.same y = false) → d = due)
  only : ∀ p ∈ ps, ∃ l ∈ lanes, p.wr ∈ res l ∧ (p.wr.isS = true → lowest = true ∧ lanes.head? = some l)

theorem addLanes_added {base : List PendWrite} {due : Nat} (tids : List Nat) (grp : Nat) (res : Lane → List Wr) :
    ∀ (lanes : List Lane) (lowest : Bool) (w : Workgroup), Timely base due w →
      ∃ ps, LanesAdded base due tids grp lowest lanes res w
        (Workgroup.addLanes due tids grp lowest (lanes.map fun l => (l, res l)) w) ps := by
  intro lanes
  induction lanes with
  | nil => exact fun _ w _ => ⟨[], by simp [Workgroup.addLanes], by simp, by simp, by simp, by simp⟩
  | cons l ls ih =>
    intro lowest w ht
    obtain ⟨ps, H⟩ := addLane_added tids l.tid grp lowest (res l) ht
    obtain ⟨qs, K⟩ := ih false (w.addLane due tids l.tid grp lowest (res l)) H.timely
    refine ⟨ps ++ qs, ?_, ?_, ?_, ?_, ?_⟩
    · rw [List.map_cons, Workgroup.addLanes, K.eq, H.eq]; simp
    · intro m hm x hx hs hf
      rcases List.mem_cons.mp hm with rfl | hm
      · obtain ⟨d, i, r⟩ := H.own x hx hs hf
        exact ⟨d, List.mem_append_left _ i, r⟩
      · obtain ⟨d, i, r⟩ := K.own m hm x hx hs hf
        exact ⟨d, List.mem_append_right _ i, r⟩
    · intro hl m hm x hx hs
      obtain rfl : l = m := by simpa using hm
      obtain ⟨d, i, r⟩ := H.shared hl x hx hs
      exact ⟨d, List.mem_append_left _ i, r⟩
    · intro m hm x hx hf
      rcases List.mem_cons.mp hm with rfl | hm
      · obtain ⟨d, i, r⟩ := H.flags x hx hf
        exact ⟨d, List.mem_append_left _ i, r⟩
      · obtain ⟨d, i, r⟩ := K.flags m hm x hx hf
        exact ⟨d, List.mem_append_right _ i, r⟩
    · intro p hp
      rcases List.mem_append.mp hp with hp | hp
      · exact ⟨l, by simp, (H.only p hp).1, fun hs => ⟨(H.only p hp).2 hs, rfl⟩⟩
      · obtain ⟨m, hm, hx, hs⟩ := K.only p hp
        refine ⟨m, by simp [hm], hx, fun h => ?_⟩
        have := (hs h).1; simp at this

theorem filterMap_okResult (lanes : List Lane) (res : Lane → List Wr) :
    (lanes.map fun l => (l, (.ok (res l) : LaneResult))).filterMap okResult = lanes.map fun l => (l, res l) := by
  induction lanes with
  | nil => rfl
  | cons l ls ih => exact congrArg ((l, res l) :: ·) ih

theorem filterMap_faultResult (lanes : List Lane) (res : Lane → List Wr) :
    (lanes.map fun l => (l, (.ok (res l) : LaneResult))).filterMap faultResult = [] := by
  rw [List.filterMap_eq_nil_iff]
  intro x hx
  obtain ⟨l, _, rfl⟩ := List.mem_map.mp hx
  rfl

theorem fixedEffect_clean {s : State} {c : IssueCtx} {lanes : List Lane} {w : Workgroup} (lat : Nat)
    (f : Peers → Lane → LaneResult) (res : Lane → List Wr) (hw : s.wg? c.wg = some w)
    (hf : ∀ l ∈ lanes, f (peersOf w c lanes) l = .ok (res l)) :
    fixedEffect lat f s c lanes = ⟨s.setWg (Workgroup.addLanes (c.last + lat) (lanes.map Lane.tid) c.grp true
      (lanes.map fun l => (l, res l)) w), [], []⟩ := by
  have hrs : lanes.map (fun l => (l, f (peersOf w c lanes) l)) = lanes.map fun l => (l, (.ok (res l) : LaneResult)) :=
    List.map_congr_left fun l hl => by rw [hf l hl]
  unfold fixedEffect
  simp only [hw, hrs, filterMap_okResult, filterMap_faultResult, List.map_map]
  rfl

/-- Everything a fixed-latency instruction does when it issues and no lane faults: its lanes' results `res` are on their way
and nothing else changes. `f` may read the group through `Peers` of any issued workgroup. -/
theorem issueFixed_clean {s : State} {i : Instr} {h : Head} {w : Workgroup} {g : Group} (H : Issues s i h w g)
    (f : Peers → Lane → LaneResult) (res : Lane → List Wr)
    (hf : ∀ w' : Workgroup, (∃ th grps, w' = { w with threads := th, groups := grps }
        ∧ th.map keptThread = w.threads.map keptThread
        ∧ ∃ g', w'.group? g.id = some g' ∧ g'.members = g.members) →
      ∀ l ∈ s.issueLanes w g i h, f (peersOf w' (s.issueCtx w g i h) (s.issueLanes w g i h)) l = .ok (res l)) :
    ∃ t, issueFixed i h f s = .next t ∧ OnlyIssued s t w g i h
      ∧ Delivered w (s.issueLanes w g i h) res (lastChunk s w g i h + (formOf (formCtx w g 0) i).lat) t := by
  obtain ⟨th, grps, hw1, hth, g', hg', hpc, hen, hme⟩ := issuedBy_wg? (i := i) (h := h) H.current
  have heff := fixedEffect_clean (s := s.issuedBy w g i h) (c := s.issueCtx w g i h) (formOf (formCtx w g 0) i).lat f res hw1
    (hf _ ⟨th, grps, rfl, hth, g', hg', hme⟩)
  obtain ⟨ps, A⟩ := addLanes_added (base := w.pend) (due := (s.issueCtx w g i h).last + (formOf (formCtx w g 0) i).lat)
    ((s.issueLanes w g i h).map Lane.tid) (s.issueCtx w g i h).grp res (s.issueLanes w g i h) true { w with threads := th, groups := grps }
    (timely_self _ _)
  rw [A.eq] at heff
  replace A : LanesAdded w.pend (lastChunk s w g i h + (formOf (formCtx w g 0) i).lat) _ _ true _ res _ _ ps := A
  generalize lastChunk s w g i h + (formOf (formCtx w g 0) i).lat = due at A ⊢
  let w2 : Workgroup := { w with threads := th, groups := grps, pend := w.pend ++ ps }
  let t := ((s.issuedBy w g i h).setWg w2).setClock w.core w.bank ((s.issueCtx w g i h).last + 1)
  have hrun : issueFixed i h f s = .next t := by
    unfold issueFixed
    rw [H.current]
    show Host.Outcome.next (issue i h (fixedEffect (formOf (formCtx w g 0) i).lat f) s) = _
    rw [issue_clean H, heff, finishIssue_clean _ _ _ _ _ rfl]
    rfl
  have hself : t.wg? w.id = some w2 := State.wg?_setWg_self (w := w2) hw1
  refine ⟨t, hrun, ⟨⟨?_, ?_, ?_⟩, core_setClock _ w.core w.bank _⟩, ?_, ?_, ?_, ?_⟩
  · show t = _
    rw [show t = { s.issuedBy w g i h with wgs := t.wgs, cores := t.cores } from rfl]
    rw [issuedBy_rest s w g i h]
  · intro id hid
    show (((s.issuedBy w g i h).setWg w2).wg? id).map keptOther = _
    rw [State.wg?_setWg, if_neg (show ¬ id = w2.id from hid)]
    exact issuedBy_others hid
  · exact ⟨w2, hself, rfl, hth, ⟨ps, rfl⟩, g', hg', hpc, hen, hme⟩
  · intro l hl x hx hs hf
    obtain ⟨d, hm, hd, he⟩ := A.own l hl x hx hs hf
    exact ⟨w2, d, _, hself, List.mem_append_right _ hm, hd, fun hb => he (hb x (by simp))⟩
  · intro l hl x hx hs
    obtain ⟨d, hm, hd, he⟩ := A.shared rfl l hl x hx hs
    exact ⟨w2, d, _, hself, List.mem_append_right _ hm, hd, fun hb => he (hb x (by simp))⟩
  · intro l hl x hx hf
    obtain ⟨d, hm, hd, he⟩ := A.flags l hl x hx hf
    exact ⟨w2, d, _, hself, List.mem_append_right _ hm, hd, he⟩
  · intro w' hw' p hp
    rw [hself] at hw'
    obtain rfl : w2 = w' := by simpa using hw'
    rcases List.mem_append.mp hp with hp | hp
    · exact .inl hp
    · obtain ⟨l, hl, hx, hs⟩ := A.only p hp
      exact .inr ⟨l, hl, hx, fun h => (hs h).2⟩

end Sys2Proof.Machine
end

