-- ==== Sys2Proof/Laws/Memory.lean ====
section
/-! SUPPORT. Memory: reading after writing, and the canonical form of the list of bytes, which every operation that writes
memory keeps and which the reset state has. -/

namespace Sys2Proof.Machine

theorem wfFrom_mono {m : List Host.Cell} {lo lo' : Nat} (h : lo' ≤ lo) (hm : Memory.wfFrom lo m = true) :
    Memory.wfFrom lo' m = true := by
  cases m with
  | nil => rfl
  | cons c r => simp only [Memory.wfFrom, Bool.and_eq_true, decide_eq_true_eq] at hm ⊢; exact ⟨⟨by omega, hm.1.2⟩, hm.2⟩

/-- Addresses below the first listed one read as blank. -/
theorem readByte_below {m : List Host.Cell} {lo a : Nat} (hm : Memory.wfFrom lo m = true) (h : a < lo) :
    readByte m a = blankByte := by
  cases m with
  | nil => rfl
  | cons c r =>
    simp only [Memory.wfFrom, Bool.and_eq_true, decide_eq_true_eq] at hm
    simp [readByte, show a ≠ c.1 by omega, show a < c.1 by omega]

theorem writeByte_wfFrom {m : List Host.Cell} {lo a : Nat} (x : Byte) (hm : Memory.wfFrom lo m = true) (h : lo ≤ a) :
    Memory.wfFrom lo (writeByte m a x) = true := by
  induction m generalizing lo with
  | nil => unfold writeByte; split <;> simp_all [Memory.wfFrom]
  | cons c r ih =>
    simp only [Memory.wfFrom, Bool.and_eq_true, decide_eq_true_eq, bne_iff_ne] at hm
    unfold writeByte
    split
    · split
      · simp only [Memory.wfFrom, Bool.and_eq_true, decide_eq_true_eq, bne_iff_ne]; exact hm
      · simp only [Memory.wfFrom, Bool.and_eq_true, decide_eq_true_eq, bne_iff_ne]
        exact ⟨⟨h, by assumption⟩, ⟨by omega, hm.1.2⟩, hm.2⟩
    · split
      · split
        · exact wfFrom_mono (by omega) hm.2
        · simp only [Memory.wfFrom, Bool.and_eq_true, decide_eq_true_eq, bne_iff_ne]
          exact ⟨⟨h, by assumption⟩, by simp_all⟩
      · simp only [Memory.wfFrom, Bool.and_eq_true, decide_eq_true_eq, bne_iff_ne]
        exact ⟨hm.1, ih hm.2 (by omega)⟩

/-- A write keeps the canonical form. -/
theorem writeByte_wf {m : List Host.Cell} (a : Nat) (x : Byte) (hm : Memory.wf m = true) :
    Memory.wf (writeByte m a x) = true := writeByte_wfFrom x hm (Nat.zero_le a)

/-- A read after a write: the written byte at its address, the old byte elsewhere. -/
theorem readByte_writeByte {m : List Host.Cell} {lo : Nat} (hm : Memory.wfFrom lo m = true) (a b : Nat) (x : Byte) :
    readByte (writeByte m a x) b = if b = a then x else readByte m b := by
  induction m generalizing lo with
  | nil => by_cases hx : x = blankByte <;> by_cases hb : b = a <;> simp_all [writeByte, readByte]
  | cons c r ih =>
    obtain ⟨c, y⟩ := c
    simp only [Memory.wfFrom, Bool.and_eq_true, decide_eq_true_eq, bne_iff_ne] at hm
    have hr := ih hm.2
    have low : ∀ d ≤ c, readByte r d = blankByte := fun d hd => readByte_below hm.2 (by omega)
    unfold writeByte
    by_cases h1 : a < c
    · by_cases hx : x = blankByte
      · simp only [h1, hx, if_true]
        by_cases hb : b = a
        · simp [hb, readByte, show a ≠ c by omega, h1]
        · simp [hb]
      · simp only [h1, hx, if_true, if_false]
        by_cases hb : b = a
        · simp [hb, readByte]
        · by_cases hl : b < a
          · simp [readByte, hb, hl, show b ≠ c by omega, show b < c by omega]
          · simp [readByte, hb, hl]
    · by_cases h2 : a = c
      · subst h2
        by_cases hx : x = blankByte
        · simp only [Nat.lt_irrefl, if_true, if_false, hx]
          by_cases hb : b = a
          · simp [hb, low a (Nat.le_refl a)]
          · by_cases hl : b < a
            · simp [readByte, hb, hl, low b (by omega)]
            · simp [readByte, hb, hl]
        · simp only [Nat.lt_irrefl, if_true, if_false, hx]
          by_cases hb : b = a <;> simp [readByte, hb]
      · simp only [h1, h2, if_false]
        by_cases hb : b = c
        · simp [readByte, hb, show c ≠ a by omega]
        · by_cases hl : b < c
          · simp [readByte, hb, hl, show b ≠ a by omega]
          · simp only [readByte, hb, hl, if_false, hr]

theorem foldl_writeByte_wf {α : Type} (f : α → Nat) (g : α → Byte) (ws : List α) {m : List Host.Cell}
    (hm : Memory.wf m = true) : Memory.wf (ws.foldl (fun m w => writeByte m (f w) (g w)) m) = true := by
  induction ws generalizing m with
  | nil => exact hm
  | cons w ws ih => exact ih (writeByte_wf _ _ hm)

theorem foldl_keeps {α σ : Type} (P : σ → Prop) (f : σ → α → σ) (hf : ∀ s a, P s → P (f s a)) (l : List α) {s : σ}
    (hs : P s) : P (l.foldl f s) := by
  induction l generalizing s with
  | nil => exact hs
  | cons a l ih => exact ih (hf s a hs)

/-- The memory of a state has the canonical form. -/
def State.memWf (s : State) : Prop := Memory.wf s.mem = true

theorem reset_memWf : State.reset.memWf := rfl

theorem putBytes_memWf {s : State} (ws : List (Nat × PByte)) (h : s.memWf) : (s.putBytes ws).memWf :=
  foldl_writeByte_wf (fun w : Nat × PByte => w.1) (fun w => w.2.1) ws h

theorem poke_memWf {s : State} (pa n v : Nat) (h : s.memWf) : (s.poke pa n v).memWf := putBytes_memWf _ h

theorem putCap_memWf {s : State} (pa : Nat) (c : Cap) (poison : Bool) (h : s.memWf) : (s.putCap pa c poison).memWf := by
  have hb := putBytes_memWf ((bytesOfNat 16 c.bits.toNat).zipIdx.map fun (x, i) => (pa + i, x, poison)) h
  unfold State.putCap
  generalize s.putBytes _ = s' at hb ⊢
  dsimp only
  split
  · exact hb
  · exact hb

theorem setFe_memWf {s : State} (pa : Nat) (b : Bool) (h : s.memWf) : (s.setFe pa b).memWf := h
theorem putCopy_memWf {s : State} (c : LineCopy) (h : s.memWf) : (s.putCopy c).memWf := h
theorem dropL1_memWf {s : State} (d l : Nat) (h : s.memWf) : (s.dropL1 d l).memWf := h
theorem fillL1_memWf {s : State} (c : Nat) (pas : List Nat) (h : s.memWf) : (s.fillL1 c pas).memWf := h
theorem cacheOnControl_memWf {s : State} (pas : List Nat) (h : s.memWf) : (s.cacheOnControl pas).memWf := h
theorem dropCopy_memWf {s : State} (d l : Nat) (h : s.memWf) : (s.dropCopy d l).memWf := h

theorem writeBackLine_memWf {s : State} (d l : Nat) (h : s.memWf) : (s.writeBackLine d l).memWf := by
  unfold State.writeBackLine
  split
  · exact h
  · split
    · exact h
    · refine putCopy_memWf _ (foldl_keeps State.memWf _ (fun s g hs => ?_) _ (putBytes_memWf _ h))
      split
      · exact hs
      · exact hs

theorem invalidateLine_memWf {s : State} (d l : Nat) (h : s.memWf) : (s.invalidateLine d l).memWf :=
  dropCopy_memWf d l (writeBackLine_memWf d l h)

theorem writeBackDie_memWf {s : State} (d : Nat) (h : s.memWf) : (s.writeBackDie d).memWf :=
  foldl_keeps State.memWf _ (fun _ l hs => writeBackLine_memWf d l hs) _ h
theorem invalidateDie_memWf {s : State} (d : Nat) (h : s.memWf) : (s.invalidateDie d).memWf :=
  foldl_keeps State.memWf _ (fun _ l hs => invalidateLine_memWf d l hs) _ h

theorem fetchLine_memWf {s : State} (d l : Nat) (h : s.memWf) : (s.fetchLine d l).memWf := h

theorem weakRead_memWf {s : State} (d : Nat) (nc : Bool) (pas : List Nat) (h : s.memWf) : (s.weakRead d nc pas).1.memWf := by
  refine foldl_keeps State.memWf _ (fun s l hs => ?_) _ h
  split
  · split
    · exact hs
    · exact fetchLine_memWf d l hs
  · exact fetchLine_memWf d l hs

theorem weakWrite_memWf {s : State} (d : Nat) (nc : Bool) (ws : List (Nat × PByte)) (h : s.memWf) :
    (s.weakWrite d nc ws).memWf :=
  foldl_keeps State.memWf _ (fun _ l hs => putCopy_memWf _ (dropL1_memWf d l hs)) _ (putBytes_memWf _ h)

theorem beforeStrong_memWf {s : State} (d : Nat) (pas : List Nat) (h : s.memWf) : (s.beforeStrong d pas).memWf :=
  foldl_keeps State.memWf _ (fun _ l hs => invalidateLine_memWf d l hs) _ h

theorem readAs_memWf {s : State} (d : Nat) (strong nc : Bool) (pas : List Nat) (h : s.memWf) :
    (s.readAs d strong nc pas).1.memWf := by
  unfold State.readAs
  split
  · exact beforeStrong_memWf d pas h
  · exact weakRead_memWf d nc pas h

theorem writeAs_memWf {s : State} (d : Nat) (strong nc : Bool) (ws : List (Nat × PByte)) (h : s.memWf) :
    (s.writeAs d strong nc ws).memWf := by
  unfold State.writeAs
  split
  · exact putBytes_memWf _ (beforeStrong_memWf d _ h)
  · exact weakWrite_memWf d nc ws h

theorem readCapAs_memWf {s : State} (d : Nat) (strong nc : Bool) (pa : Nat) (h : s.memWf) :
    (s.readCapAs d strong nc pa).1.memWf := by
  unfold State.readCapAs
  split
  · exact beforeStrong_memWf d [pa] h
  · exact weakRead_memWf d false _ h

theorem writeCapAs_memWf {s : State} (d : Nat) (strong nc : Bool) (pa : Nat) (c : Cap) (poison : Bool) (h : s.memWf) :
    (s.writeCapAs d strong nc pa c poison).memWf := by
  unfold State.writeCapAs
  split
  · exact putCap_memWf _ _ _ (beforeStrong_memWf d [pa] h)
  · have hw := weakWrite_memWf (s := s) d false ((bytesOfNat 16 c.bits.toNat).zipIdx.map fun (x, i) => (pa + i, x, poison)) h
    dsimp only
    split
    · exact hw
    · exact hw

theorem engineWrite_memWf {s : State} (d : Nat) (ws : List (Nat × PByte)) (h : s.memWf) : (s.engineWrite d ws).memWf := by
  unfold State.engineWrite
  split
  · exact h
  · split
    · exact h
    · exact putBytes_memWf _ (beforeStrong_memWf d _ h)

/-! Reading after a write of several bytes. -/

/-- A write leaves every byte outside its addresses alone. -/
theorem putBytes_byteAt_outside {s : State} (ws : List (Nat × PByte)) (h : s.memWf) {a : Nat} (ha : a ∉ ws.map Prod.fst) :
    (s.putBytes ws).byteAt a = s.byteAt a := by
  suffices H : ∀ (ws : List (Nat × PByte)) (m : List Host.Cell), Memory.wf m = true → a ∉ ws.map Prod.fst →
      readByte (ws.foldl (fun m w => writeByte m w.1 w.2.1) m) a = readByte m a from H ws s.mem h ha
  intro ws
  induction ws with
  | nil => intro m _ _; rfl
  | cons w ws ih =>
    intro m hm ha
    simp only [List.map_cons, List.mem_cons, not_or] at ha
    rw [List.foldl_cons, ih _ (writeByte_wf _ _ hm) ha.2, readByte_writeByte hm, if_neg ha.1]

/-- Each byte written, where no later one of the list has its address, reads as written. -/
theorem putBytes_byteAt_written {s : State} (pre post : List (Nat × PByte)) (w : Nat × PByte) (h : s.memWf)
    (hw : w.1 ∉ post.map Prod.fst) : (s.putBytes (pre ++ w :: post)).byteAt w.1 = w.2.1 := by
  have split : ∀ m, (pre ++ w :: post).foldl (fun m (w : Nat × PByte) => writeByte m w.1 w.2.1) m
      = post.foldl (fun m w => writeByte m w.1 w.2.1) (writeByte (pre.foldl (fun m w => writeByte m w.1 w.2.1) m) w.1 w.2.1) := by
    intro m; rw [List.foldl_append, List.foldl_cons]
  have hpre := foldl_writeByte_wf (fun w : Nat × PByte => w.1) (fun w => w.2.1) pre h
  have tail := putBytes_byteAt_outside (s := { s with mem := writeByte (pre.foldl (fun m w => writeByte m w.1 w.2.1) s.mem) w.1 w.2.1 })
    post (writeByte_wf _ _ hpre) hw
  show readByte ((pre ++ w :: post).foldl _ s.mem) w.1 = w.2.1
  rw [split]
  refine Eq.trans tail ?_
  show readByte (writeByte _ w.1 w.2.1) w.1 = _
  rw [readByte_writeByte hpre, if_pos rfl]

end Sys2Proof.Machine
end

