-- ==== Sys2Proof/Laws/Requests.lean ====
section
/-! SUPPORT. What the checks of an access may change, and what the requests of an instruction come to when every lane's
checks pass. -/

namespace Sys2Proof.Machine
open Sys2Proof.Safety

/-- The parts of the state that translation may change: cached translations and roots, and the accessed and dirty bits of
page tables in memory, with what a write there ends and the die's copies of their lines. -/
def sameButXlate (s t : State) : Prop :=
  t = { s with mem := t.mem, tags := t.tags, summary := t.summary, poison := t.poison, reservations := t.reservations, l1 := t.l1,
               directory := t.directory, copies := t.copies, tlb := t.tlb, asids := t.asids }

theorem sameButXlate.refl (s : State) : sameButXlate s s := rfl
theorem sameButXlate.trans {s t u : State} (h1 : sameButXlate s t) (h2 : sameButXlate t u) : sameButXlate s u := by
  unfold sameButXlate at *
  rw [h2, h1]

theorem rootOf_frame (s : State) (asid : Nat) : sameButXlate s (s.rootOf asid).2 := by
  unfold State.rootOf
  split
  · rfl
  · split <;> rfl

theorem poke_frame (s : State) (pa n v : Nat) : sameButXlate s (s.poke pa n v) := rfl

theorem markLeaf_frame (s : State) (at_ v : Nat) (c : Prop) [Decidable c] (l : List TlbEntry → List TlbEntry) :
    sameButXlate s { (if c then s else s.poke at_ 8 v) with tlb := l (if c then s else s.poke at_ 8 v).tlb } := by
  split <;> rfl

theorem foldl_frame {α : Type} (f : State → α → State) (hf : ∀ s x, sameButXlate s (f s x)) (l : List α) (s : State) :
    sameButXlate s (l.foldl f s) := by
  induction l generalizing s with
  | nil => rfl
  | cons x r ih => exact (hf s x).trans (ih _)

theorem writeBackLine_frame (s : State) (d line : Nat) : sameButXlate s (s.writeBackLine d line) := by
  unfold State.writeBackLine
  split
  · rfl
  · split
    · rfl
    · dsimp only
      refine sameButXlate.trans (t := State.putBytes s _) rfl (sameButXlate.trans (foldl_frame _ (fun s g => ?_) _ _) rfl)
      split <;> rfl

theorem beforeStrong_frame (s : State) (d : Nat) (pas : List Nat) : sameButXlate s (s.beforeStrong d pas) :=
  foldl_frame _ (fun s l => (writeBackLine_frame s d l).trans (u := s.invalidateLine d l) rfl) _ s

theorem cleanWalk_frame (s : State) (d vpn level tbl : Nat) : sameButXlate s (s.cleanWalk d vpn level tbl) := by
  induction level generalizing s tbl with
  | zero => rfl
  | succ level ih =>
    unfold State.cleanWalk
    dsimp only
    split
    · exact beforeStrong_frame s d _
    · exact (beforeStrong_frame s d _).trans (ih _ _)

theorem translate_frame (s : State) (seat : Seat) (need : LeafNeed) (va : Nat) : sameButXlate s (s.translate seat need va).1 := by
  have hr := rootOf_frame s seat.asid
  unfold State.translate
  generalize s.rootOf seat.asid = r at hr
  obtain ⟨root, s1⟩ := r
  dsimp only at hr ⊢
  cases s.asid? seat.asid with
  | none => rfl
  | some e =>
    dsimp only
    split
    · rfl
    split
    · rfl
    split
    · split
      · rfl
      · split <;> rfl
    split
    · rfl
    cases root with
    | none => exact hr
    | some root =>
      have hr := hr.trans (cleanWalk_frame s1 seat.die (va / 4096 % 2 ^ 36) 4 root)
      dsimp only
      split
      · exact hr
      · split
        · exact hr
        · split
          · exact hr
          · exact hr.trans (markLeaf_frame _ _ _ _ fun l =>
              fillTlbs seat _ l)

theorem translateAll_frame (seat : Seat) (sp : AccessSpec) (x : Nat) (vs : List Nat) (s : State) (acc : Placed) :
    sameButXlate s (translateAll seat sp x vs s acc).1 := by
  induction vs generalizing s acc with
  | nil => rfl
  | cons v r ih =>
    have ht := translate_frame s seat sp.need v
    unfold translateAll
    generalize s.translate seat sp.need v = y at ht
    obtain ⟨s1, e⟩ := y
    cases e with
    | error f => exact ht
    | ok p =>
      dsimp only
      split
      · exact ht
      · split
        · exact ht
        · exact ht.trans (ih s1 _)

/-- The checks of one access change nothing but what translation may. -/
theorem checkAccess_frame (s : State) (seat : Seat) (c : Cap) (reg : Nat) (x : Int) (sp : AccessSpec) :
    sameButXlate s (checkAccess s seat c reg x sp).1 := by
  have ht := translateAll_frame seat sp x.toNat (pagesOf x.toNat sp.n) s ⟨[], false, false, true, []⟩
  unfold checkAccess
  generalize translateAll seat sp x.toNat (pagesOf x.toNat sp.n) s ⟨[], false, false, true, []⟩ = y at ht
  obtain ⟨s1, e⟩ := y
  dsimp only at ht ⊢
  split
  · rfl
  split
  · rfl
  split
  · rfl
  split
  · rfl
  split
  · rfl
  split
  · rfl
  split
  · rfl
  cases e with
  | error f => exact ht
  | ok p =>
    dsimp only
    split <;> exact ht

/-! The requests of an M-format instruction. -/

/-- How a row of `memoryRow` makes one lane's request; `travels` where a remote authority may carry it. -/
def memoryLane (r : MemoryRow) (travels : Bool) : LaneRequest :=
  if r.fe then feRequest (accessRequest r.b r.op r.spec travels r.late) else accessRequest r.b r.op r.spec travels r.late

theorem accessRequest_pass {r : MemoryRow} {travels : Bool} {s s1 : State} {c : IssueCtx} {l : Lane} {batch id : Nat}
    {lowest : Bool} {p : Placed}
    (h : checkAccess s l.w.seat (l.cap r.b.k) r.b.k.toNat (accessAddress l r.b) (r.spec l) = (s1, .ok p))
    (hio : p.io = true → accessAddress l r.b % (2 ^ r.b.size.toNat : Nat) = 0)
    (hp : (r.op l).reads = true → s1.ownPoison l.w.core p.pas = false) :
    memoryLane r travels s c l (baseRequest c l id batch lowest) = (s1, .ok (some (accessOf r c l id batch lowest p))) := by
  have hx : mAddress l r.b = accessAddress l r.b := rfl
  have key : accessRequest r.b r.op r.spec travels r.late s c l (baseRequest c l id batch lowest)
      = (s1, .ok (some { ({ baseRequest c l id batch lowest with op := r.op l, unresolved := r.late }).placed
          l.w.seat.die r.b (accessAddress l r.b) p with
            unresolved := r.late || ((r.op l).reads && (r.b.order != 0 || p.io)) })) := by
    have hal : (p.io && decide (accessAddress l r.b % (mBytes r.b : Nat) ≠ 0)) = false := by
      cases hi : p.io with
      | false => rfl
      | true => rw [Bool.true_and, decide_eq_false_iff_not, Decidable.not_not]; exact hio hi
    have hpo : ((r.op l).reads && s1.ownPoison l.w.core p.pas) = false := by
      cases hl : (r.op l).reads with
      | false => rfl
      | true => simpa using hp hl
    unfold accessRequest
    simp only [hx, h, hal, hpo, Bool.false_eq_true, if_false]
  unfold memoryLane accessOf
  cases r.fe with
  | false => simpa using key
  | true => simp [feRequest, key]

/-- Where every lane passes, no lane faults and every lane's request is sent. -/
theorem requestsOf_pass {r : MemoryRow} {travels : Bool} {c : IssueCtx} {batch : Nat} {ls : List Lane} {lowest : Bool}
    {s t : State} {rs : List Request} (h : AccessesPass r c batch ls lowest s rs t) (fs : List (Nat × FaultInfo)) (ps : List Nat) :
    requestsOf (memoryLane r travels) c batch ls lowest ⟨s, fs, ps⟩ = ⟨t, fs, ps ++ ls.map Lane.tid⟩ := by
  induction ls generalizing lowest s rs ps with
  | nil => obtain ⟨-, rfl⟩ := h; simp [requestsOf]
  | cons l ls ih =>
    obtain ⟨s1, p, rest, h1, hio, h2, rfl, h3⟩ := h
    have hl := accessRequest_pass (travels := travels) (c := c) (id := s.nextId) (batch := batch) (lowest := lowest) h1 hio h2
    unfold requestsOf
    dsimp only [State.newId] at hl ⊢
    rw [hl]
    dsimp only
    rw [ih h3]
    simp

/-! What sending a request changes. -/

theorem modWg_frame (s : State) (wg : Nat) (f : Workgroup → Workgroup) : s.modWg wg f = { s with wgs := (s.modWg wg f).wgs } := by
  unfold State.modWg; split <;> rfl

theorem launchUses_frame (s : State) (l core : Nat) (cs : List Chan) :
    s.launchUses l core cs = { s with launches := (s.launchUses l core cs).launches } := by
  unfold State.launchUses; split <;> rfl

theorem useChans_frame (s : State) (r : Request) :
    s.useChans r = { s with wgs := (s.useChans r).wgs, launches := (s.useChans r).launches } := by
  unfold State.useChans
  split
  · dsimp only
    split
    · rw [launchUses_frame, modWg_frame]
    · rw [modWg_frame]
  · rfl

theorem sendReq_frame (s : State) (r : Request) :
    s.sendReq r = { s with reqs := (s.sendReq r).reqs, wgs := (s.sendReq r).wgs, launches := (s.sendReq r).launches } := by
  unfold State.sendReq
  dsimp only
  split
  · rfl
  · rw [useChans_frame]

theorem sendReq_reqs (s : State) (r : Request) : ∃ ph, (s.sendReq r).reqs = s.reqs ++ [{ r with phase := ph }] := by
  unfold State.sendReq
  dsimp only
  split
  · exact ⟨_, rfl⟩
  · rw [useChans_frame]; exact ⟨_, rfl⟩

end Sys2Proof.Machine
end

