-- ==== Sys2Proof/Laws/Sending.lean ====
section
/-! SUPPORT. The instructions that send one request for each lane: how each makes its request, and that it makes the one that
`LaneAsks` gives where its conditions hold. -/

namespace Sys2Proof.Machine
open Sys2Proof.Safety

/-- How a lane of each instruction makes its request. -/
def sendingRequest : Instr → LaneRequest
  | .fence _ b => fun s _ _ r => (s, .ok (some { r with
      op := .fence (b.order != 3) (b.order != 2), order := if b.order = 3 then 1 else 2, scope := b.scope.toNat, unresolved := true }))
  | .flush _ b => flushRequest b false
  | .inval _ b => flushRequest b true
  | .pref _ b => prefRequest b
  | .bar _ b => barRequest b
  | .wreg _ b => wregRequest b
  | .wdereg _ b => fun s _ l r =>
    match nameObject s l b.ka with
    | (s, .error f) => (s, .error f)
    | (s, .ok obj) =>
      ({ s with waits := s.waits.filter fun e => !(e.kind == 11 && e.obj == obj && e.waiters.contains r.who) },
        .ok (some (atOnce r)))
  | .whold _ b => wholdRequest b
  | .twait _ b => fun s _ l r =>
    if tState (l.w.tile b.a.toNat) = tFAULTED then (s, .error (cTile 1 b.a.toNat))
    else (s, .ok (some { r with
      op := .twait b.a.toNat (b.variant.getLsbD 3), obj := l.w.core, pred := fld b.variant 2 0, unresolved := true }))
  | .send _ b => sendRequest b false
  | .calle _ b => sendRequest b true
  | .recv _ b => receiveRequest b 2 (.recv b.count.toNat b.kx0.toNat b.kx1.toNat)
  | .reply _ b => replyRequest b
  | .nsig _ b => nsigRequest b
  | .nwait _ b => receiveRequest b 3 (.nwait (b.imm.zeroExtend 32))
  | .launch _ b => launchRequest b
  | .spawn _ b => spawnRequest b
  | .reggive _ b => budgetRequest true b
  | .regclaim _ b => budgetRequest false b
  | .pdim _ b => pdimRequest b
  | .prepeat _ _ => fun s _ l r =>
    match s.prologueLaunch l with
    | none => (s, .error (illegalOp 0x39))
    | some la => (s.setLaunch { la with repeats := true }, .ok (some (atOnce r)))
  | _ => fun s _ _ _ => (s, .ok none)

/-- Each of these instructions sends its lanes' requests, and does nothing else. -/
theorem exec_sending {i : Instr} {h : Head} (hh : sendingHead i = some h) (s : State) :
    exec i s = issueRequests i h (sendingRequest i) s := by
  cases i <;> simp only [sendingHead, Option.some.injEq, reduceCtorEq] at hh <;> (subst hh; rfl)

theorem names_checkEk {s : State} {l : Lane} {k : BitVec 4} {type : Nat} (H : Names s (l.cap k) type) :
    checkEk s l k type = .ok (some (l.cap k).objPa) := by
  simp [checkEk, H.valid, H.here, H.otype, H.invoke, H.live]

theorem mayCarry_checkTransfer {l : Lane} {k : BitVec 4} (H : mayCarry l k) : checkTransfer l k = none := by
  unfold checkTransfer
  rcases H with h | h | ⟨h1, h2⟩
  · simp [h]
  · simp [h]
  · simp [h1, h2]

theorem namesPlace_nameObject {s u : State} {l : Lane} {k : BitVec 4} {obj : Nat} (H : NamesPlace s l k u obj) :
    nameObject s l k = (u, .ok obj) := by
  cases H with
  | object hv ht hi hl => simp [nameObject, hv, ht.1, ht.2, hi, hl]
  | byte _ p ht hp =>
    have : ((l.cap k).valid && decide (2 ≤ (l.cap k).otype.toNat) && decide ((l.cap k).otype.toNat ≤ 10)) = false := by
      rcases ht with h | h | h
      · simp [h]
      · simp [Nat.not_le.mpr h]
      · simp [Nat.not_le.mpr h]
    simp [nameObject, this, hp]

/-- A table with room takes a new entry, whose walk begins. -/
theorem register_room {s : State} {die kind obj : Nat} {r : Request} {h : Holders}
    (hf : ∀ e ∈ s.waits, e.kind = kind → e.obj = obj → e.batch = r.id → False) (hr : s.tableUse die < 32768) :
    s.registerWait die kind obj 0 r.id r.who h false
      = ({ s with
            nextId := s.nextId + 1
            waits := s.waits ++ [entryOf s.nextId die kind obj .waiting r h 0 (some (walkAt s die kind obj r h))] },
          some s.nextId) := by
  have hnone : s.waits.find? (fun e => e.kind == kind && e.obj == obj && e.qual == 0 && e.batch == r.id && e.die == die) = none := by
    rw [List.find?_eq_none]
    intro e he hb
    simp only [Bool.and_eq_true, beq_iff_eq] at hb
    exact hf e he hb.1.1.1.1 hb.1.1.1.2 hb.1.2
  simp only [State.registerWait, State.register, hnone, State.tableRoom, decide_eq_true hr, if_true, State.newId]
  rfl

/-- A full one counts the overflow. -/
theorem register_full {s : State} {die kind obj batch : Nat} {p : Party} {h : Holders}
    (hf : ∀ e ∈ s.waits, e.kind = kind → e.obj = obj → e.batch = batch → False) (hr : 32768 ≤ s.tableUse die) :
    s.registerWait die kind obj 0 batch p h false = (overflowed s die obj p, none) := by
  have hnone : s.waits.find? (fun e => e.kind == kind && e.obj == obj && e.qual == 0 && e.batch == batch && e.die == die) = none := by
    rw [List.find?_eq_none]
    intro e he hb
    simp only [Bool.and_eq_true, beq_iff_eq] at hb
    exact hf e he hb.1.1.1.1 hb.1.1.1.2 hb.1.2
  simp only [State.registerWait, State.register, hnone, State.tableRoom, decide_eq_false (Nat.not_lt.mpr hr), Bool.false_eq_true,
    if_false, overflowed, beq_iff_eq]

/-- The last entry is found by its fresh number. -/
theorem wait?_last {s : State} {n : Nat} {e : WaitEntry} (hf : ∀ x ∈ s.waits, x.id ≠ e.id) :
    ({ s with nextId := n, waits := s.waits ++ [e] } : State).wait? e.id = some e := by
  have : s.waits.find? (fun x => x.id == e.id) = none := by
    rw [List.find?_eq_none]; intro x hx; simpa using hf x hx
  simp [State.wait?, this]

theorem setWait_last {s : State} {n : Nat} {e e' : WaitEntry} (hid : e'.id = e.id) (hf : ∀ x ∈ s.waits, x.id ≠ e.id) :
    ({ s with nextId := n, waits := s.waits ++ [e] } : State).setWait e' = { s with nextId := n, waits := s.waits ++ [e'] } := by
  have hmap : s.waits.map (fun x => if x.id = e.id then e' else x) = s.waits := by
    refine (List.map_congr_left fun x hx => ?_).trans (List.map_id' s.waits)
    rw [if_neg (hf x hx)]
  simp only [State.setWait, putBy, List.map_append, List.map_cons, List.map_nil, hid, if_true]
  rw [hmap]

/-- The request of a lane is the one that `LaneAsks` gives. -/
theorem laneAsks_request {s u : State} {l : Lane} {r : Request} {i : Instr} {o : Option Request} (H : LaneAsks s l r i u o)
    (c : IssueCtx) : sendingRequest i s c l r = (u, .ok o) := by
  cases H with
  | fence h b => rfl
  | flushAll h b hv => simp [sendingRequest, flushRequest, hv]
  | invalAll h b hv => simp [sendingRequest, flushRequest, hv]
  | flushLine h b _ p hv hs hp =>
    have hx : mAddress l b = accessAddress l b := rfl
    have hv' : b.variant[0] = false := hv
    simp [hv', sendingRequest, flushRequest, accessRequest, hx, hp, mBytes, hs, ReqOp.reads, Request.placed]
  | invalLine h b _ p hv hs hp =>
    have hx : mAddress l b = accessAddress l b := rfl
    have hv' : b.variant[0] = false := hv
    simp [hv', sendingRequest, flushRequest, accessRequest, hx, hp, mBytes, hs, ReqOp.reads, Request.placed]
  | prefFetch h b u p hx ht hp hm hs =>
    have he : mAddress l b = accessAddress l b := rfl
    have hlt : ¬ accessAddress l b < 0 := Int.not_lt.mpr hx
    rcases hs with hs | hs <;> simp only [sendingRequest, prefRequest, he, hlt, ht, hp, hm.1, hm.2, hs] <;> rfl
  | prefUncached h b hx =>
    have he : mAddress l b = accessAddress l b := rfl
    rcases hx with hx | hx <;> simp [sendingRequest, prefRequest, he, hx]
  | prefFails h b hp =>
    have he : mAddress l b = accessAddress l b := rfl
    simp only [sendingRequest, prefRequest, he]
    split
    · rfl
    · split
      · rename_i u p hq
        rcases hp u p hq with h | h | ⟨h1, h2⟩
        · simp [h]
        · simp [h]
        · have h1' : (spaceOf (p.pas.headD 0) == Space.hbm) = false := by simpa using h1
          have h2' : (spaceOf (p.pas.headD 0) == Space.cxl) = false := by simpa using h2
          simp only [h1', h2', Bool.or_self, Bool.not_false, Bool.or_true, if_true]
      · rfl
  | bar h b la th key counted hp hl ht hk hm hc hw =>
    have hkey : barKey l.w b = key := by
      rw [hk]; simp only [barKey, fld, Nat.shiftRight_eq_div_pow]; simp
    have hcd : (l.w.thread? l.tid).bind (fun t => t.countedAt key) = counted := by rw [ht, hc]; rfl
    have hkind : fld b.variant 1 0 = b.variant.toNat % 4 := by simp [fld]
    have hpred : fld b.variant 4 2 = b.variant.toNat / 4 % 8 := by simp [fld, Nat.shiftRight_eq_div_pow]
    have hnot : ¬(b.variant.toNat % 4 = 2 ∧ counted.isNone = true) := by
      rintro ⟨h2, h3⟩
      exact hw h2 (by simpa using h3)
    simp only [sendingRequest, barRequest, hkey, hcd, hkind, hpred, hl, hp, hm, Bool.not_false, Bool.true_and, Bool.not_true,
      Bool.false_eq_true, if_false, if_neg hnot]
    cases counted <;> rfl
  | wreg h b u obj hn hw hf hr =>
    have hno : (u.waits.any fun e => e.kind == 11 && e.waiters.contains r.who) = false := by
      rw [List.any_eq_false]
      intro e he
      simpa using fun hk => hw e he hk
    have hreg := register_room (s := u) (die := waitDie l) (kind := 11) (obj := obj) (r := r) (h := heldBy (l.cap b.ka))
      (fun e he _ _ hb => (hf e he).1 hb) hr
    have hfr : ∀ x ∈ u.waits, x.id ≠ u.nextId := fun x hx => (hf x hx).2
    simp only [sendingRequest, wregRequest, namesPlace_nameObject hn, hno, Bool.false_eq_true, if_false]
    rw [show dieOfCore l.w.core % 4 = waitDie l from rfl,
      show (if (l.cap b.ka).valid && (l.cap b.ka).otype == 2 then Holders.server else .unknown) = heldBy (l.cap b.ka) from rfl, hreg]
    have h1 := wait?_last (s := u) (n := u.nextId + 1)
      (e := entryOf u.nextId (waitDie l) 11 obj .waiting r (heldBy (l.cap b.ka)) 0
        (some (walkAt u (waitDie l) 11 obj r (heldBy (l.cap b.ka))))) hfr
    dsimp only [entryOf] at h1 ⊢
    rw [h1]
    dsimp only
    rw [setWait_last (hf := hfr)]
    · simp [fld, entryOf]; rfl
    · rfl
  | wregFull h b u obj hn hw hf hr =>
    have hno : (u.waits.any fun e => e.kind == 11 && e.waiters.contains r.who) = false := by
      rw [List.any_eq_false]
      intro e he
      simpa using fun hk => hw e he hk
    have hreg := register_full (s := u) (die := waitDie l) (kind := 11) (obj := obj) (batch := r.id) (p := r.who) (h := heldBy (l.cap b.ka))
      (fun e he _ _ hb => hf e he hb) hr
    simp only [sendingRequest, wregRequest, namesPlace_nameObject hn, hno, Bool.false_eq_true, if_false]
    rw [show dieOfCore l.w.core % 4 = waitDie l from rfl,
      show (if (l.cap b.ka).valid && (l.cap b.ka).otype == 2 then Holders.server else .unknown) = heldBy (l.cap b.ka) from rfl, hreg]
    simp [fld]; rfl
  | wdereg h b _ obj hn => simp only [sendingRequest, namesPlace_nameObject hn]
  | wholdServer h b u obj hn he ha =>
    have hbad : ¬((!b.variant.getLsbD 0 && decide (l.w.w * l.w.g ≤ (l.reg b.a).toNat)) = true) := by
      rcases ha with h | h
      · rw [h]; exact Bool.false_ne_true
      · simp [Nat.not_le.mpr h]
    simp only [sendingRequest, wholdRequest, namesPlace_nameObject hn, if_neg hbad, he]; rfl
  | wholdClear h b u obj hn he hc =>
    have he' : ((l.cap b.ka).otype == 2) = false := by simpa using he
    simp only [sendingRequest, wholdRequest, namesPlace_nameObject hn, hc, he', State.declare]; rfl
  | wholdAgain h b u obj e hn he hc ha hd =>
    have he' : ((l.cap b.ka).otype == 2) = false := by simpa using he
    have hbad : decide (l.w.w * l.w.g ≤ (l.reg b.a).toNat) = false := decide_eq_false (Nat.not_le.mpr ha)
    simp only [sendingRequest, wholdRequest, namesPlace_nameObject hn, hbad, he', hc, State.declare, hd, Bool.and_false,
      Bool.false_eq_true, if_false]; rfl
  | whold h b u obj hn he hc ha hd hf hr =>
    have he' : ((l.cap b.ka).otype == 2) = false := by simpa using he
    have hbad : decide (l.w.w * l.w.g ≤ (l.reg b.a).toNat) = false := decide_eq_false (Nat.not_le.mpr ha)
    have hnone : u.waits.find? (fun e => e.kind == 12 && e.obj == obj) = none := by
      rw [List.find?_eq_none]; intro e he hb
      simp only [Bool.and_eq_true, beq_iff_eq] at hb
      exact hd e he hb.1 hb.2
    have hreg := register_room (s := u) (die := waitDie l) (kind := 12) (obj := obj) (r := r)
      (h := .parties [.thread l.w.id (l.reg b.a).toNat]) (fun e he hk ho _ => hd e he hk ho) hr
    simp only [sendingRequest, wholdRequest, namesPlace_nameObject hn, hbad, he', hc, State.declare, hnone,
      Bool.and_false, Bool.false_eq_true, if_false]
    rw [show dieOfCore l.w.core % 4 = waitDie l from rfl, hreg]
    have h1 := wait?_last (s := u) (n := u.nextId + 1)
      (e := entryOf u.nextId (waitDie l) 12 obj .waiting r (.parties [.thread l.w.id (l.reg b.a).toNat]) 0
        (some (walkAt u (waitDie l) 12 obj r (.parties [.thread l.w.id (l.reg b.a).toNat])))) hf
    dsimp only [entryOf] at h1 ⊢
    rw [h1]
    dsimp only
    rw [setWait_last (hf := hf)]
    · rfl
    · rfl
  | wholdFull h b u obj hn he hc ha hd hr =>
    have he' : ((l.cap b.ka).otype == 2) = false := by simpa using he
    have hbad : decide (l.w.w * l.w.g ≤ (l.reg b.a).toNat) = false := decide_eq_false (Nat.not_le.mpr ha)
    have hnone : u.waits.find? (fun e => e.kind == 12 && e.obj == obj) = none := by
      rw [List.find?_eq_none]; intro e he hb
      simp only [Bool.and_eq_true, beq_iff_eq] at hb
      exact hd e he hb.1 hb.2
    have hreg := register_full (s := u) (die := waitDie l) (kind := 12) (obj := obj) (batch := r.id) (p := r.who)
      (h := .parties [.thread l.w.id (l.reg b.a).toNat]) (fun e he hk ho _ => hd e he hk ho) hr
    simp only [sendingRequest, wholdRequest, namesPlace_nameObject hn, hbad, he', hc, State.declare, hnone,
      Bool.and_false, Bool.false_eq_true, if_false]
    rw [show dieOfCore l.w.core % 4 = waitDie l from rfl, hreg]
    rfl
  | twait h b ht => simp [sendingRequest, ht, fld]
  | send h b hk h0 h1 =>
    simp [sendingRequest, sendRequest, names_checkEk hk, mayCarry_checkTransfer h0, mayCarry_checkTransfer h1,
      Request.forMessage, messageOf, fld]
  | calle h b hk h0 h1 =>
    simp [sendingRequest, sendRequest, names_checkEk hk, mayCarry_checkTransfer h0, mayCarry_checkTransfer h1,
      Request.forMessage, messageOf, fld]
  | sendAway h b hv hr hi h0 h1 =>
    simp [sendingRequest, sendRequest, checkEk, hv, hr, hi, mayCarry_checkTransfer h0, mayCarry_checkTransfer h1,
      Request.forMessage, messageOf, fld]
  | calleAway h b hv hr hi h0 h1 =>
    simp [sendingRequest, sendRequest, checkEk, hv, hr, hi, mayCarry_checkTransfer h0, mayCarry_checkTransfer h1,
      Request.forMessage, messageOf, fld]
  | recv h b hk => simp [sendingRequest, receiveRequest, names_checkEk hk, Request.forMessage, messageOf, fld]
  | nwait h b hk => simp [sendingRequest, receiveRequest, names_checkEk hk, Request.forMessage, messageOf, fld]
  | nsig h b hk => simp [sendingRequest, nsigRequest, receiveRequest, names_checkEk hk, Request.forMessage, messageOf, fld]
  | reply h b w th caller obj hw ht hs ho h0 h1 =>
    simp [sendingRequest, replyRequest, hw, ht, hs, ho, mayCarry_checkTransfer h0, mayCarry_checkTransfer h1,
      Request.forMessage, messageOf, fld]
  | replyAway h b w th caller hw ht hs ho h0 h1 =>
    simp [sendingRequest, replyRequest, hw, ht, hs, ho, mayCarry_checkTransfer h0, mayCarry_checkTransfer h1,
      Request.forMessage, messageOf, fld]
  | launch h b u p hq hp hk =>
    have ho : (l.cap b.ka).otype = 7 := by
      apply BitVec.eq_of_toNat_eq; simpa using hq.otype
    have hc : queueCheck s l b.ka = .ok (l.cap b.ka).objPa := by
      simp [queueCheck, hq.valid, hq.here, ho, hq.invoke, hq.live]
    simp [sendingRequest, launchRequest, hc, checkSecond, hp, hk]
  | spawn h b la _ pas hl hf hv hr ho hx hw hlt =>
    have hne : (l.regN b.a.toNat).toNat ≠ (l.regN (b.a.toNat + 1)).toNat := Nat.ne_of_lt hlt
    have hle : ¬ (l.regN (b.a.toNat + 1)).toNat < (l.regN b.a.toNat).toNat := Nat.not_lt.mpr (Nat.le_of_lt hlt)
    have hf8 : fld b.variant 2 0 = b.variant.toNat % 8 := by simp [fld]
    rcases hw with ⟨h0, rfl, rfl⟩ | ⟨h0, p, rfl, hp⟩
    · simp [sendingRequest, spawnRequest, hl, hf, hv, hr, ho, hx, hf8, h0, hne, hle]
    · simp [sendingRequest, spawnRequest, hl, hf, hv, hr, ho, hx, hf8, h0, checkSecond, hp, hne, hle]
  | spawnNothing h b la _ pas hl hf hv hr ho hx hw heq =>
    have hf8 : fld b.variant 2 0 = b.variant.toNat % 8 := by simp [fld]
    rcases hw with ⟨h0, rfl, rfl⟩ | ⟨h0, p, rfl, hp⟩
    · simp [sendingRequest, spawnRequest, hl, hf, hv, hr, ho, hx, hf8, h0, heq, atOnce]
    · simp [sendingRequest, spawnRequest, hl, hf, hv, hr, ho, hx, hf8, h0, checkSecond, hp, heq, atOnce]
  | reggive h b hr hn =>
    have h1 : fld b.imm 11 8 = b.imm.toNat / 256 % 16 := by simp [fld, Nat.shiftRight_eq_div_pow]
    have h2 : fld b.imm 7 0 = b.imm.toNat % 256 := by simp [fld]
    simp only [sendingRequest, budgetRequest, h1, h2, if_neg hr]
    simp [Nat.not_lt.mpr hn]
  | regclaim h b hr hn =>
    have h1 : fld b.imm 11 8 = b.imm.toNat / 256 % 16 := by simp [fld, Nat.shiftRight_eq_div_pow]
    have h2 : fld b.imm 7 0 = b.imm.toNat % 256 := by simp [fld]
    simp only [sendingRequest, budgetRequest, h1, h2, if_neg hr]
    simp [Nat.not_lt.mpr hn]
  | pdim h b la hp hl hs =>
    have h1 : fld b.imm 1 0 = b.imm.toNat % 4 := by simp [fld]
    simp [sendingRequest, pdimRequest, State.prologueLaunch, hp, hl, hs, h1, atOnce]
  | pdimCount h b la hp hl hs hk =>
    have h1 : fld b.imm 1 0 = 0 := by simp [fld, hk]
    simp [sendingRequest, pdimRequest, State.prologueLaunch, hp, hl, hs, h1, atOnce]
  | prepeat h b la hp hl => simp [sendingRequest, State.prologueLaunch, hp, hl]

end Sys2Proof.Machine
end

