-- ==== Sys2Proof/Tests/Slice0.lean ====
section
/-! SUPPORT. Tests: words written out from the spec, well-formedness, witnesses of the statements' hypotheses (witness_*, in
the order of the statements), and single steps (test_*), whose expected results are the spec's or worked out from it by hand. -/

namespace Sys2Proof.Tests
open Sys2Proof Sys2Proof.Machine Sys2Proof.Safety
set_option Elab.async false

/-! Helpers. -/

/-- Whether an outcome is a next state of which `p` holds. -/
def ran (o : Host.Outcome State Fault Refusal) (p : State → Bool) : Bool :=
  match o with
  | .next t => p t
  | _ => false

/-- An address space 0 with the page 0x10000 mapped to itself, readable, writable, with CW and FE, in HBM4E of die 0. -/
def mapped (s : State) : State :=
  { s with
    asids := [⟨0, 0x20000, false, some 0⟩]
    tlb := [⟨.die 0, 0, 16, 1, 16, 0x3DF⟩, ⟨.die 4, 0, 16, 1, 16, 0x3DF⟩] }

def dataCap : Cap := Cap.make 0x10000 0x1000 0xBFF 0
def objCap (type : Nat) : Cap := Cap.make 0x10000 128 0xFFF (BitVec.ofNat 18 type)

/-- The state in which a core's step executes the word of `i`, of a workgroup of eight threads whose k1 authorises the page and
whose k2 names an object of a type there. -/
def ready (i : Instr) (type : Nat) : State :=
  match (State.reset.withFetchWord 80 ((encodeWord i).getD 0).toNat).prepare with
  | .run _ s =>
    let give (th : Thread) : Thread := { th with k := (th.k.set 1 ⟨dataCap, false⟩).set 2 ⟨objCap type, false⟩, v := th.v.set 2 ⟨5, false⟩ }
    { (mapped s).poke 0x10000 1 type with wgs := s.wgs.map fun w => { w with threads := w.threads.map give, scrLen := 0x1000 } }
  | .rest s => s

/-- The group that issues in a state passes a check. -/
def withGroup (s : State) (p : Workgroup → Group → Bool) : Bool :=
  match s.current with
  | some (w, g) => p w g
  | none => false

theorem withGroup_spec {s : State} {p : Workgroup → Group → Bool} (h : withGroup s p = true) :
    ∃ w g, s.current = some (w, g) ∧ p w g = true := by
  unfold withGroup at h
  split at h
  · exact ⟨_, _, ‹_›, h⟩
  · cases h

def issuesB (s : State) (i : Instr) (h : Head) (w : Workgroup) (g : Group) : Bool :=
  s.groupReady w g i h (formOf (formCtx w g 0) i).transfer && !(s.issueLanes w g i h).isEmpty
    && (s.issueLanes w g i h).all fun l => decide (s.laneFault l (s.issueCtx w g i h) g = none)

theorem issues_of {s : State} {i : Instr} {h : Head} {w : Workgroup} {g : Group} (hc : s.current = some (w, g))
    (hb : issuesB s i h w g = true) : Issues s i h w g := by
  simp only [issuesB, Bool.and_eq_true, List.all_eq_true, decide_eq_true_eq] at hb
  refine ⟨hc, hb.1.1, ?_, hb.2⟩
  intro e
  simp [e] at hb

/-- A group issues the instruction, and the check holds of it. -/
theorem issues_with {s : State} {i : Instr} {h : Head} {p : Workgroup → Group → Bool}
    (hb : withGroup s (fun w g => issuesB s i h w g && p w g) = true) : ∃ w g, Issues s i h w g ∧ p w g = true := by
  obtain ⟨w, g, hc, h⟩ := withGroup_spec hb
  rw [Bool.and_eq_true] at h
  exact ⟨w, g, issues_of hc h.1, h.2⟩

def passOf (r : MemoryRow) (c : IssueCtx) (batch : Nat) : List Lane → Bool → State → Option (List Request × State)
  | [], _, s => some ([], s)
  | l :: ls, lowest, s =>
    match checkAccess s.newId.2 l.w.seat (l.cap r.b.k) r.b.k.toNat (accessAddress l r.b) (r.spec l) with
    | (s1, .ok p) =>
      if p.io || s1.ownPoison l.w.core p.pas then none
      else
        (passOf r c batch ls false (s1.sendReq (accessOf r c l s.nextId batch lowest p))).map fun x =>
          (accessOf r c l s.nextId batch lowest p :: x.1, x.2)
    | _ => none

theorem passOf_sound {r : MemoryRow} {c : IssueCtx} {batch : Nat} {ls : List Lane} {lowest : Bool} {s t : State}
    {rs : List Request} (h : passOf r c batch ls lowest s = some (rs, t)) : AccessesPass r c batch ls lowest s rs t := by
  induction ls generalizing lowest s rs with
  | nil => cases h; exact ⟨rfl, rfl⟩
  | cons l ls ih =>
    unfold passOf at h
    split at h
    · split at h
      · cases h
      · rename_i hn
        simp only [Bool.or_eq_true, not_or, Bool.not_eq_true] at hn
        obtain ⟨x, hx, he⟩ := Option.map_eq_some_iff.mp h
        cases he
        exact ⟨_, _, _, ‹_›, fun hi => absurd hi (by simp [hn.1]), fun _ => hn.2, rfl, ih hx⟩
    · cases h

/-- An access that passes its checks. -/
def passes (x : State × AccessCheck) : Bool := match x with | (_, .ok _) => true | _ => false
theorem passes_spec {x : State × AccessCheck} (h : passes x = true) : ∃ u p, x = (u, .ok p) := by
  unfold passes at h
  split at h
  · exact ⟨_, _, rfl⟩
  · cases h

/-- A launch, with nothing in it but its number. -/
def launch0 : Launch :=
  { id := 3, queue := 0x30000, die := 0, seq := 9, state := .distributed, entry := .null, args := .null, schedule := .null,
    fault := .null, stamp := .null, cnotify := .null, prologue := .null, work := .null, masks := [], roles := 0, dims := [],
    w := 8, g := 1, nv := 16, nk := 16, ntiles := 0, nacc := 0, flags := 0, nscr := 0, age := 256, nvault := 0, rscope := 0,
    cbit := 0, count := 1, nfslot := 0, record := [], rtags := 0, image := [], asid := 0, ctx := 0x40000, prio := 3, scope := 0,
    sched := none, repeats := false, cancelled := false, prologueFault := false, error := 0, undealt := [], nextWgid := 0,
    used := [], records := [] }

/-- A request of thread 0 for the four bytes at 0x10000. -/
def req0 : Request :=
  { id := 50, batch := 50, who := .thread 0 0, launch := 3, name := 0, core := 0, grp := 1, pos := 0, op := .load false, phase := .sent, x := 0x10000,
    pas := [0x10000, 0x10001, 0x10002, 0x10003], obj := 0x10000, size := 4, order := 0, scope := 0, strong := false, io := false,
    cw := true, via := [], chans := [.slice 0 0], data := 8, kreg := 1, pred := 7, auth := 1, lowest := true, tag := 1, dests := [],
    pc := 0, nextPc := 128, nextNew := true, unresolved := false, remote := none, faultCall := false }

def namesB (s : State) (c : Cap) (type : Nat) : Bool :=
  c.valid && !c.remote && decide (c.otype.toNat = type) && c.has pINVOKE && s.objLive c.objPa type
theorem names_of {s : State} {c : Cap} {type : Nat} (h : namesB s c type = true) : Names s c type := by
  simp only [namesB, Bool.and_eq_true, decide_eq_true_eq, Bool.not_eq_true'] at h
  exact ⟨h.1.1.1.1, h.1.1.1.2, h.1.1.2, h.1.2, h.2⟩
def h0 : Head := ⟨0, 0, 0, 7, false⟩
def r0 : RBody := ⟨1, 2, 3, 0, false, false, false, false, false, false, 0, 0, 0⟩
def i0 : IBody := ⟨1, 2, 0, 0⟩
/-- data v8, k1, no index, 4 bytes, weak. -/
def m0 : MBody := ⟨8, 1, 0xFF, 0, 16, 2, 0, 0, 0⟩
def k0 : KBody := ⟨4, 1, 1, 8, 64, 0⟩
def x0 : XBody := ⟨0, 8, 1, 2, 2, 2, 0, 0⟩
def s0 : SBody := ⟨2, 0, 0, 8, 1, 0, 0⟩
def r1 : RBody := { r0 with b := 0, c := 0 }
def k1 : KBody := ⟨0, 1, 0, 8, 0, 0⟩
def i1 : IBody := ⟨0, 2, 0x10, 0⟩
def z0 : RBody := ⟨0, 0, 0, 0, false, false, false, false, false, false, 0, 0, 0⟩
/-- Thread 0 alone has p0 set, and is the active lane of an instruction that it guards. -/
def hp0 : Head := { h0 with guard := 0 }
def split0 (s : State) : State :=
  { s with wgs := s.wgs.map fun w => { w with threads := w.threads.map fun t => if t.tid = 0 then { t with p := 1 } else t } }

/-! Words written out from the spec: the opcodes of spec/07 Tables 7.1-7.12 with a head of Table 5.3 (D 5, talloc 3, wmask
w6 and w1, guard !p2) and one body of each format (Tables 5.4-5.10), field by field from the left. -/

def rWords : List (BitVec 10 × (Head → RBody → Instr)) :=
  [(0x000, .nop), (0x007, .exit), (0x00A, .plop), (0x040, .iadd), (0x041, .isub), (0x042, .imul), (0x043, .imulhi),
    (0x044, .imad), (0x045, .imin), (0x046, .imax), (0x047, .iabs), (0x048, .ineg), (0x049, .and), (0x04A, .or), (0x04B, .xor),
    (0x04C, .andn), (0x04D, .shl), (0x04E, .shr), (0x04F, .sar), (0x050, .rot), (0x051, .bfx), (0x052, .bfi), (0x053, .popc),
    (0x054, .clz)] ++
  [(0x055, .brev), (0x056, .iset), (0x057, .sel), (0x080, .fadd), (0x081, .fsub), (0x082, .fmul), (0x083, .ffma),
    (0x084, .fmin), (0x085, .fmax), (0x086, .fset), (0x087, .frcp), (0x088, .frsq), (0x089, .fsqrt), (0x08A, .fex2),
    (0x08B, .flg2), (0x08C, .fsin), (0x08D, .fcos), (0x08E, .ftanh), (0x08F, .frnd), (0x090, .fcvt), (0x091, .fclass),
    (0x092, .fscl), (0x0C0, .hadd2), (0x0C1, .hmul2)] ++
  [(0x0C2, .hfma2), (0x0E0, .mov), (0x0E2, .movs), (0x0E3, .shfl), (0x0E4, .vote), (0x0E5, .lred), (0x0E6, .prmt),
    (0x18E, .yield), (0x1C0, .tdef), (0x1C1, .tstat), (0x1C2, .twait), (0x1C3, .trel), (0x221, .pcancel), (0x222, .prepeat)]
def iWords : List (BitVec 10 × (Head → IBody → Instr)) :=
  [(0x008, .trap), (0x009, .brk), (0x060, .iaddImm), (0x061, .isubImm), (0x062, .imulImm), (0x063, .imulhiImm),
    (0x065, .iminImm), (0x066, .imaxImm), (0x069, .andImm), (0x06A, .orImm), (0x06B, .xorImm), (0x06C, .andnImm),
    (0x06D, .shlImm), (0x06E, .shrImm), (0x06F, .sarImm), (0x070, .rotImm), (0x071, .bfxImm), (0x076, .isetImm),
    (0x0A0, .faddImm), (0x0A1, .fsubImm), (0x0A2, .fmulImm), (0x0A4, .fminImm), (0x0A5, .fmaxImm), (0x0A6, .fsetImm)] ++
  [(0x0E1, .movi), (0x0E7, .getsr), (0x0E8, .setsr), (0x180, .bar), (0x1C4, .gang), (0x207, .reggive), (0x208, .regclaim),
    (0x220, .pdim)]
def mWords : List (BitVec 10 × (Head → MBody → Instr)) :=
  [(0x100, .ld), (0x101, .st), (0x102, .ldk), (0x103, .stk), (0x104, .lds), (0x105, .sts), (0x106, .ldfe), (0x107, .ldfeKeep),
    (0x108, .stfe), (0x109, .stfeForce), (0x10A, .fence), (0x10B, .flush), (0x10C, .inval), (0x10D, .pref), (0x110, .atomAdd),
    (0x111, .atomAddF32), (0x112, .atomMin), (0x113, .atomMax), (0x114, .atomAnd), (0x115, .atomOr), (0x116, .atomXor),
    (0x117, .atomXchg), (0x118, .atomCas), (0x119, .atomIncw)] ++
  [(0x11A, .atomBfadd), (0x120, .redAdd), (0x121, .redAddF32), (0x122, .redMin), (0x123, .redMax), (0x124, .redAnd),
    (0x125, .redOr), (0x126, .redXor), (0x129, .redIncw), (0x181, .mwait), (0x182, .mwaitEq), (0x183, .lock), (0x184, .unlock),
    (0x201, .pclaim), (0x202, .pdone)]
def kWords : List (BitVec 10 × (Head → KBody → Instr)) :=
  [(0x140, .kaddr), (0x141, .kbase), (0x142, .klen), (0x143, .kperm), (0x144, .ktype), (0x145, .ktag), (0x146, .kseta),
    (0x147, .kinc), (0x148, .kbnd), (0x149, .kbndx), (0x14A, .kandp), (0x14B, .kseal), (0x14C, .kunseal), (0x14D, .ksub),
    (0x14E, .kclr), (0x14F, .kmov), (0x150, .kentry), (0x185, .wreg), (0x186, .wdereg), (0x187, .whold), (0x200, .launch),
    (0x203, .schrd), (0x204, .schwr), (0x205, .covrd)] ++
  [(0x206, .spawn)]
def xWords : List (BitVec 10 × (Head → XBody → Instr)) :=
  [(0x1C5, .copy), (0x1C6, .copym), (0x1C7, .mma), (0x1C8, .mmak), (0x1C9, .scacc), (0x1CA, .aclr), (0x1CB, .ainit),
    (0x1CC, .adrain)]
def bWords : List (BitVec 10 × (Head → BBody → Instr)) :=
  [(0x001, .bra), (0x002, .br), (0x003, .brx), (0x004, .call), (0x005, .ret), (0x006, .reform)]
def sWords : List (BitVec 10 × (Head → SBody → Instr)) :=
  [(0x188, .send), (0x189, .recv), (0x18A, .calle), (0x18B, .reply), (0x18C, .nsig), (0x18D, .nwait)]

def head0 : Head := ⟨5, 3, 0b100001, 2, true⟩
def headBits : BitVec 17 := 0b0101#4 ++ 0b011#3 ++ 0b100001#6 ++ 0b010#3 ++ 0b1#1
theorem test_words_r : rWords.all (fun (op, f) => decodeWord (op ++ headBits ++ 0x01#8 ++ 0xC2#8 ++ 0x03#8 ++ 0xFF#8
    ++ 0b101010#6 ++ 0b10#2 ++ 0b1000#4 ++ 0b100000011#9)
    == f head0 ⟨1, 0xC2, 3, 0xFF, true, false, true, false, true, false, 2, 8, 0x103⟩) = true := by decide +kernel
theorem test_words_i : iWords.all (fun (op, f) => decodeWord (op ++ headBits ++ 0x01#8 ++ 0xC2#8 ++ 0x89ABCDEF#32 ++ 0b10010#5)
    == f head0 ⟨1, 0xC2, 0x89ABCDEF, 0x12⟩) = true := by decide +kernel
theorem test_words_m : mWords.all (fun (op, f) => decodeWord (op ++ headBits ++ 0x04#8 ++ 0xA#4 ++ 0xFF#8 ++ 0b01#2 ++ 0x80001#20
    ++ 0b011#3 ++ 0b10#2 ++ 0b100#3 ++ 0b101#3) == f head0 ⟨4, 10, 0xFF, 1, 0x80001, 3, 2, 4, 5⟩) = true := by decide +kernel
theorem test_words_k : kWords.all (fun (op, f) => decodeWord (op ++ headBits ++ 0x1#4 ++ 0x2#4 ++ 0x3#4 ++ 0xC4#8 ++ 0x800005#24
    ++ 0b100000110#9) == f head0 ⟨1, 2, 3, 0xC4, 0x800005, 0x106⟩) = true := by decide +kernel
theorem test_words_x : xWords.all (fun (op, f) => decodeWord (op ++ headBits ++ 0b011#3 ++ 0b100000001#9 ++ 0x02#8 ++ 0x03#8 ++ 0x4#4
    ++ 0x5#4 ++ 0b10001#5 ++ 0x806#12) == f head0 ⟨3, 0x101, 2, 3, 4, 5, 0x11, 0x806⟩) = true := by decide +kernel
theorem test_words_b : bWords.all (fun (op, f) => decodeWord (op ++ headBits ++ 0x800001#24 ++ 0b000010010#9 ++ 0x7#4 ++ 0x8001#16)
    == f head0 ⟨0x800001, 0x12, 7, 0x8001⟩) = true := by decide +kernel
theorem test_words_s : sWords.all (fun (op, f) => decodeWord (op ++ headBits ++ 0x1#4 ++ 0x2#4 ++ 0x3#4 ++ 0x44#8 ++ 0x5#4
    ++ 0b100000110#9 ++ 0x80007#20) == f head0 ⟨1, 2, 3, 0x44, 5, 0x106, 0x80007⟩) = true := by decide +kernel
/-- A slot holds a word's bytes lowest first (R131). -/
theorem test_slot_bytes : decodeSlot [0x07, 0, 0, 0, 0, 0, 0, 0, 0x80, 0x03] = decodeWord 0x03800000000000000007 := by decide +kernel

/-- The words of a hart: spec/18 Table 18.5 (funct7, rs2, rs1, funct3, rd, opcode), and the standard encodings of RISC-V. -/
def hartWords : List (BitVec 32 × Instr) :=
  [(0x801#12 ++ 17#5 ++ 0#3 ++ 3#5 ++ 0x0B#7, .kld 3 17 0x801), (0b1000000#7 ++ 4#5 ++ 17#5 ++ 1#3 ++ 2#5 ++ 0x0B#7, .kst 4 17 0x802),
    (0xFFF#12 ++ 1#5 ++ 2#3 ++ 3#5 ++ 0x0B#7, .kincHart 3 1 0xFFF), (0x0FF#12 ++ 1#5 ++ 3#3 ++ 3#5 ++ 0x0B#7, .kandpHart 3 1 0xFF),
    (0x00#7 ++ 30#5 ++ 1#5 ++ 4#3 ++ 3#5 ++ 0x0B#7, .kbndHart 3 1 30), (0x01#7 ++ 30#5 ++ 1#5 ++ 4#3 ++ 3#5 ++ 0x0B#7, .kbndxHart 3 1 30),
    (0x02#7 ++ 0#5 ++ 1#5 ++ 4#3 ++ 30#5 ++ 0x0B#7, .kaddrHart 30 1), (0x03#7 ++ 30#5 ++ 1#5 ++ 4#3 ++ 3#5 ++ 0x0B#7, .kaddrSet 3 1 30),
    (0x04#7 ++ 2#5 ++ 1#5 ++ 4#3 ++ 3#5 ++ 0x0B#7, .ksealHart 3 1 2), (0x05#7 ++ 2#5 ++ 1#5 ++ 4#3 ++ 3#5 ++ 0x0B#7, .kunsealHart 3 1 2),
    (0x06#7 ++ 0#5 ++ 1#5 ++ 4#3 ++ 3#5 ++ 0x0B#7, .kentryHart 3 1), (0x10#7 ++ 0#5 ++ 0#5 ++ 4#3 ++ 0#5 ++ 0x0B#7, .kmodeCap),
    (0x11#7 ++ 0#5 ++ 0#5 ++ 4#3 ++ 0#5 ++ 0x0B#7, .kmodeInt), (0x12#7 ++ 0#5 ++ 7#5 ++ 4#3 ++ 3#5 ++ 0x0B#7, .kmodeRd 3 7),
    (0x13#7 ++ 0#5 ++ 1#5 ++ 4#3 ++ 7#5 ++ 0x0B#7, .kmodeWr 7 1), (0x14#7 ++ 0#5 ++ 1#5 ++ 4#3 ++ 3#5 ++ 0x0B#7, .kmodeJmp 3 1)] ++
  [(0x08#7 ++ 2#5 ++ 1#5 ++ 0#3 ++ 3#5 ++ 0x2B#7, .ksend 8 2 1 3), (0x0402102B#32, .krecv false 2 0 4 0), (0x0202902B#32, .krecv false 1 0 5 0),
    (0x01#7 ++ 2#5 ++ 1#5 ++ 2#3 ++ 3#5 ++ 0x2B#7, .kcall 1 2 1 3), (0x0400302B#32, .kreply 2 0 0),
    (0x00#7 ++ 30#5 ++ 1#5 ++ 4#3 ++ 3#5 ++ 0x2B#7, .omake 3 1 30),
    (0xFFF#12 ++ 6#5 ++ 4#3 ++ 5#5 ++ 0x03#7, .hartMemoryAccess (.load 0 true 5 6 0xFFF)),
    (0x7F#7 ++ 5#5 ++ 6#5 ++ 3#3 ++ 31#5 ++ 0x23#7, .hartMemoryAccess (.store 3 5 6 0xFFF)),
    (0x33#8 ++ 0xF#4 ++ 0#5 ++ 0#3 ++ 0#5 ++ 0x0F#7, .hartFence 3 3 0xF), (0x5C3#12 ++ 31#5 ++ 7#3 ++ 1#5 ++ 0x73#7, .xkcapCsrAccess .rci 0x5C3 1 31),
    (0x10200073#32, .sret), (0x30200073#32, .mret)]
theorem test_words_hart : hartWords.all (fun (w, i) => decodeHart w == some i && encodeHart i == some w) = true := by decide +kernel

/-! Well-formedness: a term that is well-formed, and for each check one that is refused. -/

theorem smoke_wellFormed : wellFormed (.iadd h0 r0) = true ∧ wellFormed (.kld 3 17 8) = true ∧ wellFormed .powerOn = true := by decide +kernel
/-- No opcode; talloc 7; an integer form with a negated operand; a reserved field; an offset of the wrong alignment's size. -/
theorem smoke_illFormed_compute : ([.unassignedOpcode 0x3FF h0 0, .iadd { h0 with talloc := 7 } r0, .iadd h0 { r0 with na := true },
    .nop h0 r0, .bra { h0 with guard := 0 } ⟨1, 0, 0, 0⟩, .call h0 ⟨1, 0, 0, 0⟩, .ldk h0 { m0 with size := 2 }, .gang h0 ⟨0, 0, 0, 0⟩,
    .bar h0 ⟨0, 0, 0x70, 0⟩, .send h0 { s0 with count := 9 }, .ainit h0 ⟨4, 8, 1, 0, 0, 1, 0, 0⟩] : List Instr).all (fun i => !wellFormed i)
    = true := by decide +kernel
/-- A k field of 16; a special register of 8; nine values; an unsigned load of 8 bytes; a CSR that is not Xkcap's. -/
theorem smoke_illFormed_hart : ([.kld 16 0 0, .kst 16 0 0, .kincHart 3 16 0, .kandpHart 16 1 0, .kbndHart 3 16 1, .kbndxHart 16 1 1, .kaddrHart 1 16,
    .kaddrSet 16 1 1, .ksealHart 3 1 16, .kunsealHart 3 16 1, .kentryHart 16 1, .kmodeRd 3 8, .kmodeWr 8 1, .kmodeJmp 16 1, .ksend 9 0 1 0,
    .krecv false 1 16 1 0, .kcall 1 0 16 0, .kreply 9 0 0, .omake 16 1 1, .aspaceTeardown 9 0 1 0, .asidRelease 0 16 1 0, .sweepStart 6 0 16 0,
    .objectRevoke 0 1 1 16, .hartMemoryAccess (.load 3 true 1 1 0), .xkcapCsrAccess .rw 0x300 1 1] : List Instr).all (fun i => !wellFormed i)
    = true := by decide +kernel

/-! Witnesses: encodings and the step. -/

theorem witness_ComputeDecodeOfEncode : (encodeWord (.iadd h0 r0)).isSome ∧ (∀ op h b, Instr.iadd h0 r0 ≠ .unassignedOpcode op h b)
    ∧ (encodeWord (.unassignedOpcode 0x3FF h0 0)).isSome ∧ opcodeMap.lookup (0x3FF#10).toNat = none := by
  exact ⟨by decide +kernel, fun _ _ _ h => (by cases h), by decide +kernel, by decide +kernel⟩

theorem witness_HartDecodeOfEncode : (encodeHart (.kincHart 3 1 8)).isSome ∧ hartFieldsOk (.kincHart 3 1 8) = true
    ∧ (encodeHart (.krecv true 2 6 5 7)).isSome ∧ hartFieldsOk (.krecv true 2 6 5 7) = true := by decide +kernel

def slot0 : State := State.reset.withFetchWord 80 ((encodeWord (.iadd h0 r0)).getD 0).toNat

theorem witness_Signs : e4m3 ∈ [fp32, fp16, bf16, e4m3, e5m2] ∧ 0xFF < 2 ^ e4m3.width
    ∧ e4m3.modSource true true 0xFF = 0xFF ∧ e4m3.modSource false true 0xFF = 0x7F := by decide +kernel

theorem witness_CoreTurn : slot0.agenda = .core 0 :: []
    ∧ (match (({ slot0 with agenda := [] } : State).beforeIssue 0).choose 0 with
      | some (w, g) => ((({ slot0 with agenda := [] } : State).beforeIssue 0).slotAt w g.pc).isSome
      | none => false) = true := by decide +kernel

def hartWord (w : BitVec 32) : State := State.reset.withFetchWord 32 w.toNat

theorem witness_HartTurn : (match (({ hartWord 0x0080A18B with agenda := [] } : State).poll).hart? 0 with
    | some h => h.run == .running && h.tick.interrupt?.isNone
        && (match ((({ hartWord 0x0080A18B with agenda := [] } : State).poll).setHart h.tick).hartParcel h.tick h.tick.pc with
          | (s1, .ok lo) => lo % 4 == 3 && (match s1.hartParcel h.tick (h.tick.pc + 2) with
            | (_, .ok hi) => (decodeHart (BitVec.ofNat 32 (lo + 65536 * hi))).isSome
            | _ => false)
          | _ => false)
    | none => false) = true := by decide +kernel

/-- A compute word and a step of the device take a step from reset. -/
theorem test_step_compute : ran (step slot0) (fun t => (t.core 0).clock0 == 1) = true := by decide +kernel
theorem test_step_device : ran (step { State.reset with agenda := [.event .powerOn .zero] }) (fun t => t.th.powered) = true := by
  decide +kernel

/-! Arithmetic. -/

theorem witness_RoundingIsCorrect : (0 < 1) ∧ (roundTo .rne false 3 0 1 false).1 = 2 := by decide +kernel
/-- Numbers 3/2 and 5/2, whose sum, product and fused result are not 0, and what 5/2 rounds to. -/
theorem isValue_of {x : FVal} {n : Bool} {m : Nat} {e : Int} {q : Rat} (h : x = .num n m e false) (hq : exactOf n m e = q) : IsValue x q :=
  ⟨n, m, e, h, hq⟩
theorem witness_Values : IsValue (.num false 3 (-1) false) (mkRat 3 2) ∧ IsValue (.num false 5 (-1) false) (mkRat 5 2)
    ∧ (mkRat 3 2 + mkRat 5 2 ≠ 0 ∧ mkRat 3 2 * mkRat 5 2 + mkRat 5 2 ≠ 0 ∧ mkRat 3 2 < mkRat 5 2 ∧ (mkRat 5 2 : Rat) ≠ 0)
    ∧ RoundsTo .rne (mkRat 5 2) 2 ∧ RoundsTo .ru (mkRat 5 2) 3 ∧ RoundsTo .rd (mkRat (-5) 2) (-3) ∧ RoundsTo .rz (mkRat (-5) 2) (-2)
    ∧ -2000 ≤ (5 : Word).toInt ∧ (5 : Word).toInt ≤ 2000 :=
  ⟨isValue_of rfl (by decide +kernel), isValue_of rfl (by decide +kernel), by decide +kernel, by unfold RoundsTo; decide +kernel,
    by unfold RoundsTo; decide +kernel, by unfold RoundsTo; decide +kernel, by unfold RoundsTo; decide +kernel, by decide +kernel,
    by decide +kernel⟩
/-- Operands of FRCP and the roots; of FEX2, whose value is 2; of FLG2, a power of two; and NaNs and infinities. -/
theorem witness_Functions : (0 < 4 ∧ 4 < 2 ^ 24) ∧ exactOf false 4 (-1) = (2 : Nat) ∧ (0 < 2 ∧ 2 ≤ 1000 ∧ (-149 : Int) ≤ -1) ∧ 4 = 2 ^ 2
    ∧ (fp16.decode 0x7E00).isNan = true ∧ fp16.decode 0x7C00 = .inf false := by decide +kernel
/-- The pattern of 5/2 in FP16; the first and the last exponent of a format; and a list of four words for LRED. -/
theorem witness_Patterns : IsValue (fp16.decode 0x4100) (mkRat 5 2) ∧ 0x4100 < 2 ^ fp16.width ∧ 0x8000 / 2 ^ 10 % 2 ^ 5 = 0
    ∧ 0xFC00 / 2 ^ 10 % 2 ^ 5 = 2 ^ 5 - 1 ∧ e4m3 ≠ fp16 ∧ 0x7F / 2 ^ 3 % 2 ^ 4 = 15 ∧ 0x7E % 2 ^ 3 ≠ 7 ∧ 0x7F % 2 ^ 3 = 7
    ∧ ([1, 2, 3, 4] : List Word).length = 2 ^ 2 ∧ (8 : Nat) < 9 :=
  ⟨isValue_of (n := false) (m := 0x500) (e := -9) (by decide +kernel) (by decide +kernel), by decide +kernel⟩
theorem witness_BoundsSurviveEncoding : (0x10 : Nat) ≤ 2 ^ 64 ∧ 2 ^ 64 ≤ 2 ^ 64 ∧ encodeBounds 0x10 (2 ^ 64) = (0, 2 ^ 64, 50, 0, 0, false) := by
  decide +kernel
theorem witness_BoundsExact : encodeBounds 4095 8191 = (4095, 8191, 0, 4095, 8191, true) := by decide +kernel
theorem witness_DerivationNeverGrows : (dataCap.withCursor 0x10010).valid = true ∧ (capInc dataCap 16).valid = true
    ∧ (capBnd dataCap 64).valid = true ∧ (match capBndx dataCap 64 with | .ok d => d.valid | _ => false) = true
    ∧ (capAndp dataCap 0x3).valid = true := by decide +kernel

def canonicalB (s : State) : Bool :=
  Memory.wf s.mem && risingFrom 0 s.tags && risingFrom 0 s.summary && risingFrom 0 s.fe && risingFrom 0 s.poison
theorem canonical_of {s : State} (h : canonicalB s = true) : Canonical s := by
  simp only [canonicalB, Bool.and_eq_true] at h
  exact ⟨h.1.1.1.1, h.1.1.1.2, h.1.1.2, h.1.2, h.2⟩

/-! Issuing. -/

theorem witness_Integer : ∃ i h res s w g, integerRow i = some (h, res) ∧ Issues s i h w g := by
  obtain ⟨w, g, h, -⟩ := issues_with (s := ready (.iadd h0 r0) 1) (i := .iadd h0 r0) (h := h0) (p := fun _ _ => true) (by decide +kernel)
  exact ⟨_, _, _, _, w, g, rfl, h⟩
theorem witness_Float : ∃ i h lat res s w g, floatRow i = some (h, lat, res) ∧ Issues s i h w g := by
  obtain ⟨w, g, h, -⟩ := issues_with (s := ready (.fadd h0 r0) 1) (i := .fadd h0 r0) (h := h0) (p := fun _ _ => true) (by decide +kernel)
  exact ⟨_, _, _, _, _, w, g, rfl, h⟩
theorem witness_Lane : ∃ i h lat res s w g, laneRow ⟨w.settle (s.clockOf w), g, s.issueLanes w g i h⟩ i = some (h, lat, res)
    ∧ Issues s i h w g := by
  obtain ⟨w, g, h, -⟩ := issues_with (s := ready (.vote h0 r1) 1) (i := .vote h0 r1) (h := h0) (p := fun _ _ => true) (by decide +kernel)
  exact ⟨_, _, _, _, _, w, g, rfl, h⟩
theorem witness_Capability : ∃ i h f, ∃ res : Lane → List Wr, ∃ s w g, capabilityRow i = some (h, f) ∧ Issues s i h w g
    ∧ ∀ l ∈ s.issueLanes w g i h, f l = .ok (res l) := by
  obtain ⟨w, g, h, -⟩ := issues_with (s := ready (.kaddr h0 k1) 1) (i := .kaddr h0 k1) (h := h0) (p := fun _ _ => true) (by decide +kernel)
  exact ⟨_, _, _, fun l => widthWrites l k1 (l.cap k1.ka).cursor, _, w, g, rfl, h, fun _ _ => rfl⟩
theorem witness_Setsr : ∃ b s w g, Issues s (.setsr h0 b) h0 w g := by
  obtain ⟨w, g, h, -⟩ := issues_with (s := ready (.setsr h0 i1) 1) (i := .setsr h0 i1) (h := h0) (p := fun _ _ => true) (by decide +kernel)
  exact ⟨_, _, w, g, h⟩
/-- SEL and SHFL in a workgroup with nothing on its way, whose threads have 16 vector registers; and an IADD guarded false in
every lane. -/
def idleB (w : Workgroup) (g : Group) : Bool :=
  w.pend.isEmpty && g.tids.all fun tid => (w.thread? tid).any fun th => decide (1 < th.v.length)
theorem witness_EndValues : withGroup (ready (.sel h0 r0) 1) (fun w g => issuesB (ready (.sel h0 r0) 1) (.sel h0 r0) h0 w g && idleB w g) = true
    ∧ withGroup (ready (.shfl h0 r1) 1) (fun w g => issuesB (ready (.shfl h0 r1) 1) (.shfl h0 r1) h0 w g && idleB w g
      && decide ((g.members.map Prod.fst).Nodup ∧ (g.members.map Prod.snd).Nodup)) = true ∧ r0.d.toNat < 0xC0 ∧ r1.d.toNat < 0xC0 := by decide +kernel
theorem witness_NoLane : withGroup (ready (.iadd hp0 r0) 1) (fun w g => (formOf (formCtx w g 0) (.iadd hp0 r0)).transfer == false
    && (ready (.iadd hp0 r0) 1).groupReady w g (.iadd hp0 r0) hp0 false && ((ready (.iadd hp0 r0) 1).issueLanes w g (.iadd hp0 r0) hp0).isEmpty) = true
    ∧ headOf (.iadd hp0 r0) = some hp0 := by decide +kernel
theorem test_iadd_issues : ran (exec (.iadd h0 r0) (ready (.iadd h0 r0) 1)) (fun t => t.wgs.any fun w => w.pend.length == 8) = true := by
  decide +kernel

/-! Requests. -/

def accessesB (r : MemoryRow) (i : Instr) (s : State) (w : Workgroup) (g : Group) : Bool :=
  (passOf r (s.issueCtx w g i r.h) (s.issuedBy w g i r.h).nextId (s.issueLanes w g i r.h) true (s.issuedBy w g i r.h).newId.2).isSome

theorem witness_AccessesSend : ∃ i r s w g rs t, memoryRow i = some r ∧ Issues s i r.h w g
    ∧ AccessesPass r (s.issueCtx w g i r.h) (s.issuedBy w g i r.h).nextId (s.issueLanes w g i r.h) true
      (s.issuedBy w g i r.h).newId.2 rs t := by
  obtain ⟨r, hr⟩ : ∃ r, memoryRow (.st h0 m0) = some r := ⟨_, rfl⟩
  cases hr
  obtain ⟨w, g, h, hp⟩ := issues_with (s := ready (.st h0 m0) 1) (i := .st h0 m0) (h := h0)
    (p := fun w g => ((memoryRow (.st h0 m0)).map fun r => accessesB r (.st h0 m0) (ready (.st h0 m0) 1) w g).getD false) (by decide +kernel)
  obtain ⟨x, hx⟩ := Option.isSome_iff_exists.mp hp
  exact ⟨_, _, _, w, g, x.1, x.2, rfl, h, passOf_sound hx⟩

/-- The same, in a canonical state, with all lanes on core 0. -/
theorem witness_AccessFrame : canonicalB (ready (.st h0 m0) 1) = true
    ∧ withGroup (ready (.st h0 m0) 1) (fun w g => ((ready (.st h0 m0) 1).issueLanes w g (.st h0 m0) h0).all fun l => dieOfCore l.w.core == 0) = true := by
  decide +kernel

/-- An instruction issues with one active lane, which asks for what its rule gives. -/
def Asked (i : Instr) : Prop := ∃ h s w g rs t, sendingHead i = some h ∧ Issues s i h w g
  ∧ AllAsk i (s.issueCtx w g i h) (s.issuedBy w g i h).nextId (s.issueLanes w g i h) true (s.issuedBy w g i h).newId.2 rs t

/-- The one active lane passes a check, in the state in which it asks. -/
def oneLane (s : State) (i : Instr) (h : Head) (p : State → Lane → Bool) (w : Workgroup) (g : Group) : Bool :=
  match s.issueLanes w g i h with
  | [l] => p (s.issuedBy w g i h).newId.2.newId.2 l
  | _ => false

theorem oneLane_spec {s : State} {i : Instr} {h : Head} {p : State → Lane → Bool} {w : Workgroup} {g : Group}
    (hb : oneLane s i h p w g = true) : ∃ l, s.issueLanes w g i h = [l] ∧ p (s.issuedBy w g i h).newId.2.newId.2 l = true := by
  unfold oneLane at hb
  split at hb
  · exact ⟨_, ‹_›, hb⟩
  · cases hb

theorem asked_of (s : State) {i : Instr} {h : Head} (p : State → Lane → Bool) (hs : sendingHead i = some h)
    (hb : withGroup s (fun w g => issuesB s i h w g && oneLane s i h p w g) = true)
    (ha : ∀ u l c id batch, 0 < id → u.waits = s.waits → p u l = true → ∃ v o, LaneAsks u l (baseRequest c l id batch true) i v o) : Asked i := by
  obtain ⟨w, g, hi, hp⟩ := issues_with hb
  obtain ⟨l, hl, hp⟩ := oneLane_spec hp
  obtain ⟨v, o, hv⟩ := ha _ _ (s.issueCtx w g i h) (s.issuedBy w g i h).newId.2.nextId (s.issuedBy w g i h).nextId
    (Nat.succ_pos _) (by rw [issuedBy_rest]; rfl) hp
  cases o with
  | none => exact ⟨h, s, w, g, [], v, hs, hi, by rw [hl]; exact ⟨v, none, hv, rfl, rfl⟩⟩
  | some r => exact ⟨h, s, w, g, [(l.tid, r)], _, hs, hi, by rw [hl]; exact ⟨v, some r, hv, [], rfl, rfl, rfl⟩⟩

/-- Thread 0 asks, with an object of a type at 0x10000 and launch 3. -/
def one (i : Instr) (type : Nat) : State :=
  let s := split0 (ready i type)
  { s with launches := [launch0], wgs := s.wgs.map fun w => { w with launch := 3 } }
def onThreads (f : Thread → Thread) (s : State) : State := { s with wgs := s.wgs.map fun w => { w with threads := w.threads.map f } }
def onWgs (f : Workgroup → Workgroup) (s : State) : State := { s with wgs := s.wgs.map f }
def onLaunch (f : Launch → Launch) (s : State) : State := { s with launches := s.launches.map f }

def mLine : MBody := ⟨0, 1, 0xFF, 0, 16, 0, 0, 0, 0⟩
def mAll : MBody := ⟨0, 0, 0, 0, 0, 0, 0, 0, 1⟩
def mFence : MBody := ⟨0, 0, 0, 0, 0, 0, 1, 2, 0⟩
def reads1 (b : MBody) (u : State) (l : Lane) : Bool :=
  passes (checkAccess u l.w.seat (l.cap b.k) b.k.toNat (accessAddress l b) { perms := [pLOAD], n := 1 })

theorem witness_Fences : Asked (.fence hp0 mFence) ∧ Asked (.flush hp0 mAll) ∧ Asked (.inval hp0 mAll) ∧ Asked (.flush hp0 mLine)
    ∧ Asked (.inval hp0 mLine) := by
  refine ⟨asked_of (one (.fence hp0 mFence) 1) (fun _ _ => true) rfl (by decide +kernel) fun _ _ _ _ _ _ _ _ => ⟨_, _, .fence _ _⟩,
    asked_of (one (.flush hp0 mAll) 1) (fun _ _ => true) rfl (by decide +kernel) fun _ _ _ _ _ _ _ _ => ⟨_, _, .flushAll _ _ rfl⟩,
    asked_of (one (.inval hp0 mAll) 1) (fun _ _ => true) rfl (by decide +kernel) fun _ _ _ _ _ _ _ _ => ⟨_, _, .invalAll _ _ rfl⟩,
    asked_of (one (.flush hp0 mLine) 1) (reads1 mLine) rfl (by decide +kernel) fun _ _ _ _ _ _ _ h => ?_,
    asked_of (one (.inval hp0 mLine) 1) (reads1 mLine) rfl (by decide +kernel) fun _ _ _ _ _ _ _ h => ?_⟩
  · obtain ⟨u, p, hp⟩ := passes_spec h; exact ⟨_, _, .flushLine _ _ u p rfl rfl hp⟩
  · obtain ⟨u, p, hp⟩ := passes_spec h; exact ⟨_, _, .invalLine _ _ u p rfl rfl hp⟩

/-- PREF of a line of HBM4E, of one whose translation is not cached, and of one outside the bounds. -/
theorem witness_Pref : Asked (.pref hp0 mLine) ∧ Asked (.pref hp0 { mLine with offset := 0x1000 })
    ∧ Asked (.pref hp0 { mLine with offset := 0x800 }) := by
  refine ⟨asked_of (one (.pref hp0 mLine) 1) (fun u l => decide (0 ≤ accessAddress l mLine) && u.inTlb l.w.seat (accessAddress l mLine).toNat
      && (match checkAccess u l.w.seat (l.cap mLine.k) mLine.k.toNat (accessAddress l mLine) { perms := [pLOAD], n := 1 } with
        | (_, .ok p) => !p.nc && !p.io && spaceOf (p.pas.headD 0) == .hbm
        | _ => false)) rfl (by decide +kernel) fun u l _ _ _ _ _ h => ?_,
    asked_of (one (.pref hp0 { mLine with offset := 0x1000 }) 1) (fun u l => decide (u.inTlb l.w.seat (accessAddress l { mLine with offset := 0x1000 }).toNat
      = false)) rfl (by decide +kernel) fun u l _ _ _ _ _ h => ⟨_, _, .prefUncached _ _ (.inr (of_decide_eq_true h))⟩,
    asked_of (onThreads (fun t => { t with k := t.k.set 1 ⟨Cap.make 0x10000 64 0xBFF 0, false⟩ }) (one (.pref hp0 { mLine with offset := 0x800 }) 1))
      (fun u l => !reads1 { mLine with offset := 0x800 } u l) rfl (by decide +kernel) fun u l _ _ _ _ _ h => ⟨_, _, .prefFails _ _ fun v p hp => ?_⟩⟩
  · simp only [Bool.and_eq_true, decide_eq_true_eq] at h
    obtain ⟨⟨hx, ht⟩, hm⟩ := h
    split at hm
    · rename_i v p hp
      simp only [Bool.and_eq_true, Bool.not_eq_true', beq_iff_eq] at hm
      exact ⟨_, _, .prefFetch _ _ v p hx ht hp hm.1 (.inl hm.2)⟩
    · cases hm
  · have e : reads1 { mLine with offset := 0x800 } u l = true := (congrArg passes hp).trans rfl
    rw [e] at h; cases h

def barWord : IBody := ⟨0, 0, 0x23, 0⟩
def barState (i : Instr) : State := onLaunch (fun l => { l with masks := List.replicate 64 0xFFFF }) (one i 1)
theorem witness_Bar : Asked (.bar hp0 barWord) := by
  refine asked_of (barState (.bar hp0 barWord)) (fun u l => !l.w.prologue && (match u.launch? l.w.launch, l.w.thread? l.tid with
      | some la, some _ => (la.mask 2 3).getLsbD (l.tid / l.w.w)
      | _, _ => false)) rfl (by decide +kernel) fun u l _ _ _ _ _ h => ?_
  simp only [Bool.and_eq_true, Bool.not_eq_true'] at h
  obtain ⟨hp, hm⟩ := h
  split at hm
  · rename_i la th hl ht
    exact ⟨_, _, .bar hp0 barWord la th ⟨l.w.launch, 2, barInst 2 l.w.core, 3⟩ _ hp hl ht rfl hm rfl fun e => absurd e (by decide)⟩
  · cases hm

/-- k2 names a live object, and nothing waits. -/
def namesObj (type : Nat) (u : State) (l : Lane) : Bool :=
  decide ((l.cap (2#4)).valid = true ∧ (l.cap (2#4)).otype.toNat = type ∧ (l.cap (2#4)).has pINVOKE = true
    ∧ u.objLive (l.cap (2#4)).objPa type = true ∧ (l.cap (2#4)).remote = false) && u.waits.isEmpty
theorem namesPlace_of {type : Nat} {u : State} {l : Lane} (ht : 2 ≤ type ∧ type ≤ 10) (h : namesObj type u l = true) :
    NamesPlace u l (2#4) u (l.cap (2#4)).objPa ∧ Names u (l.cap (2#4)) type ∧ u.waits = [] := by
  simp only [namesObj, Bool.and_eq_true, decide_eq_true_eq, List.isEmpty_iff] at h
  obtain ⟨⟨h1, h2, h3, h4, h5⟩, h6⟩ := h
  exact ⟨.object h1 (by omega) h3 (by rw [h2]; exact h4), ⟨h1, h5, h2, h3, h4⟩, h6⟩
def declareWord : KBody := ⟨0, 2, 0, 8, 0, 0⟩
def clearWord : KBody := ⟨0, 2, 0, 0, 0, 1⟩
def byteWord : KBody := ⟨0, 1, 0, 8, 0, 0⟩

theorem witness_Wreg : Asked (.wreg hp0 declareWord) ∧ Asked (.wdereg hp0 { declareWord with a := 0 }) ∧ Asked (.wreg hp0 byteWord) := by
  refine ⟨asked_of (one (.wreg hp0 declareWord) 2) (namesObj 2) rfl (by decide +kernel) fun u l _ _ _ _ _ h => ?_,
    asked_of (one (.wdereg hp0 { declareWord with a := 0 }) 2) (namesObj 2) rfl (by decide +kernel) fun u l _ _ _ _ _ h => ?_,
    asked_of (one (.wreg hp0 byteWord) 1) (fun u l => decide ((l.cap (1#4)).otype.toNat < 2)
      && (match checkAccess u l.w.seat (l.cap (1#4)) 1 (l.cap (1#4)).cursor.toNat { perms := [pLOAD], n := 1 } with
        | (v, .ok _) => v.waits.isEmpty
        | _ => false)) rfl (by decide +kernel) fun u l _ _ _ _ _ h => ?_⟩
  · obtain ⟨hn, -, hw⟩ := namesPlace_of (by decide) h
    exact ⟨_, _, .wreg _ _ u _ hn (by simp [hw]) (by simp [hw]) (by simp [State.tableUse, hw])⟩
  · exact ⟨_, _, .wdereg _ _ u _ (namesPlace_of (by decide) h).1⟩
  · simp only [Bool.and_eq_true, decide_eq_true_eq] at h
    obtain ⟨ht, hp⟩ := h
    split at hp
    · rename_i v p hc
      simp only [List.isEmpty_iff] at hp
      exact ⟨_, _, .wreg _ _ v _ (.byte v p (.inr (.inl ht)) hc) (by simp [hp]) (by simp [hp]) (by simp [State.tableUse, hp])⟩
    · cases hp

/-- The table of die 0 is full of declarations on other objects. -/
def fullTable (s : State) : State :=
  { s with waits := List.replicate 32768 ⟨0, 0, 12, 0, 0, .declared, [], .unknown, 0, none, false, 0⟩ }
theorem fullTable_use {s u : State} (h : u.waits = (fullTable s).waits) : u.tableUse 0 = 32768 := by
  rw [State.tableUse, h, fullTable, List.filter_replicate_of_pos (by rfl), List.length_replicate]
theorem fullTable_entry {s u : State} (h : u.waits = (fullTable s).waits) : ∀ e ∈ u.waits,
    e = ⟨0, 0, 12, 0, 0, .declared, [], .unknown, 0, none, false, 0⟩ := by
  rw [h]; exact fun e he => List.eq_of_mem_replicate he

/-- WHOLD of an endpoint, and of a notification: cleared, declared again and for the first time. -/
theorem witness_Whold : Asked (.whold hp0 declareWord) ∧ Asked (.whold hp0 clearWord) := by
  refine ⟨asked_of (one (.whold hp0 declareWord) 2) (fun u l => namesObj 2 u l && decide ((l.reg 8).toNat < l.w.w * l.w.g)) rfl
      (by decide +kernel) fun u l _ _ _ _ _ h => ?_,
    asked_of (one (.whold hp0 clearWord) 3) (namesObj 3) rfl (by decide +kernel) fun u l _ _ _ _ _ h => ?_⟩
  · rw [Bool.and_eq_true, decide_eq_true_eq] at h
    obtain ⟨hn, ho, -⟩ := namesPlace_of (by decide) h.1
    exact ⟨_, _, .wholdServer _ _ u _ hn (BitVec.eq_of_toNat_eq ho.otype) (.inr h.2)⟩
  · obtain ⟨hn, ho, -⟩ := namesPlace_of (by decide) h
    exact ⟨_, _, .wholdClear _ _ u _ hn (fun e => by have := ho.otype; rw [show (l.cap (2#4)).otype = 2 from e] at this; cases this) rfl⟩
theorem witness_WholdOther : Asked (.whold hp0 declareWord) := by
  refine asked_of (one (.whold hp0 declareWord) 3) (fun u l => namesObj 3 u l && decide ((l.reg 8).toNat < l.w.w * l.w.g)) rfl
    (by decide +kernel) fun u l _ _ _ _ _ h => ?_
  rw [Bool.and_eq_true, decide_eq_true_eq] at h
  obtain ⟨hn, ho, hw⟩ := namesPlace_of (by decide) h.1
  exact ⟨_, _, .whold _ _ u _ hn (fun e => by have := ho.otype; rw [show (l.cap (2#4)).otype = 2 from e] at this; cases this) rfl h.2
    (by simp [hw]) (by simp [hw])
    (by simp [State.tableUse, hw])⟩
theorem witness_WholdAgain : Asked (.whold hp0 declareWord) := by
  refine asked_of { one (.whold hp0 declareWord) 3 with waits := [⟨0, 0, 12, 0x10000, 0, .declared, [], .unknown, 0, none, false, 0⟩] }
    (fun u l => namesB u (l.cap (2#4)) 3 && decide ((l.cap (2#4)).objPa = 0x10000) && decide ((l.reg 8).toNat < l.w.w * l.w.g)
      && decide (u.waits = [⟨0, 0, 12, 0x10000, 0, .declared, [], .unknown, 0, none, false, 0⟩])) rfl
    (by decide +kernel) fun u l _ _ _ _ _ h => ?_
  simp only [Bool.and_eq_true, decide_eq_true_eq] at h
  obtain ⟨⟨⟨hn, hp⟩, hr⟩, hw⟩ := h
  have hn := names_of hn
  exact ⟨_, _, .wholdAgain _ _ u _ _ (.object hn.valid (show 2 ≤ (l.cap (2#4)).otype.toNat ∧ (l.cap (2#4)).otype.toNat ≤ 10 by rw [hn.otype]; decide) hn.invoke
      (show u.objLive _ (l.cap (2#4)).otype.toNat = true by rw [hn.otype]; exact hn.live))
    (fun e => by have := hn.otype; rw [show (l.cap (2#4)).otype = 2 from e] at this; cases this) rfl hr
    (show u.waits.find? (fun e => e.kind == 12 && e.obj == (l.cap (2#4)).objPa) = some _ by rw [hw, hp]; rfl)⟩

/-- WREG and WHOLD where the table is full. -/
theorem witness_TableFull : Asked (.wreg hp0 declareWord) ∧ Asked (.whold hp0 declareWord) := by
  refine ⟨asked_of (fullTable (one (.wreg hp0 declareWord) 3)) (fun u l => namesB u (l.cap (2#4)) 3 && decide (l.w.core = 0)) rfl
      (by decide +kernel) fun u l c id batch hid hu h => ?_,
    asked_of (fullTable (one (.whold hp0 declareWord) 3)) (fun u l => namesB u (l.cap (2#4)) 3 && decide (l.w.core = 0)
      && decide ((l.reg 8).toNat < l.w.w * l.w.g) && decide (0 < (l.cap (2#4)).objPa)) rfl (by decide +kernel) fun u l c id batch hid hu h => ?_⟩ <;>
    simp only [Bool.and_eq_true, decide_eq_true_eq] at h
  · have hn := names_of h.1
    refine ⟨_, _, .wregFull _ _ u _ (.object hn.valid (show 2 ≤ (l.cap (2#4)).otype.toNat ∧ (l.cap (2#4)).otype.toNat ≤ 10 by rw [hn.otype]; decide) hn.invoke
      (show u.objLive _ (l.cap (2#4)).otype.toNat = true by rw [hn.otype]; exact hn.live)) (fun e he hk => ?_) (fun e he => ?_) ?_⟩
    · rw [fullTable_entry hu e he] at hk; cases hk
    · rw [fullTable_entry hu e he]; exact Nat.ne_of_lt hid
    · rw [waitDie, h.2]; exact Nat.le_of_eq (fullTable_use hu).symm
  · have hn := names_of h.1.1.1
    refine ⟨_, _, .wholdFull _ _ u _ (.object hn.valid (show 2 ≤ (l.cap (2#4)).otype.toNat ∧ (l.cap (2#4)).otype.toNat ≤ 10 by rw [hn.otype]; decide) hn.invoke
      (show u.objLive _ (l.cap (2#4)).otype.toNat = true by rw [hn.otype]; exact hn.live))
      (fun e => by have := hn.otype; rw [show (l.cap (2#4)).otype = 2 from e] at this; cases this) rfl h.1.2 (fun e he _ => ?_) ?_⟩
    · rw [fullTable_entry hu e he]; exact fun e => absurd e (Nat.ne_of_lt h.2)
    · rw [waitDie, h.1.1.2]; exact Nat.le_of_eq (fullTable_use hu).symm

def twaitWord : RBody := { z0 with a := 3 }
theorem witness_Twait : Asked (.twait hp0 twaitWord) :=
  asked_of (one (.twait hp0 twaitWord) 1) (fun _ l => decide (tState (l.w.tile 3) ≠ tFAULTED)) rfl (by decide +kernel)
    fun _ _ _ _ _ _ _ h => ⟨_, _, .twait _ _ (of_decide_eq_true h)⟩

theorem witness_Messages : Asked (.send hp0 s0) ∧ Asked (.calle hp0 s0) ∧ Asked (.recv hp0 s0) ∧ Asked (.nwait hp0 { s0 with v := 8, count := 1 })
    ∧ Asked (.nsig hp0 { s0 with v := 8, count := 1 }) := by
  refine ⟨asked_of (one (.send hp0 s0) 2) (namesObj 2) rfl (by decide +kernel) fun _ _ _ _ _ _ _ h =>
      ⟨_, _, .send _ _ (namesPlace_of (by decide) h).2.1 (.inl rfl) (.inl rfl)⟩,
    asked_of (one (.calle hp0 s0) 2) (namesObj 2) rfl (by decide +kernel) fun _ _ _ _ _ _ _ h =>
      ⟨_, _, .calle _ _ (namesPlace_of (by decide) h).2.1 (.inl rfl) (.inl rfl)⟩,
    asked_of (one (.recv hp0 s0) 2) (namesObj 2) rfl (by decide +kernel) fun _ _ _ _ _ _ _ h =>
      ⟨_, _, .recv _ _ (namesPlace_of (by decide) h).2.1⟩,
    asked_of (one (.nwait hp0 { s0 with v := 8, count := 1 }) 3) (namesObj 3) rfl (by decide +kernel) fun _ _ _ _ _ _ _ h =>
      ⟨_, _, .nwait _ _ (namesPlace_of (by decide) h).2.1⟩,
    asked_of (one (.nsig hp0 { s0 with v := 8, count := 1 }) 3) (namesObj 3) rfl (by decide +kernel) fun _ _ _ _ _ _ _ h =>
      ⟨_, _, .nsig _ _ (namesPlace_of (by decide) h).2.1⟩⟩

/-- k2 is a capability of package 1. -/
def away (i : Instr) : State :=
  onThreads (fun t => { t with k := t.k.set 2 ⟨{ objCap 2 with otype := 0x20001 }, false⟩ }) (one i 2)
def isAway (_ : State) (l : Lane) : Bool :=
  decide ((l.cap (2#4)).valid = true ∧ (l.cap (2#4)).remote = true ∧ (l.cap (2#4)).has pINVOKE = true)
theorem witness_MessagesAway : Asked (.send hp0 s0) ∧ Asked (.calle hp0 s0) := by
  refine ⟨asked_of (away (.send hp0 s0)) isAway rfl (by decide +kernel) fun _ _ _ _ _ _ _ h => ?_,
    asked_of (away (.calle hp0 s0)) isAway rfl (by decide +kernel) fun _ _ _ _ _ _ _ h => ?_⟩ <;>
    obtain ⟨h1, h2, h3⟩ := of_decide_eq_true h
  · exact ⟨_, _, .sendAway _ _ h1 h2 h3 (.inl rfl) (.inl rfl)⟩
  · exact ⟨_, _, .calleAway _ _ h1 h2 h3 (.inl rfl) (.inl rfl)⟩

def replyWord : SBody := { s0 with ek := 0 }
/-- Thread 0 owes a reply: to thread 1, whose call waits, or to a hart. -/
def owes (p : Party) (i : Instr) : State :=
  { onThreads (fun t => { t with slot := some p }) (one i 2) with
    reqs := [{ req0 with who := .thread 0 1, op := .awaitReply 0 15 15, phase := .waiting }] }
def owesTo (p : Party) (o : Option Nat) (u : State) (l : Lane) : Bool :=
  match u.wg? l.w.id with
  | some w => (match w.thread? l.tid with | some th => decide (th.slot = some p ∧ u.callEndpoint p = o) | none => false)
  | none => false
theorem owesTo_spec {p : Party} {o : Option Nat} {u : State} {l : Lane} (h : owesTo p o u l = true) :
    ∃ w th, u.wg? l.w.id = some w ∧ w.thread? l.tid = some th ∧ th.slot = some p ∧ u.callEndpoint p = o := by
  unfold owesTo at h
  split at h
  · split at h
    · exact ⟨_, _, ‹_›, ‹_›, of_decide_eq_true h⟩
    · cases h
  · cases h
theorem witness_Reply : Asked (.reply hp0 replyWord) :=
  asked_of (owes (.thread 0 1) (.reply hp0 replyWord)) (owesTo (.thread 0 1) (some 0x10000)) rfl (by decide +kernel) fun _ _ _ _ _ _ _ h =>
    let ⟨w, th, hw, ht, hs, ho⟩ := owesTo_spec h; ⟨_, _, .reply _ _ w th _ _ hw ht hs ho (.inl rfl) (.inl rfl)⟩
theorem witness_ReplyAway : Asked (.reply hp0 replyWord) :=
  asked_of (owes (.hart 3) (.reply hp0 replyWord)) (owesTo (.hart 3) none) rfl (by decide +kernel) fun _ _ _ _ _ _ _ h =>
    let ⟨w, th, hw, ht, hs, ho⟩ := owesTo_spec h; ⟨_, _, .replyAway _ _ w th _ hw ht hs ho (.inl rfl) (.inl rfl)⟩

def launchWord : KBody := ⟨0, 2, 1, 0, 0, 0⟩
theorem witness_Launch : Asked (.launch hp0 launchWord) := by
  refine asked_of (one (.launch hp0 launchWord) 7) (fun u l => namesObj 7 u l && (l.cap (1#4)).has pLOADK
    && passes (checkAccess u l.w.seat (l.cap (1#4)) 1 (l.cap (1#4)).cursor.toNat { perms := [pLOAD], n := 256, align := 64 })) rfl
    (by decide +kernel) fun u l _ _ _ _ _ h => ?_
  simp only [Bool.and_eq_true] at h
  obtain ⟨v, p, hp⟩ := passes_spec h.2
  exact ⟨_, _, .launch _ _ v p (namesPlace_of (by decide) h.1.1).2.1 hp h.1.2⟩

/-- SPAWN of the range from v2 to v3 with one operand word, and of the empty range of v8 and v9 with none. -/
def spawnWord : KBody := ⟨0, 2, 1, 2, 0, 1⟩
def spawnNone : KBody := ⟨0, 2, 0, 8, 0, 0⟩
def rangeTasks (i : Instr) : State := onLaunch (fun l => { l with flags := 2 }) (one i 1)
def spawnB (u : State) (l : Lane) : Bool :=
  (match u.launch? l.w.launch with | some la => la.flags.getLsbD 1 | none => false)
    && decide ((l.cap (2#4)).valid = true ∧ (l.cap (2#4)).remote = false ∧ (l.cap (2#4)).otype = 1 ∧ (l.cap (2#4)).has pEXEC = true)
theorem spawnB_spec {u : State} {l : Lane} (h : spawnB u l = true) : ∃ la, u.launch? l.w.launch = some la ∧ la.flags.getLsbD 1 = true
    ∧ (l.cap (2#4)).valid = true ∧ (l.cap (2#4)).remote = false ∧ (l.cap (2#4)).otype = 1 ∧ (l.cap (2#4)).has pEXEC = true := by
  unfold spawnB at h
  rw [Bool.and_eq_true, decide_eq_true_eq] at h
  obtain ⟨h, h'⟩ := h
  split at h
  · exact ⟨_, ‹_›, h, h'⟩
  · cases h
theorem witness_Spawn : Asked (.spawn hp0 spawnWord) ∧ Asked (.spawn hp0 spawnNone) := by
  refine ⟨asked_of (onThreads (fun t => { t with v := t.v.set 3 ⟨9, false⟩ }) (rangeTasks (.spawn hp0 spawnWord)))
      (fun u l => spawnB u l && decide ((l.regN 2).toNat < (l.regN 3).toNat)
      && passes (checkAccess u l.w.seat (l.cap (1#4)) 1 (l.cap (1#4)).cursor.toNat { perms := [pLOAD], n := 8, align := 8, need := { fe := true } }))
      rfl (by decide +kernel) fun u l _ _ _ _ _ h => ?_,
    asked_of (rangeTasks (.spawn hp0 spawnNone)) (fun u l => spawnB u l && decide ((l.regN 8).toNat = (l.regN 9).toNat)) rfl
      (by decide +kernel) fun u l _ _ _ _ _ h => ?_⟩
  · simp only [Bool.and_eq_true, decide_eq_true_eq] at h
    obtain ⟨la, h1, h2, h3, h4, h5, h6⟩ := spawnB_spec h.1.1
    obtain ⟨v, p, hp⟩ := passes_spec h.2
    exact ⟨_, _, .spawn _ _ la v p.pas h1 h2 h3 h4 h5 h6 (.inr ⟨by decide, p, rfl, hp⟩) h.1.2⟩
  · simp only [Bool.and_eq_true, decide_eq_true_eq] at h
    obtain ⟨la, h1, h2, h3, h4, h5, h6⟩ := spawnB_spec h.1
    exact ⟨_, _, .spawnNothing _ _ la u [] h1 h2 h3 h4 h5 h6 (.inl ⟨by decide, rfl, rfl⟩) h.2⟩

def giveWord : IBody := ⟨0, 0, 0x108, 0⟩
theorem witness_Budget : Asked (.reggive hp0 giveWord) ∧ Asked (.regclaim hp0 giveWord) := by
  refine ⟨asked_of (one (.reggive hp0 giveWord) 1) (fun u l => decide (1 ≠ l.w.role (l.tid / l.w.w) ∧ 8 + 8 ≤ u.budgetOf l)) rfl
      (by decide +kernel) fun u l _ _ _ _ _ h => ?_,
    asked_of (onThreads (fun t => { t with v := t.v.take 184 }) (one (.regclaim hp0 giveWord) 1))
      (fun u l => decide (1 ≠ l.w.role (l.tid / l.w.w) ∧ u.budgetOf l + 8 ≤ 192)) rfl
      (by decide +kernel) fun u l _ _ _ _ _ h => ?_⟩ <;> obtain ⟨h1, h2⟩ := of_decide_eq_true h
  · exact ⟨_, _, .reggive _ _ h1 h2⟩
  · exact ⟨_, _, .regclaim _ _ h1 h2⟩

/-- A prologue of a launch with a schedule, and of one without. -/
def inPrologue (f : Launch → Launch) (i : Instr) : State := onLaunch f (onWgs (fun w => { w with prologue := true }) (one i 1))
def inPrologueB (p : Launch → Bool) (u : State) (l : Lane) : Bool :=
  l.w.prologue && (match u.launch? l.w.launch with | some la => p la | none => false)
theorem inPrologueB_spec {p : Launch → Bool} {u : State} {l : Lane} (h : inPrologueB p u l = true) :
    l.w.prologue = true ∧ ∃ la, u.launch? l.w.launch = some la ∧ p la = true := by
  unfold inPrologueB at h
  rw [Bool.and_eq_true] at h
  obtain ⟨h1, h⟩ := h
  split at h
  · exact ⟨h1, _, ‹_›, h⟩
  · cases h
def dimWord : IBody := ⟨0, 2, 0, 0⟩
theorem witness_Prologue : Asked (.pdim hp0 { dimWord with imm := 3 }) ∧ Asked (.pdim hp0 dimWord) ∧ Asked (.prepeat hp0 z0) := by
  refine ⟨asked_of (inPrologue (fun l => { l with schedule := objCap 8 }) (.pdim hp0 { dimWord with imm := 3 }))
      (inPrologueB fun la => !la.schedule.isNull) rfl (by decide +kernel) fun _ _ _ _ _ _ _ h =>
        let ⟨h1, la, h2, h3⟩ := inPrologueB_spec h; ⟨_, _, .pdim _ _ la h1 h2 (by simpa using h3)⟩,
    asked_of (inPrologue id (.pdim hp0 dimWord)) (inPrologueB fun la => la.schedule.isNull) rfl (by decide +kernel) fun _ _ _ _ _ _ _ h =>
        let ⟨h1, la, h2, h3⟩ := inPrologueB_spec h; ⟨_, _, .pdimCount _ _ la h1 h2 h3 rfl⟩,
    asked_of (inPrologue id (.prepeat hp0 z0)) (inPrologueB fun _ => true) rfl (by decide +kernel) fun _ _ _ _ _ _ _ h =>
        let ⟨h1, la, h2, _⟩ := inPrologueB_spec h; ⟨_, _, .prepeat _ _ la h1 h2⟩⟩

/-! Acting once. -/

/-- Some lane of the group passes a check, its first. -/
def firstLane (s : State) (i : Instr) (h : Head) (p : Lane → Bool) (w : Workgroup) (g : Group) : Bool :=
  match s.issueLanes w g i h with
  | l :: _ => p l
  | [] => false

theorem firstLane_spec {s : State} {i : Instr} {h : Head} {p : Lane → Bool} {w : Workgroup} {g : Group}
    (hb : firstLane s i h p w g = true) : ∃ l r, s.issueLanes w g i h = l :: r ∧ p l = true := by
  unfold firstLane at hb
  split at hb
  · exact ⟨_, _, ‹_›, hb⟩
  · cases hb

def tstatWord : RBody := { r0 with a := 3, b := 0, c := 0 }
def tdefWord : RBody := { r0 with d := 3, a := 4, b := 2, c := 0, variant := 0 }

theorem witness_TileTstat : ∃ i h s w g l s1 ws, Issues s i h w g ∧ (s.issueLanes w g i h).head? = some l
    ∧ TileActs (s.issuedBy w g i h) l i h s1 ws := by
  obtain ⟨w, g, h, hl⟩ := issues_with (s := ready (.tstat h0 tstatWord) 1) (i := .tstat h0 tstatWord) (h := h0)
    (p := firstLane (ready (.tstat h0 tstatWord) 1) (.tstat h0 tstatWord) h0 fun _ => true) (by decide +kernel)
  obtain ⟨l, r, hl, -⟩ := firstLane_spec hl
  exact ⟨_, _, _, w, g, l, _, _, h, by rw [hl]; rfl, .tstat _ _⟩

/-- The shape of 5 rows and 1 column in v2, for TDEF; the offset in v4 is 0. -/
def shaped (s : State) : State :=
  { s with wgs := s.wgs.map fun w => { w with threads := w.threads.map fun t => { t with v := t.v.set 2 ⟨0x10005, false⟩ } } }

theorem witness_TileTdef : ∃ s w g l s1 ws, Issues s (.tdef h0 tdefWord) h0 w g
    ∧ (s.issueLanes w g (.tdef h0 tdefWord) h0).head? = some l ∧ TileActs (s.issuedBy w g (.tdef h0 tdefWord) h0) l (.tdef h0 tdefWord) h0 s1 ws := by
  obtain ⟨w, g, h, hl⟩ := issues_with (s := shaped (ready (.tdef h0 tdefWord) 1)) (i := .tdef h0 tdefWord) (h := h0)
    (p := firstLane (shaped (ready (.tdef h0 tdefWord) 1)) (.tdef h0 tdefWord) h0 fun l =>
      decide ((l.reg 4).toNat = 0 ∧ (l.reg 2).toNat % 65536 = 5 ∧ (l.reg 2).toNat / 65536 = 1 ∧ l.w.scrLen = 0x1000
        ∧ (l.w.reg l.tid 4).poison = false ∧ (l.w.reg l.tid 2).poison = false ∧ tState (l.w.tile 3) = tEMPTY)) (by decide +kernel)
  obtain ⟨l, r, hl, hp⟩ := firstLane_spec hl
  obtain ⟨h1, h2, h3, h4, h5, h6, h7⟩ := of_decide_eq_true hp
  refine ⟨_, w, g, l, _, _, h, by rw [hl]; rfl, .tdef _ _ 0 5 1 h1 h2 h3 ⟨h5, h6⟩ (.inl h7) ?_⟩
  rw [h4]
  decide

def trelWord : RBody := { r0 with d := 0, a := 3, b := 0, c := 0 }
def withTile (e : DWord) (s : State) : State := { s with wgs := s.wgs.map fun w => { w with tiles := w.tiles.set 3 e } }
def readyTile : DWord := tdefEntry 0 5 1 0 0

/-- TREL of a READY and of an EMPTY tile. -/
theorem witness_TileTrel : ∀ e, e = readyTile ∨ e = 0 → ∃ s w g l s1 ws, Issues s (.trel h0 trelWord) h0 w g
    ∧ (s.issueLanes w g (.trel h0 trelWord) h0).head? = some l ∧ l.w.tile 3 = e
    ∧ TileActs (s.issuedBy w g (.trel h0 trelWord) h0) l (.trel h0 trelWord) h0 s1 ws := by
  rintro e (rfl | rfl)
  · obtain ⟨w, g, h, hl⟩ := issues_with (s := withTile readyTile (ready (.trel h0 trelWord) 1)) (i := .trel h0 trelWord) (h := h0)
      (p := firstLane (withTile readyTile (ready (.trel h0 trelWord) 1)) (.trel h0 trelWord) h0 fun l => decide (l.w.tile 3 = readyTile))
      (by decide +kernel)
    obtain ⟨l, r, hl, hp⟩ := firstLane_spec hl
    have hp := of_decide_eq_true hp
    exact ⟨_, w, g, l, _, _, h, by rw [hl]; rfl, hp, .trelReady _ _ (by show tState (l.w.tile 3) = _; rw [hp]; decide)⟩
  · obtain ⟨w, g, h, hl⟩ := issues_with (s := ready (.trel h0 trelWord) 1) (i := .trel h0 trelWord) (h := h0)
      (p := firstLane (ready (.trel h0 trelWord) 1) (.trel h0 trelWord) h0 fun l => decide (l.w.tile 3 = 0)) (by decide +kernel)
    obtain ⟨l, r, hl, hp⟩ := firstLane_spec hl
    have hp := of_decide_eq_true hp
    exact ⟨_, w, g, l, _, _, h, by rw [hl]; rfl, hp, .trelOther _ _ (.inl (by show tState (l.w.tile 3) = _; rw [hp]; decide))⟩

/-- Gang 3 of no groups, the last of the gang registers. -/
def gangWord : IBody := ⟨0, 0, 0x30000, 0⟩
theorem witness_TileGang : ∃ s w g l s1 ws, Issues s (.gang h0 gangWord) h0 w g
    ∧ (s.issueLanes w g (.gang h0 gangWord) h0).head? = some l ∧ TileActs (s.issuedBy w g (.gang h0 gangWord) h0) l (.gang h0 gangWord) h0 s1 ws := by
  obtain ⟨w, g, h, hl⟩ := issues_with (s := ready (.gang h0 gangWord) 1) (i := .gang h0 gangWord) (h := h0)
    (p := firstLane (ready (.gang h0 gangWord) 1) (.gang h0 gangWord) h0 fun l => decide ((l.w.latch 3).arrivals = [])) (by decide +kernel)
  obtain ⟨l, r, hl, hp⟩ := firstLane_spec hl
  exact ⟨_, w, g, l, _, _, h, by rw [hl]; rfl, .gang _ _ (of_decide_eq_true hp)⟩

def mayArriveB (s : State) (gang : Nat) (n : GangNeeds) (w : Workgroup) (l : Lane) : Bool :=
  s.alive (.thread w.id l.tid) && (gang == 0 || (w.gangGroups gang).contains (l.tid / w.w))
    && (gang == 0 || (w.gangGroups gang).all fun h => decide (w.liveOf h ≠ []))
    && n.tk.all (fun k => namesB s (l.cap k) 9)
    && (n.count == 0 || (match w.thread? l.tid with | some th => decide (n.first + n.count ≤ 0xC0 ∧ n.first + n.count ≤ th.v.length) | none => false))
    && (List.range n.count).all fun j => !(l.w.reg l.tid (n.first + j)).poison
theorem mayArrive_of {s : State} {gang : Nat} {n : GangNeeds} {w : Workgroup} {l : Lane} (h : mayArriveB s gang n w l = true) :
    ∀ p : Prop, MayArrive s w gang n l p := by
  intro p
  simp only [mayArriveB, Bool.and_eq_true, Bool.or_eq_true, beq_iff_eq, List.all_eq_true, decide_eq_true_eq, List.contains_eq_mem,
    Bool.not_eq_true', List.mem_range, Option.all_eq_true] at h
  obtain ⟨⟨⟨⟨⟨h1, h2⟩, h3⟩, h4⟩, h5⟩, h6⟩ := h
  refine ⟨h1, h2.resolve_left, h3.resolve_left, fun k hk => names_of (h4 k hk), fun hn => ?_, fun _ => h6⟩
  rcases h5 with h5 | h5
  · exact absurd h5 hn
  · split at h5
    · rename_i hth
      exact .inr ⟨(of_decide_eq_true h5).1, fun th e => by rw [hth] at e; cases e; exact (of_decide_eq_true h5).2⟩
    · cases h5

/-- ACLR by the issuing group alone; a COPY of the tensor in k2 by gang 1, which lists groups 0 and 1, of which 1 has still to
arrive. -/
def aclrWord : XBody := ⟨0, 8, 0, 0, 0, 0, 0, 0⟩
def copyWord : XBody := ⟨1, 4, 0, 0, 2, 0, 0, 0⟩
def twoGroups : State :=
  onWgs (fun w => { w with gangs := w.gangs.set 0 3, g := 2, threads := w.threads ++ w.threads.map fun t => { t with tid := t.tid + 8 } })
    (ready (.copy h0 copyWord) 9)
def arrivesB (s : State) (gang : Nat) (n : GangNeeds) (i : Instr) (w : Workgroup) (g : Group) : Bool :=
  (s.issueLanes w g i h0).all (mayArriveB s gang n w) && decide (w.life ≠ .retired ∧ ∀ x ∈ w.latches, x.gang < 256 + s.nextId)
    && s.reqs.all fun q => decide (q.id < s.nextId ∧ q.batch < s.nextId)
theorem arrives_of {s : State} {gang : Nat} {n : GangNeeds} {i : Instr} {w : Workgroup} {g : Group} (h : arrivesB s gang n i w g = true) :
    FreshNames s ∧ w.life ≠ .retired ∧ (∀ x ∈ w.latches, x.gang < 256 + s.nextId)
      ∧ ∀ x ∈ (s.issueLanes w g i h0).zipIdx, MayArrive s w gang n x.1 (x.2 = 0) := by
  simp only [arrivesB, Bool.and_eq_true, List.all_eq_true, decide_eq_true_eq] at h
  exact ⟨h.2, h.1.2.1, h.1.2.2, fun x hx => mayArrive_of (h.1.1 x.1 (List.fst_mem_of_mem_zipIdx hx)) _⟩
theorem witness_Gang :
    (∃ word w g, encodeWord (.aclr h0 aclrWord) = some word ∧ Issues (ready (.aclr h0 aclrWord) 2) (.aclr h0 aclrWord) h0 w g
      ∧ FreshNames (ready (.aclr h0 aclrWord) 2) ∧ w.life ≠ .retired
      ∧ (∀ x ∈ w.latches, x.gang < 256 + (ready (.aclr h0 aclrWord) 2).nextId)
      ∧ ∀ x ∈ ((ready (.aclr h0 aclrWord) 2).issueLanes w g (.aclr h0 aclrWord) h0).zipIdx,
        MayArrive (ready (.aclr h0 aclrWord) 2) w 0 ⟨none, 0, 0⟩ x.1 (x.2 = 0))
    ∧ ∃ word w g, encodeWord (.copy h0 copyWord) = some word ∧ Issues twoGroups (.copy h0 copyWord) h0 w g ∧ FreshNames twoGroups
      ∧ w.life ≠ .retired ∧ (∀ x ∈ w.latches, x.gang < 256 + twoGroups.nextId)
      ∧ (∀ x ∈ (twoGroups.issueLanes w g (.copy h0 copyWord) h0).zipIdx, MayArrive twoGroups w 1 ⟨some 2, 4, 4⟩ x.1 (x.2 = 0))
      ∧ (1 : Nat) ∈ w.gangGroups 1 ∧ twoGroups.tableUse (dieOfCore w.core % 4) < 32768 := by
  obtain ⟨w, g, h, hp⟩ := issues_with (s := ready (.aclr h0 aclrWord) 2) (i := .aclr h0 aclrWord) (h := h0)
    (p := arrivesB (ready (.aclr h0 aclrWord) 2) 0 ⟨none, 0, 0⟩ (.aclr h0 aclrWord)) (by decide +kernel)
  obtain ⟨w', g', h', hp'⟩ := issues_with (s := twoGroups) (i := .copy h0 copyWord) (h := h0)
    (p := fun w g => arrivesB twoGroups 1 ⟨some 2, 4, 4⟩ (.copy h0 copyWord) w g
      && decide (1 ∈ w.gangGroups 1 ∧ twoGroups.tableUse (dieOfCore w.core % 4) < 32768)) (by decide +kernel)
  rw [Bool.and_eq_true] at hp'
  obtain ⟨x, hx⟩ := Option.isSome_iff_exists.mp (show (encodeWord (.aclr h0 aclrWord)).isSome = true by decide +kernel)
  obtain ⟨y, hy⟩ := Option.isSome_iff_exists.mp (show (encodeWord (.copy h0 copyWord)).isSome = true by decide +kernel)
  exact ⟨⟨x, w, g, hx, h, arrives_of hp⟩, y, w', g', hy, h', (arrives_of hp'.1).1, (arrives_of hp'.1).2.1, (arrives_of hp'.1).2.2.1,
    (arrives_of hp'.1).2.2.2,    of_decide_eq_true hp'.2⟩

/-! Schedules. -/

def schrdWord : KBody := ⟨0, 2, 0, 8, 0, 0⟩
def onceB (r : OnceRow) (i : Instr) (s : State) (w : Workgroup) (g : Group) : Bool :=
  firstLane s i r.h (fun l => decide (r.use.find? l.poisoned = none) && (l.cap r.k).valid && !(l.cap r.k).remote
    && decide ((l.cap r.k).otype = 8) && (l.cap r.k).has pINVOKE && r.need.all (l.cap r.k).has && s.objLive (l.cap r.k).objPa 8) w g
  && (match ((s.issuedBy w g i r.h).wg? w.id).bind fun x => x.group? g.id with | some gb => !r.safe || gb.blk.safe | none => false)

theorem witness_Schedule : (match scheduleRow (.schrd h0 schrdWord) with
    | some r => withGroup (ready (.schrd h0 schrdWord) 8) fun w g =>
      issuesB (ready (.schrd h0 schrdWord) 8) (.schrd h0 schrdWord) r.h w g && onceB r (.schrd h0 schrdWord) (ready (.schrd h0 schrdWord) 8) w g
    | none => false) = true := by decide +kernel

/-- An asynchronous PCLAIM of the schedule in k2 with its mailbox in the workgroup's own scratchpad, named by k1. -/
def claimWord : MBody := ⟨1, 2, 0xFF, 0, 0, 0, 0, 0, 1⟩
def claimState : State :=
  let s := ready (.pclaim h0 claimWord) 8
  { s with wgs := s.wgs.map fun w => { w with threads := w.threads.map fun t => { t with k := t.k.set 1 ⟨Cap.make scratchBase 0x1000 0xBFF 0, false⟩ } } }

theorem witness_AsyncClaim : withGroup claimState (fun w g =>
    issuesB claimState (.pclaim h0 claimWord) h0 w g && decide (claimState.asyncClaims w.id < 4)
      && firstLane claimState (.pclaim h0 claimWord) h0 (fun l => !l.poisoned (.k 2) && !l.poisoned (.k 1) && (l.cap (2#4)).valid
        && decide ((l.cap (2#4)).otype = 8) && (l.cap (2#4)).has pINVOKE && claimState.objLive (l.cap (2#4)).objPa 8
        && (match checkAccess (claimState.issuedBy w g (.pclaim h0 claimWord) h0).newId.2.newId.2 l.w.seat (l.cap (1#4)) 1
            ((l.cap (1#4)).cursor.toNat : Int) { perms := [pSTORE], n := 24, align := 32, need := { w := true, fe := true } } with
          | (_, .ok _) => true
          | _ => false)) w g
      && (match ((claimState.issuedBy w g (.pclaim h0 claimWord) h0).wg? w.id).bind fun x => x.group? g.id with
        | some gb => gb.blk.safe
        | none => false)) = true := by decide +kernel

/-! Transfers. -/

def movesB (f : Lane → Option Move) (i : Instr) (h : Head) (s : State) (p : List Move → Bool) (w : Workgroup) (g : Group) : Bool :=
  (s.issueLanes w g i h).all (fun l => (goes h g.pc f l).isSome) && p ((s.issueLanes w g i h).filterMap (goes h g.pc f))

theorem movesB_spec {f : Lane → Option Move} {i : Instr} {h : Head} {s : State} {p : List Move → Bool} {w : Workgroup} {g : Group}
    (hb : movesB f i h s p w g = true) :
    ∃ ms, (s.issueLanes w g i h).map (goes h g.pc f) = ms.map some ∧ p ms = true := by
  rw [movesB, Bool.and_eq_true, List.all_eq_true] at hb
  refine ⟨_, ?_, hb.2⟩
  have key : ∀ ls : List Lane, (∀ l ∈ ls, (goes h g.pc f l).isSome = true) →
      ls.map (goes h g.pc f) = (ls.filterMap (goes h g.pc f)).map some := by
    intro ls
    induction ls with
    | nil => intro _; rfl
    | cons l r ih =>
      intro hl
      obtain ⟨m, hm⟩ := Option.isSome_iff_exists.mp (hl l (.head _))
      rw [List.map_cons, List.filterMap_cons_some hm, List.map_cons, ih fun x hx => hl x (.tail _ hx), hm]
  exact key _ hb.1

def sameDest (ms : List Move) : Bool := ms.all fun m => ms.all fun m' => decide (m.dest = m'.dest)
def braWord : BBody := ⟨4, 0, 0, 0⟩
theorem witness_TransferWhole : ∃ i h f ms s w g, transferRow g.pc i = some (h, f) ∧ Issues s i h w g
    ∧ (s.issueLanes w g i h).map (goes h g.pc f) = ms.map some ∧ StaysWhole w i ms := by
  obtain ⟨w, g, h, hp⟩ := issues_with (s := ready (.bra h0 braWord) 1) (i := .bra h0 braWord) (h := h0)
    (p := fun w g => movesB (fun l => some (moved l (spanAfter g.pc 4) [] true)) (.bra h0 braWord) h0 (ready (.bra h0 braWord) 1) sameDest w g)
    (by decide +kernel)
  obtain ⟨ms, hm, hd⟩ := movesB_spec hp
  refine ⟨_, _, _, ms, _, w, g, rfl, h, hm, ?_, by intro h; cases h⟩
  simpa [sameDest] using hd

theorem witness_TransferApart : ∃ i h f ms s w g, transferRow g.pc i = some (h, f) ∧ Issues s i h w g
    ∧ (s.issueLanes w g i h).map (goes h g.pc f) = ms.map some ∧ ¬StaysWhole w i ms := by
  obtain ⟨w, g, h, hp⟩ := issues_with (s := split0 (ready (.br hp0 braWord) 1)) (i := .br hp0 braWord) (h := hp0)
    (p := fun w g => movesB (fun l => some (moved l (spanAfter g.pc 4) [] true)) (.br hp0 braWord) hp0 (split0 (ready (.br hp0 braWord) 1))
      (fun ms => !sameDest ms) w g) (by decide +kernel)
  obtain ⟨ms, hm, hd⟩ := movesB_spec hp
  refine ⟨_, _, _, ms, _, w, g, rfl, h, hm, fun hw => ?_⟩
  have : sameDest ms = true := by simpa [sameDest] using hw.1
  rw [this] at hd
  cases hd

/-! Control. -/

def trapWord : IBody := ⟨0, 0, 7, 0⟩
def issuesAt (s : State) (i : Instr) : Bool := withGroup s fun w g => issuesB s i h0 w g

theorem witness_Control : issuesAt (ready (.nop h0 z0) 1) (.nop h0 z0) = true ∧ issuesAt (ready (.exit h0 z0) 1) (.exit h0 z0) = true
    ∧ issuesAt (ready (.trap h0 trapWord) 1) (.trap h0 trapWord) = true ∧ issuesAt (ready (.brk h0 trapWord) 1) (.brk h0 trapWord) = true
    ∧ issuesAt (ready (.yield h0 z0) 1) (.yield h0 z0) = true := by decide +kernel
theorem witness_Unassigned : withGroup (ready (.unassignedOpcode 0x3FF h0 0) 1) (fun w g =>
    (ready (.unassignedOpcode 0x3FF h0 0) 1).groupReady w g (.unassignedOpcode 0x3FF h0 0) h0 false
      && !((ready (.unassignedOpcode 0x3FF h0 0) 1).issueLanes w g (.unassignedOpcode 0x3FF h0 0) h0).isEmpty) = true := by decide +kernel
theorem test_exit_retires : ran (exec (.exit h0 z0) (ready (.exit h0 z0) 1)) (fun t => t.wgs.isEmpty) = true := by decide +kernel
theorem test_unassigned_ends : ran (exec (.unassignedOpcode 0x3FF h0 0) (ready (.unassignedOpcode 0x3FF h0 0) 1))
    (fun t => t.wgs.isEmpty) = true := by decide +kernel

/-- PCANCEL by the one thread of a prologue. -/
def prologue0 : State :=
  let s := ready (.pcancel h0 z0) 1
  { s with launches := [{ launch0 with state := .prologue }], wgs := s.wgs.map fun w => { w with prologue := true, launch := 3 } }
theorem witness_Pcancel : withGroup prologue0 (fun w g => issuesB prologue0 (.pcancel h0 z0) h0 w g
    && firstLane prologue0 (.pcancel h0 z0) h0 (fun l => l.w.prologue && (prologue0.launch? l.w.launch).isSome) w g) = true := by
  decide +kernel

/-- EXIT of the last live threads of a workgroup; TRAP of threads whose k6 names an endpoint; TRAP in a prologue; a word of
RED.xchg. -/
theorem witness_Ending : withGroup (ready (.exit h0 z0) 1) (fun w g =>
    let s := ready (.exit h0 z0) 1
    let lanes := s.issueLanes w g (.exit h0 z0) h0
    s.hallEvents.isEmpty && w.latches.isEmpty && decide (lanes.length ≤ 64)
      && lanes.all (fun l => (w.thread? l.tid).any fun th => th.status != .ended && th.slot.isNone)
      && w.life == .running && w.threads.all (fun th => !th.live || lanes.any fun l => l.tid == th.tid) && !s.swapPending w && s.drained w
      && s.bins.all fun b => b.wg != w.id) = true := by decide +kernel
def reporting : State := onThreads (fun t => { t with k := t.k.set 6 ⟨objCap 2, false⟩ }) (ready (.trap h0 trapWord) 2)
theorem witness_Reporting : withGroup reporting (fun w g =>
    let lanes := reporting.issueLanes w g (.trap h0 trapWord) h0
    issuesB reporting (.trap h0 trapWord) h0 w g && !w.prologue && reporting.hallEvents.isEmpty && decide (lanes.length ≤ 64)
      && lanes.all (fun l => (w.thread? l.tid).any (fun th => th.status != .ended) && namesB reporting (w.kreg l.tid 6).cap 2
        && (w.kreg l.tid 6).cap.objPa == 0x10000)
      && (reporting.epReceivers 0x10000).isEmpty && reporting.peek 0x10018 8 == 0
      && decide (reporting.tableUse (dieOfCore w.core % 4) + 64 ≤ 32768)) = true := by decide +kernel
def prologueTrap : State := onLaunch (fun l => { l with state := .prologue }) (onWgs (fun w => { w with prologue := true }) (one (.trap hp0 trapWord) 1))
theorem witness_PrologueTrap : withGroup prologueTrap (fun w g => issuesB prologueTrap (.trap hp0 trapWord) hp0 w g && w.prologue
    && (prologueTrap.issueLanes w g (.trap hp0 trapWord) hp0).any (fun l => (w.thread? l.tid).any fun th => th.status != .ended)
    && (prologueTrap.launch? w.launch).isSome) = true := by decide +kernel
theorem witness_Refused : withGroup (ready (.unassignedOpcode 0x127 h0 m0.bits) 1) (fun w g =>
    (ready (.unassignedOpcode 0x127 h0 m0.bits) 1).groupReady w g (.unassignedOpcode 0x127 h0 m0.bits) h0 false
      && !((ready (.unassignedOpcode 0x127 h0 m0.bits) 1).issueLanes w g (.unassignedOpcode 0x127 h0 m0.bits) h0).isEmpty) = true
    ∧ h0.talloc ≠ 7 ∧ m0.size.toNat < 5 ∧ m0.scope.toNat < 5 ∧ (m0.order = 0 → m0.scope = 0) ∧ m0.variant = 0 := by decide +kernel

theorem witness_FaultHolds : (match (ready (.nop h0 z0) 1).wgs with
    | [w] => (match w.thread? 7 with | some th => decide (th.status ≠ .ended) | none => false) && !w.prologue
    | _ => false) = true ∧ (illegalOp 1).code ≠ cTEARDOWN := by decide +kernel

/-! Requests. -/

def base0 : State := { ready (.nop h0 z0) 1 with cur := .none, nextId := 100 }
/-- The workgroup of eight threads, with these requests, and the operand `who` naming request 50. -/
def withReqs (rs : List Request) : State := { base0 with reqs := rs, ev := { Operands.zero with who := 50 } }
/-- The number of the workgroup. -/
def wg0 : Nat := (base0.wgs.map Workgroup.id).headD 0

theorem reset_canonical : Canonical State.reset := canonical_of (by decide +kernel)

/-- No LOCK or MWAIT looks. -/
def noPollsB (s : State) : Bool := s.reqs.all fun q => match q.op with
  | .lock | .monitor .. => q.phase != .waiting && q.phase != .registering
  | _ => true
theorem noPolls_of {s : State} (h : noPollsB s = true) : NoPolls s := by
  intro q hq hp
  have := List.all_eq_true.mp h q hq
  split at this
  all_goals simp_all
/-- A request of this package. -/
def ours (r : Request) : Bool := match r.who with | .remote .. => false | _ => true
theorem ours_of {r : Request} (h : ours r = true) : ∀ pkg req, r.who ≠ .remote pkg req := by
  intro pkg req e
  simp [ours, e] at h
def atPointB (s : State) (r : Request) : Bool :=
  decide (s.req? s.ev.who = some r) && s.mayPerform r && r.remote.isNone && ours r && (r.obj :: r.pas).all (fun a => !remoteHome (dieOfCore r.core) a)
    && (r.obj :: r.pas).all (fun a => !isOutside [a]) && !r.releases && decide (r.order = 2 → r.scope < 3) && s.hallEvents.isEmpty && noPollsB s
theorem atPoint_of {s : State} {r : Request} (h : atPointB s r = true) : AtPoint s r := by
  simp only [atPointB, Bool.and_eq_true, decide_eq_true_eq, List.all_eq_true, Bool.not_eq_true', List.isEmpty_iff, Option.isNone_iff_eq_none] at h
  obtain ⟨⟨⟨⟨⟨⟨⟨⟨⟨h1, h2⟩, h3⟩, h0⟩, h4⟩, h5⟩, h6⟩, h7⟩, h8⟩, h9⟩ := h
  exact ⟨h1, h2, h3, ours_of h0, h4, h5, h6, h7, h8, noPolls_of h9⟩

def opsServed : List ReqOp :=
  [.load true, .store [(1, false), (2, false), (3, false), (4, false)], .loadCap true, .storeCap dataCap false, .fence true false,
    .atom .add true 1 0 false, .atom .cas false 1 2 true]
theorem witness_AtPoint : ∀ op ∈ opsServed, Canonical (withReqs [{ req0 with op := op }]) ∧ AtPoint (withReqs [{ req0 with op := op }])
    { req0 with op := op } := by
  have h : opsServed.all (fun op => canonicalB (withReqs [{ req0 with op := op }])
    && atPointB (withReqs [{ req0 with op := op }]) { req0 with op := op }) = true := by decide +kernel
  intro op ho
  have := List.all_eq_true.mp h op ho
  rw [Bool.and_eq_true] at this
  exact ⟨canonical_of this.1, atPoint_of this.2⟩
/-- Sixteen bytes of an uncached page, in their first and their second half; and requests that meet poison. -/
def req16 (op : ReqOp) (ph : Phase) : Request :=
  { req0 with op := op, phase := ph, size := 16, io := true, pas := (List.range 16).map (0x10000 + ·) }
def halfBytes : List (Byte × Bool) := List.replicate 8 (3, false)
def meetsPoison : List Request := [{ req0 with op := .load false, io := true }, req16 (.load false) .sent,
  { req0 with op := .loadCap true, order := 2 }]
theorem witness_Halves : (∀ r ∈ [req16 (.load false) .sent, req16 (.load false) (.half halfBytes), req16 (.store (List.replicate 16 (7, false))) .sent,
      req16 (.store (List.replicate 16 (7, false))) (.half [])], Canonical (withReqs [r]) ∧ AtPoint (withReqs [r]) r ∧ inHalves r)
    ∧ ∀ r ∈ meetsPoison, Canonical { withReqs [r] with poison := [0x1000] } ∧ AtPoint { withReqs [r] with poison := [0x1000] } r ∧ strongAccess r
      ∧ ∀ a ∈ r.obj :: r.pas, ({ withReqs [r] with poison := [0x1000] } : State).poisonAt a = true := by
  have h : [req16 (.load false) .sent, req16 (.load false) (.half halfBytes), req16 (.store (List.replicate 16 (7, false))) .sent,
      req16 (.store (List.replicate 16 (7, false))) (.half [])].all (fun r => canonicalB (withReqs [r]) && atPointB (withReqs [r]) r
        && decide ((r.order ≠ 0 ∨ r.io = true) ∧ r.size = 16)) = true := by decide +kernel
  have h' : meetsPoison.all (fun r => canonicalB { withReqs [r] with poison := [0x1000] } && atPointB { withReqs [r] with poison := [0x1000] } r
      && decide (r.order ≠ 0 ∨ r.io = true) && (r.obj :: r.pas).all fun a => ({ withReqs [r] with poison := [0x1000] } : State).poisonAt a)
      = true := by decide +kernel
  refine ⟨fun r hr => ?_, fun r hr => ?_⟩
  · have := List.all_eq_true.mp h r hr
    simp only [Bool.and_eq_true, decide_eq_true_eq] at this
    exact ⟨canonical_of this.1.1, atPoint_of this.1.2, this.2⟩
  · have := List.all_eq_true.mp h' r hr
    simp only [Bool.and_eq_true, decide_eq_true_eq, List.all_eq_true] at this
    exact ⟨canonical_of this.1.1.1, atPoint_of this.1.1.2, this.1.2, this.2⟩
/-- A strong store of sixteen bytes stores the lower eight first (R105). -/
theorem test_half_store : ran (exec .accessAtExecutionPoint (withReqs [req16 (.store (List.replicate 16 (7, false))) .sent]))
    (fun t => t.byteAt 0x10007 == 7 && t.byteAt 0x10008 == 0) = true := by decide +kernel
/-- A strong load that reaches a poisoned granule fails (R257). -/
theorem test_poisoned_load : ran (exec .accessAtExecutionPoint { withReqs [{ req0 with op := .load false, io := true }] with poison := [0x1000] })
    (fun t => t.reqs.all fun r => r.phase == .failed 0x41 0x10000 1 0 0) = true := by decide +kernel
/-- The line at 0x10000 in die 1's cache: all its bytes are there, the first is dirty and holds 0x5A. -/
def copy1 : LineCopy := ⟨1, 0x10000 / 128, 1, 1, 0x5A, 0, 0⟩
def performableB (s : State) (r : Request) : Bool :=
  decide (s.req? s.ev.who = some r) && s.mayPerform r && r.remote.isNone && ours r && (r.obj :: r.pas).all (fun a => !isOutside [a])
    && s.hallEvents.isEmpty && noPollsB s
theorem performable_of {s : State} {r : Request} (h : performableB s r = true) : Performable s r := by
  simp only [performableB, Bool.and_eq_true, decide_eq_true_eq, List.all_eq_true, Bool.not_eq_true', List.isEmpty_iff, Option.isNone_iff_eq_none] at h
  obtain ⟨⟨⟨⟨⟨⟨h1, h2⟩, h3⟩, h0⟩, h5⟩, h6⟩, h7⟩ := h
  exact ⟨h1, h2, h3, ours_of h0, h5, h6, noPolls_of h7⟩
/-- A release at the package's scope with its probes answered, an acquire there, a fence and an atomic, of the line of another
die's home: in its die's cache, that line is dirty. -/
def farReq : Request := { req0 with core := 256, order := 2, scope := 3 }
def farOps : List Request :=
  [{ farReq with op := .load false }, { farReq with op := .store [(1, false), (2, false), (3, false), (4, false)], order := 1, phase := .sent },
    { farReq with op := .fence true false }, { farReq with op := .atom .add true 1 0 false }, { req16 (.load false) .sent with core := 256 },
    { req16 (.load false) (.half halfBytes) with core := 256 }, { req16 (.store (List.replicate 16 (7, false))) (.half []) with core := 256 }]
def farState (r : Request) : State := { withReqs [r] with copies := [copy1] }
theorem witness_Performable : (∀ r ∈ farOps, Canonical (farState r) ∧ Performable (farState r) r)
    ∧ ∀ r ∈ farOps, ∀ a ∈ r.pas, (atHome (farState r) r).poisonAt a = false := by
  have h : farOps.all (fun r => canonicalB (farState r) && performableB (farState r) r
    && r.pas.all fun a => !(atHome (farState r) r).poisonAt a) = true := by decide +kernel
  refine ⟨fun r hr => ?_, fun r hr a ha => ?_⟩ <;>
    have := List.all_eq_true.mp h r hr <;>
    simp only [Bool.and_eq_true, List.all_eq_true, Bool.not_eq_true'] at this
  · exact ⟨canonical_of this.1.1, performable_of this.1.2⟩
  · exact this.2 a ha
/-- A weak load and a weak store of that line, which act on the copy; and an atomic that meets poison. -/
def weakOps : List Request :=
  [{ req0 with core := 256, op := .load false }, { req0 with core := 256, op := .store [(1, false), (2, false), (3, false), (4, false)] }]
theorem witness_WeakCopies : ∀ r ∈ weakOps, Canonical (farState r) ∧ Performable (farState r) r ∧ r.order = 0 ∧ r.strong = false ∧ r.io = false
    ∧ r.phase = .sent ∧ ∀ a ∈ r.pas, remoteHome (dieOfCore r.core) a = true := by
  have h : weakOps.all (fun r => canonicalB (farState r) && performableB (farState r) r && decide (r.order = 0 ∧ r.strong = false ∧ r.io = false
    ∧ r.phase = .sent ∧ ∀ a ∈ r.pas, remoteHome (dieOfCore r.core) a = true)) = true := by decide +kernel
  intro r hr
  have := List.all_eq_true.mp h r hr
  simp only [Bool.and_eq_true, decide_eq_true_eq] at this
  exact ⟨canonical_of this.1.1, performable_of this.1.2, this.2⟩
theorem witness_PoisonedAtomic :
    canonicalB { farState { farReq with op := .atom .add true 1 0 false } with poison := [0x1000] } = true
    ∧ performableB { farState { farReq with op := .atom .add true 1 0 false } with poison := [0x1000] } { farReq with op := .atom .add true 1 0 false } = true
    ∧ (({ farState { farReq with op := .atom .add true 1 0 false } with poison := [0x1000] } : State).releaseFor { farReq with op := .atom .add true 1 0 false }
      |>.beforeStrong 1 farReq.pas).poisonAt 0x10000 = true := by decide +kernel
/-- A weak load of die 1 sees the byte that is dirty in its copy, and memory keeps its own (R99). -/
theorem test_weak_copy : ran (exec .accessAtExecutionPoint (farState { req0 with core := 256, op := .load false }))
    (fun t => t.byteAt 0x10000 == 1 && t.reqs.all fun r => match r.phase with | .done ws _ => ws.any (fun w => w == .v 0 8 0x5A false) | _ => false)
    = true := by decide +kernel
/-- The word that an atomic reads is clean, and holds the object's header. -/
theorem witness_Atomics : (∀ x ∈ req0.pas, (withReqs []).poisonAt x = false) ∧ natOfBytes (req0.pas.map (withReqs []).byteAt) = 1
    ∧ ((32 : Nat) = 32 ∨ (32 : Nat) = 64) ∧ (5 : Nat) < 2 ^ 32 := by decide +kernel
/-- An ATOM .add of 1 to the word, which held 1: the word is 2 after it. -/
theorem test_atom_add : ran (exec .accessAtExecutionPoint (withReqs [{ req0 with op := .atom .add true 1 0 false }]))
    (fun t => t.peek 0x10000 4 == 2 && !t.tagAt 0x10000) = true := by decide +kernel

def reply1 (ph : Phase) : Request := { req0 with phase := ph, who := .thread wg0 0 }
/-- Request 50 of a running workgroup has been answered. -/
theorem witness_Replies : ([Phase.done [.v 0 8 1 false] none, .failed 1 0x10000 0 0 0]).all (fun ph =>
    decide ((withReqs [reply1 ph]).req? (withReqs [reply1 ph]).ev.who = some (reply1 ph))
      && ((withReqs [reply1 ph]).wg? wg0).any (fun w => w.life != .suspended) && !(reply1 ph).faultCall
      && (withReqs [reply1 ph]).reqs.all fun q => !q.undecided) = true := by decide +kernel
/-- The request of a thread that has ended. -/
def endedReply : State := onThreads (fun t => { t with status := .ended }) (withReqs [reply1 (.done [.v 0 8 1 false] none)])
theorem witness_EndedReply : endedReply.req? endedReply.ev.who = some (reply1 (.done [.v 0 8 1 false] none))
    ∧ (endedReply.wg? wg0).any (fun w => w.life != .suspended) = true ∧ endedReply.alive (.thread wg0 0) = false
    ∧ (withReqs [reply1 (.done [] none)]).alive (.thread wg0 0) = true
    ∧ (withReqs [reply1 (.done [] none)]).callerPending (reply1 (.done [] none)) = false := by decide +kernel
theorem test_reply_lands : ran (exec .accessReply (withReqs [{ req0 with phase := .done [.v 0 8 77 false] none, who := .thread wg0 0 }]))
    (fun t => t.reqs.isEmpty && ((t.wg? wg0).any fun w => (w.reg 0 8).val == 77)) = true := by decide +kernel

/-- Thread 0 held at place `p`, whose fault message has been answered with a first value. -/
def reply0 (x : Word) : Request :=
  { req0 with
    who := .thread wg0 0
    faultCall := true
    op := .awaitReply 0 15 15
    phase := .done [] (some ⟨0, [x], none, none, false, .hart 0⟩) }
def heldAt (p : FaultAt) (x : Word) : State :=
  let s := withReqs [reply0 x]
  let held (t : Thread) : Thread := if t.tid = 0 then { t with status := .held ⟨p, 0, 128, true, 1, none, none⟩ } else t
  { s with wgs := s.wgs.map fun w => { w with threads := w.threads.map held } }
theorem witness_FaultReplies : ([FaultAt.instr, .entry, .span, .gang 1]).all (fun p => ([0, 1, 2, 0xFFFFFFFF] : List Word).all fun x =>
    decide ((heldAt p x).req? (heldAt p x).ev.who = some (reply0 x)) && ((heldAt p x).wg? wg0).any (fun w => w.life != .suspended)
      && decide ((heldAt p x).heldFor wg0 0 = some ⟨p, 0, 128, true, 1, none, none⟩)
      && verdict ⟨0, [x], none, none, false, .hart 0⟩ == (if x = 0 then .resume else if x = 1 then .skip else .terminate)) = true := by
  decide +kernel
theorem test_fault_reply_ends : ran (exec .faultReply (heldAt .instr 2)) (fun t =>
    t.reqs.isEmpty && ((t.wg? wg0).any fun w => (w.thread? 0).any fun th => th.status == .ended)) = true := by decide +kernel

/-! Probes, mailboxes and caches. -/

def releasing (cs : List Chan) : Request := { req0 with phase := .releasing cs, order := 3 }
theorem witness_Probe : ∀ cs ∈ [[Chan.scratch 0], [.slice 0 1, .control]], (withReqs [releasing cs]).ev.ok = false
    ∧ (withReqs [releasing cs]).req? (withReqs [releasing cs]).ev.who = some (releasing cs)
    ∧ cs[(withReqs [releasing cs]).ev.arg]? = some (cs.headD .control)
    ∧ ∀ q ∈ (withReqs [releasing cs]).reqs, q.who = (releasing cs).who → q.id < (releasing cs).id → cs.headD .control ∈ q.chans →
      q.unperformed = false := by decide +kernel

/-- The probe of a launch that ends. -/
def probing : State := { withReqs [] with
  launches := [{ launch0 with state := .probing [.slice 0 1, .control] }]
  ev := { Operands.zero with who := 3, ok := true } }
theorem witness_LaunchProbe : probing.ev.ok = true ∧ probing.launch? probing.ev.who = some { launch0 with state := .probing [.slice 0 1, .control] }
    ∧ [Chan.slice 0 1, .control][probing.ev.arg]? = some (.slice 0 1) ∧ probing.reqs = [] := by decide +kernel

def mailReq : Request :=
  { req0 with op := .mailbox [1, 2, 3, 4, 5], obj := 0x20000, pas := (List.range 24).map (0x20000 + ·), phase := .waiting, size := 24 }
theorem witness_Mailbox : canonicalB (withReqs [mailReq]) = true ∧ (withReqs [mailReq]).req? (withReqs [mailReq]).ev.who = some mailReq
    ∧ (withReqs [mailReq]).feQueue mailReq.obj = [mailReq] ∧ (withReqs [mailReq]).feAt mailReq.obj = false
    ∧ (withReqs [mailReq]).poisonAt mailReq.obj = false := by decide +kernel

/-- Die 1's copy of the line at 0x10000, dirty in its first byte. -/
def copied : State := { withReqs [] with copies := [copy1], ev := { Operands.zero with who := 1, arg := 0x10000 / 128 } }
theorem witness_Cache : canonicalB copied = true ∧ copied.copy? copied.ev.who copied.ev.arg = some copy1
    ∧ noPollsB copied = true ∧ copied.hallEvents = [] := by decide +kernel
theorem test_write_back : ran (exec .writeBack copied) (fun t => t.byteAt 0x10000 == 0x5A && t.byteAt 0x10001 == 0) = true := by decide +kernel
theorem test_line_eviction : ran (exec .lineEviction copied) (fun t => t.byteAt 0x10000 == 0x5A && t.copies.isEmpty) = true := by
  decide +kernel

/-! Harts. -/

/-- A running hart 0 in M-mode with x1 = 0x10000, x10 = 5, k1 a capability of the page at 0x10000, k2 an executable one,
k3 an object of a type, and floating point on. -/
def hartOf (type : Nat) : Hart :=
  { Hart.reset 0 with
    run := .running
    x := ((List.replicate 32 0).set 1 0x10000).set 10 5
    k := (((List.replicate 16 Cap.null).set 1 dataCap).set 2 ⟨true, 0xE02, 0, 50, 0, 0, 0x2000⟩).set 3 (objCap type)
    mstatus := 0x2000 }
/-- Hart 0 runs an instruction of 4 bytes. -/
def runs0 (h : Hart) : State := { State.reset with harts := State.reset.harts.set 0 h, cur := .hart 0 4 }

theorem witness_HartRuns : HartRuns (runs0 (hartOf 2)) 0 4 (hartOf 2) := ⟨rfl, by decide +kernel⟩

/-- Of each instruction of the row, one that ends and one that traps. -/
theorem witness_HartInstructions : ([.kincHart 3 1 8, .kandpHart 3 1 0xFF, .kbndHart 3 1 10, .kbndxHart 3 1 10, .kaddrHart 3 1,
      .kaddrSet 3 1 10, .kentryHart 3 2, .kmodeCap, .kmodeInt, .kmodeRd 3 7, .kmodeWr 7 1, .hartFence 0 0xF 0xF,
      .xkcapCsrAccess .rw 0x7C1 3 10] : List Instr).all (fun i =>
        hartFieldsOk i && (match hartRow i with | some f => (f (hartOf 2)).isSome | none => false))
    ∧ ([.ksealHart 3 1 0, .kunsealHart 3 1 1, .kentryHart 3 1] : List Instr).all (fun i =>
        hartFieldsOk i && (match hartRow i with | some f => (f (hartOf 2)).isNone | none => false))
    ∧ ([.kmodeRd 3 5, .kmodeWr 5 1, .xkcapCsrAccess .rw 0x7C1 3 10] : List Instr).all (fun i =>
        hartFieldsOk i && (match hartRow i with | some f => (f { hartOf 2 with mode := .u }).isNone | none => false)) := by
  decide +kernel
theorem test_kinc_hart : ran (exec (.kincHart 3 1 8) (runs0 (hartOf 2)))
    (fun t => (t.hart? 0).any fun h => (h.kr 3).cursor == 0x10008 && h.pc == 0x1004) = true := by decide +kernel

/-- MRET in M and in U; SRET in M, in S with TSR clear and set, and in U; kmode.jmp through k2. -/
theorem witness_HartReturns : (hartOf 2).mode = .m ∧ ({ hartOf 2 with mode := .u } : Hart).mode ≠ .m
    ∧ ({ hartOf 2 with mode := .s } : Hart).mode = .s ∧ ({ hartOf 2 with mode := .s } : Hart).mstatus.getLsbD 22 = false
    ∧ ({ hartOf 2 with mode := .s, mstatus := 0x400000 } : Hart).mstatus.getLsbD 22 = true
    ∧ ((hartOf 2).kr 2).valid = true ∧ ((hartOf 2).kr 2).otype = 0 ∧ ((hartOf 2).kr 2).has pEXEC = true
    ∧ ((hartOf 2).kr 2).cursor.getLsbD 0 = false := by decide +kernel
theorem test_kmode_jmp : ran (exec (.kmodeJmp 4 2) (runs0 (hartOf 2)))
    (fun t => (t.hart? 0).any fun h => h.pc == 0x2000 && (h.kr 4).cursor == 0x1004) = true := by decide +kernel
theorem test_mret : ran (exec .mret (runs0 { hartOf 2 with mstatus := 0x880, mepc := 0x300 }))
    (fun t => (t.hart? 0).any fun h => h.pc == 0x300 && h.mode == .s && h.mstatus.getLsbD 3) = true := by decide +kernel

/-- A load page fault: kept in M, delegated from S with trap capabilities and without, kept without usable ones. -/
def trap0 : HTrap := .exc 13 0x10000
def deleg (h : Hart) : Hart := { h with mode := .s, medeleg := 0x2000 }
def trapCodeB (c : Cap) (pc : DWord) : Bool := c.valid && c.otype == 0 && c.has pEXEC && decide (c.base ≤ pc.toNat) && decide (pc.toNat < c.top)
theorem witness_HartTakesTraps : trap0.tval = some 0x10000 ∧ (hartOf 2).delegates trap0 = false
    ∧ trapCodeB (hartOf 2).kmtc (handler (hartOf 2).mtvec trap0) = true ∧ (hartOf 2).kmtd.valid = true ∧ (hartOf 2).kmtd.otype = 0
    ∧ (deleg (hartOf 2)).delegates trap0 = true
    ∧ trapCodeB (Cap.rootCode 0) (handler 0 trap0) = true ∧ (deleg (hartOf 2)).kstc.valid = false
    ∧ ({ hartOf 2 with kmtd := .null } : Hart).kmtd.valid = false := by decide +kernel
theorem test_trap_to_s : (match (runs0 { deleg (hartOf 2) with kstc := .rootCode 0, kstd := .rootData, stvec := 0x400 }).takeTrap 0 trap0 with
    | t => (t.hart? 0).any fun h => h.pc == 0x400 && h.mode == .s && h.sepc == 0x1000 && h.scause == 13 && h.stval == 0x10000) = true := by
  decide +kernel
/-- An M timer interrupt is pending and enabled. -/
theorem witness_TrapEntry : (runs0 (hartOf 2)).ev.who = 0
    ∧ ({ hartOf 2 with mip := 0x80, mie := 0x80, mstatus := 8 } : Hart).interrupt? = some 7 := by decide +kernel

def hartOkB (s : State) (h : Hart) (rs1 : BitVec 5) (imm : BitVec 12) (sp : Cap → Nat → HartSpec) (p : State → Bool) : Bool :=
  match h.authority rs1 imm with
  | .ok (c, reg, x) =>
    match s.hartCheck h h.cm c reg x (sp c reg) with
    | (u, .ok pas _) => !isOutside pas && pas.all (fun a => !u.poisonAt a) && u.copies.isEmpty && u.l1.isEmpty && p u
    | _ => false
  | .error _ => false
theorem hartOk_of {s : State} {h : Hart} {rs1 : BitVec 5} {imm : BitVec 12} {sp : Cap → Nat → HartSpec} {p : State → Bool}
    (hb : hartOkB s h rs1 imm sp p = true) : ∃ u c pas cw, HartAccessOk s u h rs1 imm sp c pas cw ∧ p u = true := by
  unfold hartOkB at hb
  split at hb
  · rename_i c reg x ha
    split at hb
    · rename_i u pas cw hc
      simp only [Bool.and_eq_true, List.all_eq_true, Bool.not_eq_true', List.isEmpty_iff] at hb
      exact ⟨u, c, pas, cw, ⟨⟨reg, x, ha, hc⟩, hb.1.1.1.1, hb.1.1.1.2, fun l => by simp [State.copy?, hb.1.1.2], fun x hx => by simp [hb.1.2] at hx⟩, hb.2⟩
    · cases hb
  · cases hb
theorem hartOk_exists {s : State} {h : Hart} {rs1 : BitVec 5} {imm : BitVec 12} {sp : Cap → Nat → HartSpec}
    (hb : hartOkB s h rs1 imm sp (fun u => canonicalB u && u.hallEvents.isEmpty && u.reqs.isEmpty) = true) :
    ∃ u c pas cw, HartAccessOk s u h rs1 imm sp c pas cw ∧ Canonical u ∧ Quiet u := by
  obtain ⟨u, c, pas, cw, ha, hp⟩ := hartOk_of hb
  simp only [Bool.and_eq_true, List.isEmpty_iff] at hp
  exact ⟨u, c, pas, cw, ha, canonical_of hp.1.1, hp.1.2, fun q hq => by rw [hp.2] at hq; cases hq⟩

/-- In integer mode through kd, in capability mode through k1: loads, LR, stores, AMOs, kld and kst. -/
def modes : List (Hart × BitVec 5) := [(hartOf 2, 1), ({ hartOf 2 with cm := true }, 1)]
theorem witness_HartAccess : ∀ x ∈ modes, ∀ sp ∈ [loadSpec 1, loadSpec 8, loadSpec 4, lrSpec 4, lrSpec 8, kldSpec, hartStoreSpec 1,
      hartStoreSpec 8, amoSpec 4, amoSpec 8, kstSpec (objCap 2) 3],
    ∃ u c pas cw, HartAccessOk (runs0 x.1) u x.1 x.2 0 sp c pas cw ∧ Canonical u ∧ Quiet u := by
  have h : modes.all (fun x => ([loadSpec 1, loadSpec 8, loadSpec 4, lrSpec 4, lrSpec 8, kldSpec, hartStoreSpec 1, hartStoreSpec 8,
      amoSpec 4, amoSpec 8, kstSpec (objCap 2) 3]).all fun sp => hartOkB (runs0 x.1) x.1 x.2 0 sp
        (fun u => canonicalB u && u.hallEvents.isEmpty && u.reqs.isEmpty)) = true := by decide +kernel
  intro x hx sp hs
  exact hartOk_exists (List.all_eq_true.mp (List.all_eq_true.mp h x hx) sp hs)
theorem witness_HartFp : (hartOf 2).mstatus.extractLsb' 13 2 ≠ 0 := by decide +kernel
theorem test_hart_store : ran (exec (.hartMemoryAccess (.store 2 10 1 4)) (runs0 (hartOf 2)))
    (fun t => t.peek 0x10004 4 == 5 && t.peek 0x10000 4 == 0) = true := by decide +kernel
theorem test_hart_kst_kld : ran (exec (.kst 1 1 0) (runs0 { hartOf 2 with cm := true })) (fun t =>
    t.tagAt 0x10000 && ran (exec (.kld 5 1 0) { t with cur := .hart 0 4 }) fun u => (u.hart? 0).any fun h => h.kr 5 == dataCap) = true := by
  decide +kernel

theorem witness_Interrupts : ((runs0 (hartOf 2)).hart? (runs0 (hartOf 2)).ev.who).isSome
    ∧ (∀ l ∈ [IntLevel.m, .s], ∀ a ∈ [1, 255], ({ runs0 (hartOf 2) with ev := { Operands.zero with level := l, arg := a } } : State).ev.level = l
      ∧ 1 ≤ a ∧ a ≤ 255) := by decide +kernel
theorem test_interrupt_file : ran (exec .interruptFileWrite { runs0 (hartOf 2) with ev := { Operands.zero with level := .s, arg := 255 } })
    (fun t => (t.hart? 0).any fun h => h.sfile.pending.getLsbD 255 && h.mfile.pending == 0) = true := by decide +kernel

/-- An object of a type, of 256 bytes, at 0x10000, named by k3. -/
def withObj (type : Nat) : State := (runs0 (hartOf type)).poke 0x10000 8 (type + 0x100 * 0x10000)

theorem settled_of {s : State} (h : s.hallEvents = [] ∧ s.waits = [] ∧ s.reqs = []) : Settled s := by
  refine ⟨h.1, fun d => ?_, fun q hq => by rw [h.2.2] at hq; cases hq⟩
  simp [State.tableRoom, State.tableUse, h.2.1]

/-- An endpoint with room, and with a message in slot 0. -/
def withMsg : State := { withObj 2 with eps := [⟨0x10000, [(0, .hart 1)], none⟩] }
theorem witness_HartMessages : canonicalB (withObj 2) = true ∧ Settled (withObj 2) ∧ Names (withObj 2) ((hartOf 2).kr 3) 2
    ∧ Room (withObj 2) ((hartOf 2).kr 3).objPa 0 ∧ maySend (hartOf 2) 0
    ∧ ((hartOf 2).slots.getD (hartOf 2).kslot.toNat .reset).pending = none ∧ HartRuns (withObj 2) 0 4 (hartOf 2) :=
  ⟨by decide +kernel, settled_of (by decide +kernel), names_of (by decide +kernel), ⟨by decide +kernel, by decide +kernel, by decide +kernel⟩,
    .inl rfl, by decide +kernel, by decide +kernel, by decide +kernel⟩
/-- No checkpoint or hand-over runs in the states of these witnesses. -/
theorem witness_NotQuiescent : (withObj 2).th.quiescent = false ∧ withMsg.th.quiescent = false ∧ State.reset.th.quiescent = false := by
  decide +kernel
/-- At a quiescent point a ksend is held: its hart stays at the instruction. -/
theorem test_held_ksend : ran (exec (.ksend 1 0 3 0) { withObj 2 with th := { (withObj 2).th with quiescent := true } })
    (fun t => t.eps.isEmpty && (t.hart? 0).any fun h => h.pc == (hartOf 2).pc && h.run == .running) = true := by decide +kernel
theorem witness_HartRecv : ((withObj 2).ep 0x10000).order = [] ∧ (withObj 2).epSenders 0x10000 = []
    ∧ (withMsg.ep 0x10000).order = [(0, .hart 1)] ∧ withMsg.epSenders 0x10000 = [] ∧ (withMsg.buffered 0x10000 0 (.hart 1)).call = false
    ∧ namesB withMsg ((hartOf 2).kr 3) 2 = true ∧ canonicalB withMsg = true := by decide +kernel
/-- A hart owes thread 0 a reply. -/
def owing : State :=
  let s := withReqs [{ req0 with op := .awaitReply 0 15 15, phase := .waiting }]
  { s with cur := .hart 0 4, harts := s.harts.set 0 { hartOf 2 with slots := (hartOf 2).slots.set 0 ⟨some (.thread 0 0), none, none⟩ } }
theorem witness_HartReply : ((owing.hart? 0).any fun h => decide ((h.slots.getD h.kslot.toNat .reset).owed = some (.thread 0 0))) = true
    ∧ (owing.callOf (.thread 0 0)).isSome = true ∧ canonicalB owing = true := by decide +kernel
theorem test_ksend_krecv : ran (exec (.ksend 1 0 3 0) (withObj 2)) (fun t => (t.ep 0x10000).order == [(0, .hart 0)]
    && t.peek 0x100A0 4 == 5) = true := by decide +kernel

theorem witness_HartNotifications : Names (withObj 3) ((hartOf 3).kr 3) 3 ∧ (withObj 3).noteWaiting 0x10000 = []
    ∧ (withObj 3).peek 0x10018 4 < 2 ^ 31
    ∧ BitVec.ofNat 32 (((withObj 3).poke 0x10010 4 0xFF).peek 0x10010 4) &&& (5 : Word) ≠ 0 :=
  ⟨names_of (by decide +kernel), by decide +kernel, by decide +kernel, by decide +kernel⟩
theorem test_ksend_notify : ran (exec (.ksend 1 0 3 0) (withObj 3)) (fun t => t.peek 0x10010 4 == 5) = true := by decide +kernel

/-- A region of 1 MiB at 0x100000, its header at its start, in HBM4E and in a vault; x4 holds what to make. -/
def region (base : Nat) (w : DWord) : State × Hart :=
  let h := { hartOf 2 with
    x := (List.replicate 32 0).set 4 w
    k := (List.replicate 16 Cap.null).set 3 (Cap.make base 0x100000 0xFFF 11) }
  (((runs0 h).poke base 8 (11 + 0x100000 * 0x10000)).poke (base + 16) 8 32, h)
def makesB (s : State) (c : Cap) (w : DWord) : Bool :=
  let type := w.toNat % 256
  let arg := w.toNat / 256
  match objectForm type arg with
  | some (size, align, _) =>
    let pa := (c.objPa + s.peek (c.objPa + 16) 8 + align - 1) / align * align
    namesB s c 11 && decide (2 ≤ type ∧ type ≤ 11 ∧ arg < 2 ^ 40 ∧ pa + size ≤ c.top) && !s.noResource type arg
      && (spaceOf pa == .hbm || spaceOf pa == .vault) && spaceOf (pa + size - 1) == spaceOf pa && (type != 8 || spaceOf pa == .vault)
  | none => false
theorem makes_of {s : State} {c : Cap} {w : DWord} (h : makesB s c w = true) :
    ∃ type arg pa size align perms, Makes s c w type arg pa size align perms := by
  unfold makesB at h
  simp only at h
  split at h
  · rename_i size align perms hf
    simp only [Bool.and_eq_true, decide_eq_true_eq, Bool.not_eq_true', Bool.or_eq_true, beq_iff_eq, bne_iff_ne] at h
    refine ⟨w.toNat % 256, w.toNat / 256, _, size, align, perms, ⟨names_of h.1.1.1.1.1, by omega, ⟨h.1.1.1.1.2.1, h.1.1.1.1.2.2.1⟩,
      h.1.1.1.1.2.2.2.1, hf, h.1.1.1.2, rfl, h.1.1.1.1.2.2.2.2, h.1.1.2, h.1.2, ?_⟩⟩
    intro ht
    rcases h.2 with h | h
    · exact absurd ht h
    · exact h
  · cases h
/-- One word for each type, with its largest argument for endpoints, lines and queues. -/
def made : List DWord := [0xFF02, 3, 4, 5, 0x1706, 0x207, 9, 10, 0x20000B]
theorem witness_Omake : (∀ w ∈ made, ∃ type arg pa size align perms,
      Makes (region 0x100000 w).1 ((region 0x100000 w).2.kr 3) w type arg pa size align perms)
    ∧ made.all (fun w => canonicalB (region 0x100000 w).1) = true
    ∧ ∃ type arg pa size align perms, Makes (region vaultBase 0x108).1 ((region vaultBase 0x108).2.kr 3) 0x108 type arg pa size align perms := by
  have h : made.all (fun w => makesB (region 0x100000 w).1 ((region 0x100000 w).2.kr 3) w) = true := by decide +kernel
  exact ⟨fun w hw => makes_of (List.all_eq_true.mp h w hw), by decide +kernel, makes_of (by decide +kernel)⟩
theorem test_omake_aspace : ran (exec (.omake 5 3 4) (region 0x100000 5).1)
    (fun t => t.objLive 0x100040 5 && t.asids.length == 1 && (t.hart? 0).any fun h => (h.kr 5).otype == 5 && (h.kr 5).objPa == 0x100040) = true := by
  decide +kernel

/-! Requests to control objects, and registers of the device. -/

/-- The hart's label is `l`; k3 names an object of a type; k1 another, at 0x20000. -/
def ctlHart (type l : Nat) : Hart :=
  { hartOf type with
    x := (((hartOf type).x.set 5 (BitVec.ofNat 64 l)).set 10 0x100000).set 14 1
    k := (hartOf type).k.set 1 (Cap.make 0x20000 256 0xFFF 4) }
def ctl (type l : Nat) : State :=
  { ((runs0 (ctlHart type l)).poke 0x10000 8 (type + 0x100 * 0x10000)).poke 0x20000 8 (4 + 0x40 * 0x10000) with
    asids := [⟨0, 0x10000, false, none⟩] }

theorem ctl_hart (type l : Nat) : (ctlHart type l).kr 3 = objCap type := rfl

theorem space_idle_of {s : State} {aspace asid : Nat} (h : s.reqs.isEmpty && s.wgs.isEmpty && s.launches.isEmpty && s.ops.isEmpty
    && s.mailClaims.isEmpty && s.queues.isEmpty && s.hallEvents.isEmpty && (s.spaceRequests asid).isEmpty) : SpaceIdle s aspace asid := by
  simp only [Bool.and_eq_true, List.isEmpty_iff] at h
  obtain ⟨⟨⟨⟨⟨⟨⟨h1, h2⟩, h3⟩, h4⟩, h5⟩, h6⟩, h7⟩, h8⟩ := h
  exact ⟨h8, by simp [h2], by simp [h3], by simp [h4], by simp [h5], by simp [h6], h7⟩

/-- Teardown of the address space 3, first and again; release; a sweep of 2 MiB from 0; revocation of the SCHEDCTX in k1. -/
theorem witness_ControlObjects : canonicalB (ctl 5 1) = true ∧ namesB (ctl 5 1) ((ctlHart 5 1).kr 3) 5 = true
    ∧ ((ctlHart 5 1).xr 5).toNat % 2 ^ 20 = 1 ∧ SpaceIdle (ctl 5 1) 0x10000 0 ∧ (ctl 5 1).waits = [] ∧ (ctl 5 1).asidAt 0x10000 = 0
    ∧ (ctl 5 1).peek 0x1001A 1 = 0 ∧ homeOf 0x10000 % 4 < (ctl 5 1).halls.length
    ∧ ((ctl 5 1).poke 0x1001A 1 1).peek 0x1001A 1 ≠ 0 ∧ ((ctl 5 1).hall (homeOf 0x10000 % 4)).xinv = []
    ∧ ({ ctl 5 2 with asids := [⟨3, 0x10000, true, none⟩] } : State).asids.find? (fun a => a.pa == 0x10000) = some ⟨3, 0x10000, true, none⟩
    ∧ namesB (ctl 10 1) ((ctlHart 10 1).kr 3) 10 = true ∧ (ctl 10 1).sweep = none ∧ ((ctlHart 10 1).xr 10).toNat = 0x100000
    ∧ (0x100000 : Nat) % 4096 = 0 ∧ inHbm 0x100000 (1 * 0x4000) = true ∧ ((ctlHart 10 1).xr 12).toNat = 0 ∧ ((ctlHart 10 1).xr 14).toNat = 1
    ∧ ((ctlHart 10 2).kr 1).valid = true ∧ ((ctlHart 10 2).kr 1).otype.toNat = 4
    ∧ (ctl 10 2).objLive ((ctlHart 10 2).kr 1).objPa 4 = true ∧ (ctl 10 2).reqs = [] ∧ (ctl 10 2).launches = [] :=
  ⟨by decide +kernel, by decide +kernel, by decide +kernel, space_idle_of (by decide +kernel), by decide +kernel⟩
theorem test_teardown : ran (exec (.aspaceTeardown 0 0 3 0) (ctl 5 1)) (fun t => t.peek 0x1001A 1 == 1 && (t.hall 0).xinv == [0x800]) = true := by
  decide +kernel
theorem test_sweep_start : ran (exec (.sweepStart 6 0 3 0) (ctl 10 1)) (fun t => t.sweep.any fun w => w.phase == 1 && w.rlen == 0x200000) = true := by
  decide +kernel
theorem test_revoke : ran (exec (.objectRevoke 0 1 3 0) (ctl 10 2)) (fun t => !t.objLive 0x20000 4 && t.objSize 0x20000 == 0x40) = true := by
  decide +kernel

/-- Queue 5, its QCB at 0x30000 with 2 entries, of which the first is published. -/
def queue0 : QueueState := ⟨0x30000, 5, 0, true, .null, .null, 0, true, false, 0⟩
def withQueue (q : QueueState) : State :=
  ((({ State.reset with queues := [q], ev := { Operands.zero with who := 0x30000, value := 5 } } : State).poke 0x30000 8
    (7 + 0x300 * 0x10000)).poke (0x30000 + 256 + 254) 2 1)
theorem witness_DeviceRegisters : (withQueue queue0).th.quiescent = false
    ∧ (withQueue queue0).queues.find? (fun q => q.num == (withQueue queue0).ev.value.toNat % 4096 && (withQueue queue0).objLive q.pa 7) = some queue0
    ∧ ({ State.reset with th := { State.reset.th with quiescent := true } } : State).th.quiescent = true
    ∧ State.reset.ev.who < State.reset.halls.length
    ∧ ((State.reset.setHall 0 { Hall.reset with xinv := [0x400] }).hall 0).xinv = [0x400]
    ∧ (State.reset.setHall 0 { Hall.reset with xinv := [0x400] }).xinvBusy 0x400 = false
    ∧ (∀ n ∈ [0, 23], n < 24 ∧ (State.reset.hart? n).isSome = true) := by decide +kernel
theorem test_mtimecmp : ran (exec .registerWrite { State.reset with ev := { Operands.zero with arg := 0x9003000000 + 8 * 23, value := 0 } })
    (fun t => (t.hart? 23).any fun h => h.mtimecmp == 0 && h.mip.getLsbD 7) = true := by decide +kernel
theorem test_doorbell : ran (exec .doorbell (withQueue { queue0 with rung := false })) (fun t => (t.queue? 0x30000).any QueueState.rung) = true := by
  decide +kernel

/-! The launch path. -/

theorem witness_QcbLoad : (withQueue queue0).objLive 0x30000 7 = true ∧ (withQueue queue0).queueOf 0x30000 = queue0 ∧ queue0.cached = false
    ∧ queue0.rung = true ∧ (withQueue queue0).askedBefore 0x30000 = false ∧ (withQueue queue0).th.quiescent = false
    ∧ ((withQueue queue0).queues.filter fun x => x.cached && x.die == queue0.die).length < 256
    ∧ (∀ d ∈ [0, 3], (withQueue queue0).hallRuns d = true) := by decide +kernel
def cached0 : QueueState := { queue0 with cached := true }
theorem witness_QueueTake : (withQueue cached0).queue? 0x30000 = some cached0 ∧ canonicalB (withQueue cached0) = true
    ∧ (withQueue cached0).peek (qcbEntry (withQueue cached0) 0x30000 (qcbRead (withQueue cached0) 0x30000) + 254) 2 = 1
    ∧ ((withQueue cached0).poke (0x30000 + 510) 2 0).peek (qcbEntry (withQueue cached0) 0x30000 (qcbRead (withQueue cached0) 0x30000) + 254) 2 ≠ 1 := by
  decide +kernel
theorem test_take : ran (exec .queueEntryTake (withQueue cached0)) (fun t => t.launches.length == 1 && t.peek 0x30048 8 == 1) = true := by
  decide +kernel

/-- The queue's address space at 0x10000, its context at 0x20000 with priority 3, and a launch of it. -/
def withLaunch (l : Launch) : State :=
  let q := { cached0 with aspace := objCap 5, ctx := Cap.make 0x20000 64 0xFFF 4 }
  { mapped ((((withQueue q).poke 0x10000 8 (5 + 0x40 * 0x10000)).poke 0x20000 8 (4 + 0x40 * 0x10000)).poke 0x20010 1 3) with
    asids := [⟨0, 0x10000, false, some 0⟩]
    launches := [l]
    ev := { Operands.zero with who := 3 } }
def taken0 : Launch := { launch0 with state := .taken, prologue := Cap.make 0x10000 0x1000 0xFFF 1 }
theorem witness_PrologueStart : (withLaunch taken0).launch? (withLaunch taken0).ev.who = some taken0 ∧ taken0.prologue.isNull = false
    ∧ (withLaunch taken0).wgs = [] ∧ (withLaunch taken0).queueEnded ((withLaunch taken0).openQueue taken0.queue).1 = false
    ∧ (withLaunch taken0).queueUsable ((withLaunch taken0).openQueue taken0.queue).1 = true ∧ fieldBad taken0.prologue 1 [] true = false := by
  decide +kernel
/-- A launch that is accepted, and one of 9 threads a group, which is rejected. -/
def good0 : Launch :=
  { launch0 with
    state := .prologueEnded
    entry := (Cap.make 0x10000 0x1000 0xFFF 1).moveTo 0x10100
    fault := Cap.make 0x10000 128 0xFFF 2
    work := Cap.make 0x10000 0x1000 0xBFF 0 }
def bad0 : Launch := { good0 with w := 9 }
theorem witness_Validate : (withLaunch good0).launch? (withLaunch good0).ev.who = some good0 ∧ (withLaunch good0).behind good0 = false
    ∧ (withLaunch good0).scheduleBusy good0 = false
    ∧ (match (withLaunch good0).validate good0 with | (_, .ok l) => l.schedule.isNull | _ => false) = true
    ∧ (match (withLaunch bad0).validate bad0 with | (_, .error _) => true | _ => false) = true := by decide +kernel
theorem test_accept : ran (exec .launchValidate (withLaunch good0)) (fun t => t.launches.any fun l => l.state == .accepted && l.prio == 3
    && l.undealt == [(0, 1, 0)]) = true := by decide +kernel

def dealt0 : Launch := { good0 with state := .distributed, undealt := [(0, 1, 0)] }
/-- Core 0 asks for a workgroup. -/
def asking : State := { withLaunch dealt0 with ev := .zero }
def loading0 : State := { asking with wgs := base0.wgs.map fun w => { w with life := .loading, launch := 3, bank := 0 } }
theorem witness_Launches : asking.chooseLaunch 0 (asking.core 0).active = some dealt0 ∧ asking.dealEntry dealt0 0 = some (0, 1, 0)
    ∧ (({ loading0 with ev := { Operands.zero with who := wg0 } } : State).wg? wg0).any (fun w => w.life == .loading && w.bank == 0) = true
    ∧ dealt0.flags.getLsbD 1 = false ∧ dealt0.scope < 3 := by decide +kernel
theorem test_distribute : ran (exec .workgroupDistribute asking) (fun t => t.wgs.any fun w => w.life == .loading && w.core == 0) = true := by
  decide +kernel
def over0 : Launch := { dealt0 with undealt := [] }
theorem witness_Finish : (withLaunch over0).launch? (withLaunch over0).ev.who = some over0 ∧ (withLaunch over0).wgs = [] ∧ (withLaunch over0).tasks = [] := by
  decide +kernel
/-- Launches whose probes are answered: one that repeats, one with a stamp, one with a notification. -/
def probed0 : Launch := { over0 with state := .probing [], asid := 0 }
def stamped0 : Launch := { probed0 with stamp := Cap.make 0x10040 8 0xBFF 0 }
def noted0 : Launch := { probed0 with cnotify := Cap.make 0x50000 64 0xFFF 3, cbit := 31 }
def stamping : State := withLaunch stamped0
def noting : State := (withLaunch noted0).poke 0x50000 8 (3 + 0x40 * 0x10000)
theorem witness_Stamp : (withLaunch { probed0 with repeats := true }).launch? 3 = some { probed0 with repeats := true }
    ∧ (withLaunch probed0).hallEvents = [] ∧ noPollsB (withLaunch probed0) = true ∧ stamping.launch? 3 = some stamped0 ∧ stamped0.stamp.isNull = false ∧ stamped0.cnotify.valid = false
    ∧ (match checkAccess stamping stamped0.seat stamped0.stamp 0 stamped0.stamp.cursor.toNat { perms := [pSTORE], n := 8, align := 8, need := { w := true } } with
      | (u, .ok p) => canonicalB u && u.copies.isEmpty && !isOutside p.pas | _ => false) = true
    ∧ noted0.stamp.isNull = true ∧ namesB noting noted0.cnotify 3 = true ∧ canonicalB noting = true ∧ noting.noteWaiting 0x50000 = []
    ∧ noting.peek (0x50000 + 24) 4 < 2 ^ 31 := by decide +kernel
/-- A launch of the package's scope, with a dirty copy, which its stamp follows (R118). -/
def wide0 : Launch := { stamped0 with rscope := 3 }
def widely : State := { withLaunch wide0 with copies := [{ copy1 with die := 0 }] }
theorem witness_StampWide : widely.launch? 3 = some wide0 ∧ wide0.state = .probing [] ∧ 3 ≤ wide0.rscope ∧ noPollsB widely = true
    ∧ (match checkAccess ([0, 1, 2, 3].foldl (fun x d => x.writeBackDie d) widely) wide0.seat wide0.stamp 0 wide0.stamp.cursor.toNat
        { perms := [pSTORE], n := 8, align := 8, need := { w := true } } with
      | (u, .ok p) => canonicalB u && (u.copies.all fun c => c.dirty == 0) && !isOutside p.pas
      | _ => false) = true := by decide +kernel
theorem test_stamp_wide : ran (exec .completionStampWrite widely) (fun t => t.byteAt 0x10000 == 0x5A && t.peek 0x10040 8 == 9) = true := by
  decide +kernel
theorem test_stamp : ran (exec .completionStampWrite stamping) (fun t => t.launches.isEmpty && t.peek 0x10040 8 == 9) = true := by decide +kernel

/-! Tasks. -/

def task0 : Task :=
  { id := 0, seq := 1, launch := 3, core := 0, entry := Cap.make 0x10000 0x1000 0xFFF 1, operands := .null, lo := 4, hi := 9, words := [], pending := [],
    place := .deque }
def withTask (t : Task) : State := { withLaunch dealt0 with tasks := [t], ev := .zero }
theorem witness_Tasks : (withTask task0).chooseTask 0 = some task0 ∧ task0.die = dieOfCore 0
    ∧ (withTask { task0 with place := .spilled }).storeFull 0 = false
    ∧ (withTask task0).tasks.find? (fun x => x.id == (withTask task0).ev.who) = some task0
    ∧ (withTask { task0 with core := 256 }).chooseTask 0 = some { task0 with core := 256 }
    ∧ (withTask { task0 with place := .transit 1 }).hasRoom 1 ((withTask task0).core 1).active dealt0.need = true := by decide +kernel
/-- The active bank has room, or only the other one. -/
def crowded : State := { withTask task0 with wgs := base0.wgs.map fun w => { w with w := 16, g := 32, bank := ((withTask task0).core 0).active } }
theorem witness_TaskRoom : TaskRoom (withTask task0) 0 dealt0 ((withTask task0).core 0).active
    ∧ TaskRoom crowded 0 dealt0 (1 - (crowded.core 0).active) ∧ crowded.chooseTask 0 = some task0
    ∧ TaskRoom (withTask { task0 with place := .transit 1 }) 1 dealt0 ((withTask task0).core 1).active :=
  ⟨.inl (by decide +kernel), .inr (by decide +kernel), by decide +kernel, .inl (by decide +kernel)⟩
theorem test_take_task : ran (exec .taskTake (withTask task0)) (fun t => t.tasks == [{ task0 with hi := 6 }]
    && t.wgs.any fun w => (w.reg 0 0xC0).val == 6 && (w.reg 0 0xC1).val == 9) = true := by decide +kernel

/-- A full store of 4,096 equal tasks, whose launch has a work area at 0x10000. -/
def worked0 : Launch := { dealt0 with work := Cap.make 0x10000 0x1000 0xBFF 0 }
def full : State := { withLaunch worked0 with tasks := List.replicate 4096 task0, ev := .zero }
theorem full_stored : full.stored 0 = List.replicate 4096 task0 := by
  show (List.replicate 4096 task0).filter _ = _
  rw [List.filter_replicate_of_pos (by decide +kernel)]
theorem full_candidate (n : Nat) (f : Task → Nat) : (List.replicate n task0).foldl (fun acc t =>
    match acc with
    | none => some t
    | some a => if f a < f t || (f a == f t && (t.core < a.core || (t.core == a.core && t.seq < a.seq))) then some t else acc)
    (some task0) = some task0 := by
  induction n with
  | zero => rfl
  | succ n ih => rw [List.replicate_succ, List.foldl_cons]; simpa using ih
theorem witness_Spill : full.storeFull full.ev.who = true ∧ full.spillCandidate full.ev.who = some task0 ∧ full.launch? task0.launch = some worked0
    ∧ (full.spilledOf worked0.id).length < worked0.spillRoom
    ∧ (match checkAccess full worked0.seat worked0.work 0 ((worked0.work.cursor.toNat : Int) + 512 * worked0.nfslot + 64 * 0)
        { perms := [pSTORE], n := 64, need := { w := true } } with | (_, .ok _) => true | _ => false) = true := by
  have h : full.spilledOf worked0.id = [] := by
    show (List.replicate 4096 task0).filter _ = _
    rw [List.filter_replicate_of_neg (by decide +kernel)]
  refine ⟨?_, ?_, by decide +kernel, ?_, by decide +kernel⟩
  · show decide (4096 ≤ (full.stored 0).length) = true
    rw [full_stored, List.length_replicate]; rfl
  · have hs : full.stored full.ev.who = task0 :: List.replicate 4095 task0 := by
      rw [show full.ev.who = 0 from by decide +kernel, full_stored, ← List.replicate_succ]
    unfold State.spillCandidate
    rw [hs, List.foldl_cons]
    exact full_candidate 4095 _
  · rw [h]; decide +kernel

/-! Steps of a core, and of waits. -/

/-- The group of eight has still to enter the block at 0x10000. -/
def group0 : Nat := (base0.wgs.map fun w => (w.groups.map Group.id).headD 0).headD 0
def entering0 : State :=
  let s := { base0 with ev := { Operands.zero with who := wg0, arg := group0 }, spans := [⟨0, 0, 0x10000, oneSlotSpan 0⟩] }
  { s with wgs := s.wgs.map fun w => { w with groups := w.groups.map fun g => { g with entering := true, pc := 0x10000 } } }
theorem mayEnter_of {c : Cap} {x hd : DWord} {p : Bool} (h : (c.valid && decide (c.otype = 0) && c.has pEXEC
    && decide (c.base ≤ x.toNat ∧ x.toNat + 128 ≤ c.top ∧ x.toNat % 128 = 0 ∧ hd.toNat / 2 ^ 62 = 0 ∧ hd.toNat % 32 = 0
      ∧ 1 ≤ hd.toNat / 2 ^ 54 % 256 ∧ 1 ≤ hd.toNat / 2 ^ 50 % 16 ∧ hd.toNat / 2 ^ 50 % 16 ≤ 12 ∧ hd.toNat / 2 ^ 42 % 256 ≤ 192
      ∧ hd.toNat / 256 % 4 ≠ 3 ∧ (hd.getLsbD 7 = true → c.has pSYSTEM = true) ∧ (p = true → hd.getLsbD 5 = true))) = true) :
    MayEnter c x hd p := by
  simp only [Bool.and_eq_true, decide_eq_true_eq] at h
  obtain ⟨⟨⟨h1, h2⟩, h3⟩, h4, h5, h6, h7, h8, h9, h10, h11, h12, h13, h14, h15⟩ := h
  exact ⟨⟨h1, h2⟩, h3, ⟨h4, h5⟩, h6, h7, h8, h9, ⟨h10, h11⟩, h12, h13, h14, h15⟩
theorem witness_BlockEntry : (match entering0.evGroup with
    | some (w, g) => w.life == .running && entering0.canEnter w g && !g.members.isEmpty && (match entering0.fetchSpan w g.pc with
      | (u, .ok _) => u.hallEvents.isEmpty
      | _ => false)
    | none => false) = true
    ∧ ∀ th ∈ (entering0.wgs.map Workgroup.threads).flatten, MayEnter th.pcc 0x10000 (spanHeader (oneSlotSpan 0)) false := by
  refine ⟨by decide +kernel, ?_⟩
  have h : (entering0.wgs.map Workgroup.threads).flatten.all (fun th => th.pcc.valid && decide (th.pcc.otype = 0) && th.pcc.has pEXEC
    && decide (th.pcc.base ≤ (0x10000 : DWord).toNat ∧ (0x10000 : DWord).toNat + 128 ≤ th.pcc.top ∧ (0x10000 : DWord).toNat % 128 = 0
      ∧ (spanHeader (oneSlotSpan 0)).toNat / 2 ^ 62 = 0 ∧ (spanHeader (oneSlotSpan 0)).toNat % 32 = 0
      ∧ 1 ≤ (spanHeader (oneSlotSpan 0)).toNat / 2 ^ 54 % 256 ∧ 1 ≤ (spanHeader (oneSlotSpan 0)).toNat / 2 ^ 50 % 16
      ∧ (spanHeader (oneSlotSpan 0)).toNat / 2 ^ 50 % 16 ≤ 12 ∧ (spanHeader (oneSlotSpan 0)).toNat / 2 ^ 42 % 256 ≤ 192
      ∧ (spanHeader (oneSlotSpan 0)).toNat / 256 % 4 ≠ 3 ∧ ((spanHeader (oneSlotSpan 0)).getLsbD 7 = true → th.pcc.has pSYSTEM = true)
      ∧ (false = true → (spanHeader (oneSlotSpan 0)).getLsbD 5 = true))) = true := by decide +kernel
  exact fun th ht => mayEnter_of (List.all_eq_true.mp h th ht)

/-- The group of eight stands as two groups of four at one address, and the first has issued in the cycle of the second. -/
def halves : State := onWgs (fun w => { w with groups := w.groups.flatMap fun g =>
    [{ g with members := g.members.take 4 }, { g with id := g.id + 1, members := g.members.drop 4 }] }) base0
def pack0 : Packed := ⟨0, 0, [(wg0, 0)], (halves.wgs.map Workgroup.asid).headD 0, (halves.wgs.flatMap fun w => w.groups.map Group.pc).headD 0, 4, 1⟩
def packing : State := { halves with cores := [{ Core.fresh 0 with clock0 := 1, pack := some pack0 }] }
def mayPackB (s : State) (c wg grp : Nat) (p : Packed) : Bool :=
  match s.wg? wg with
  | some w => match w.group? grp with
    | some g => match s.slotAt w g.pc with
      | some x => decide (((s.core c).pack = some p ∧ (s.core c).clock p.bank = p.time + 1)
        ∧ (w.core = c ∧ w.bank = p.bank ∧ (s.core c).active = p.bank ∧ w.life = .running ∧ w.saved = none)
        ∧ (g.pc = p.pc ∧ w.asid = p.asid)
        ∧ (p.groups < 4 ∧ p.lanes + ((s.setClock c p.bank p.time).issueLanes w g (decodeWord x) (Head.ofWord x)).length ≤ 16)
        ∧ (∀ x ∈ p.taken, x.1 = w.id → x.2 < g.lowestTid) ∧ (s.setClock c p.bank p.time).isReady w g = true)
      | none => false
    | none => false
  | none => false
theorem mayPack_of {s : State} {c wg grp : Nat} {p : Packed} (h : mayPackB s c wg grp p = true) : ∃ w g x, MayPack s c wg grp p w g x := by
  unfold mayPackB at h
  split at h
  · split at h
    · split at h
      · obtain ⟨h1, h2, h3, h4, h5, h6⟩ := of_decide_eq_true h
        exact ⟨_, _, _, h1, ‹_›, ‹_›, ‹_›, h2, h3, h4, h5, h6⟩
      · cases h
    · cases h
  · cases h
theorem witness_MayPack : (∃ w g x, MayPack packing 0 wg0 (group0 + 1) pack0 w g x) ∧ ∀ p w g x, ¬MayPack State.reset 0 wg0 group0 p w g x := by
  refine ⟨mayPack_of (by decide +kernel), fun p w g x h => ?_⟩
  have := h.cycle.1
  rw [show (State.reset.core 0).pack = none from by decide +kernel] at this
  cases this
/-- The second group issues at the clock of the first, which goes on as it stood (R21). -/
theorem test_pack : ran (step { packing with agenda := [.pack 0 wg0 (group0 + 1)] }) (fun t => (t.core 0).clock0 == 1
    && t.wgs.all fun w => (w.group? (group0 + 1)).any fun g => g.pc != pack0.pc) = true := by decide +kernel

/-- Bin 2 holds threads 0 and 1, which are in no group. -/
def bin0 : Bin := ⟨0, 0, 2, wg0, 0x10000, none, 0, [0, 1]⟩
def binned : State := { base0 with
  bins := [bin0]
  ev := { Operands.zero with who := 0, arg := 2 }
  wgs := base0.wgs.map fun w => { w with groups := [], threads := w.threads.map fun t => { t with status := .filed } } }
theorem witness_Bins : (binned.binsOf 0 (binned.core 0).active).find? (fun b => b.index == binned.ev.arg) = some bin0
    ∧ ({ binned with cores := [{ Core.fresh 0 with clock0 := binned.ageOf wg0 }] } : State).binAged bin0 = true
    ∧ binned.anyReady 0 (binned.core 0).active = false ∧ binned.binsOf 0 (binned.core 0).active = [bin0] ∧ binned.binAged bin0 = false
    ∧ oldestBin (binned.binsOf 0 (binned.core 0).active) = some bin0 := by decide +kernel
theorem test_bin_forms : ran (exec .binIdleForm binned) (fun t => t.bins.isEmpty && t.wgs.any fun w => w.groups.any fun g =>
    g.members == [(0, 0), (1, 1)] && g.pc == 0x10000) = true := by decide +kernel

/-- The group has been ready since 0, or yields until 0. -/
def waiting0 (f : Group → Group) : State :=
  { base0 with
    ev := { Operands.zero with who := wg0, arg := group0 }
    cores := [{ Core.fresh 0 with clock0 := 5000 }]
    wgs := base0.wgs.map fun w => { w with groups := w.groups.map f } }
def readyGroup (g : Group) : Group := { g with readySince := some 0 }
def yielding (g : Group) : Group := { g with yieldUntil := some 5000, yieldOthers := [9] }
theorem witness_Starved : (match (waiting0 readyGroup).evGroup with
    | some (w, g) => w.life == .running && (waiting0 readyGroup).isReady w g && g.readySince == some 0 && g.starved.isNone
      && decide (0 + w.agelim ≤ (waiting0 readyGroup).clockOf w)
    | none => false) = true
    ∧ (match (waiting0 yielding).evGroup with
    | some (w, g) => g.yieldUntil == some 5000 && decide (5000 ≤ (waiting0 yielding).clockOf w)
    | none => false) = true := by decide +kernel

/-- A core barrier whose only waiter has been counted. -/
def bar0 : Barrier := ⟨⟨3, 0, 0, 0⟩, 0, [(wg0, 0)], 0, false⟩
def barred : State := { withReqs [{ req0 with op := .barrier ⟨3, 0, 0, 0⟩ 0 false true, phase := .waiting }] with barriers := [bar0], ev := .zero }
theorem witness_Barrier : barred.barriers[barred.ev.who]? = some bar0 ∧ barred.barComplete bar0 = true ∧ (barred.reqs.map Request.id).Nodup := by
  decide +kernel
theorem test_barrier : ran (exec .barrierPhaseComplete barred) (fun t => (t.bar ⟨3, 0, 0, 0⟩).phase == 1
    && t.reqs.all fun r => !r.undecided) = true := by decide +kernel

/-- A pod barrier, before and after it has told the other packages. -/
def pod0 (told : Bool) : Barrier := ⟨⟨3, 4, 0, 0⟩, 0, [(wg0, 0)], 0, told⟩
def podded0 (told : Bool) : State := { barred with barriers := [pod0 told], ev := { Operands.zero with ok := told } }
theorem witness_PodBarrier : ∀ told, (podded0 told).barriers[(podded0 told).ev.who]? = some (pod0 told)
    ∧ (podded0 told).barComplete (pod0 told) = true ∧ ((podded0 told).reqs.map Request.id).Nodup ∧ (podded0 true).ev.ok = true := by decide +kernel
theorem test_pod_barrier : ran (exec .barrierPhaseComplete (podded0 false)) (fun t => (t.bar ⟨3, 4, 0, 0⟩).phase == 0
    && t.th.outbox == [.podArrive 0 0]) = true
    ∧ ran (exec .barrierPhaseComplete (podded0 true)) (fun t => (t.bar ⟨3, 4, 0, 0⟩).phase == 1) = true := by decide +kernel

/-- Gang 256 + 1 of a single group: two arrivals, whose words agree or not. -/
def arrived (x : BitVec 80) : State :=
  { withReqs [{ req0 with op := .gangWait 257 none, phase := .waiting }] with
    ev := { Operands.zero with who := wg0, arg := 257 }
    wgs := base0.wgs.map fun w => { w with latches := [⟨257, [⟨0, 0, 0x1CA, 0, [], .null, 50⟩, ⟨1, 0, x, 0, [], .null, 51⟩], none⟩] } }
theorem witness_Rendezvous : ((arrived 0x1CA).wg? (arrived 0x1CA).ev.who).any (fun w => decide ((w.latch (arrived 0x1CA).ev.arg).arrivals
      = [⟨0, 0, 0x1CA, 0, [], .null, 50⟩, ⟨1, 0, 0x1CA, 0, [], .null, 51⟩] ∧ (w.latch (arrived 0x1CA).ev.arg).op = none)) = true
    ∧ 256 ≤ (arrived 0x1CA).ev.arg
    ∧ wordKey 0x1CA = wordKey 0x1CA ∧ wordKey 0x1CB ≠ wordKey 0x1CA := by decide +kernel

/-- Thread 0 waits for nobody, or for itself; and its entry with what the walk found. -/
def walk0 (holders : Holders) (fault : Bool) : WaitEntry :=
  { id := 0, die := 0, kind := 6, obj := 0x10000, qual := 0, state := .waiting, waiters := [.thread wg0 0], holders := holders, prio := 0,
    walk := none, faultWait := fault, batch := 50 }
def walks (e : WaitEntry) : State :=
  let s : State := { withReqs [] with waits := [], ev := .zero }
  { s with waits := [{ e with walk := some (s.walkOf e) }] }
def foundB (s : State) (p : Option (List (Nat × Party)) → Bool → Bool) : Bool :=
  match (s.wait? 0).bind WaitEntry.walk with
  | some v => p v.found v.limited && s.hallEvents.isEmpty && decide (0 < s.halls.length ∧ 0 < s.nextId)
  | none => false
theorem witness_Walk : foundB (walks (walk0 .unknown false)) (fun f l => f.isNone && !l) = true
    ∧ foundB (walks (walk0 (.parties [.thread wg0 0]) false)) (fun f _ => f.isSome) = true
    ∧ foundB (walks (walk0 (.parties [.thread wg0 0]) true)) (fun f _ => f.isSome) = true := by decide +kernel
theorem test_walk_cycle : ran (exec .registrationWalkEnd (walks (walk0 (.parties [.thread wg0 0]) false)))
    (fun t => t.waits.isEmpty && (t.hall 0).dlseq == 1) = true := by decide +kernel

/-! Engines. -/

/-- A record of one element of four bytes at 0x10000, with a table at 0x10400. -/
def rec0 : TensorRec :=
  { data := dataCap, peer := Cap.make 0x10800 0x100 0xBFF 0, stamp := .null, cbook := Cap.make 0x10400 0x400 0xBFF 0, fmt := 0, rank := 1,
    sscope := 0, fill := 0, clamp := 0, dims := [1, 0, 0, 0], strides := [0, 0, 0], zeros := true }
/-- Operation 70 of the workgroup, whose word is `i`'s; one slice of one row. -/
def opOf (i : Instr) (unit : Nat) (phase : OpPhase) : EngineOp :=
  { id := 70, wg := wg0, launch := 3, asid := 0, core := 0, unit := unit, word := (encodeWord i).getD 0, gang := 0, groups := [0], pc := 0,
    lead := 0, slices := [[0, 0, 0, 0x10000]], record := some rec0, phase := phase, arrivals := [50], todo := [], fault := none, table := [],
    bad := [], acked := [], begun := [], source := none }
/-- Tiles 0 and 1 are of one element; 2 and 3 are empty with that shape; accumulator 8 holds a result. -/
def oneByOne : DWord := tdefEntry 0 1 1 0 0
def withOp (o : EngineOp) : State :=
  let accs := (List.replicate 64 (⟨0, [], false⟩ : AccTile)).set 8 ⟨1, [], false⟩
  { withReqs [{ req0 with op := .gangWait 0 (some 70), phase := .waiting, who := .thread wg0 0 }] with
    ops := [o]
    launches := [dealt0]
    ev := { Operands.zero with who := 70, arg := wg0 }
    wgs := base0.wgs.map fun w => { w with tiles := [oneByOne, oneByOne, setState oneByOne tEMPTY, setState oneByOne tFILLING], accs := accs } }

def completingB (s : State) (code : Nat) (o : EngineOp) : Bool :=
  match s.wg? o.wg with
  | some w => decide (s.op? s.ev.who = some o) && decide (o.code = code) && decide (o.phase = .running) && decide (o.fault = none)
    && (s.earlierOps o).isEmpty && w.anyLive && decide (o.code ≠ 0x1C5 → o.accIndex < w.accs.length)
  | none => false
theorem completing_of {s : State} {code : Nat} {o : EngineOp} (h : completingB s code o = true) : ∃ w, Completing s code o w := by
  unfold completingB at h
  split at h
  · simp only [Bool.and_eq_true, decide_eq_true_eq, List.isEmpty_iff] at h
    obtain ⟨⟨⟨⟨⟨⟨h1, h2⟩, h3⟩, h4⟩, h5⟩, h6⟩, h7⟩ := h
    exact ⟨_, h1, h2, h3, h4, by simp [h5], ‹_›, h6, h7⟩
  · cases h

def xb (ta tb op : Nat) : XBody := ⟨0, 8, BitVec.ofNat 8 ta, BitVec.ofNat 8 tb, 2, 0, BitVec.ofNat 5 op, 0⟩
def engineOps : List (Instr × Nat × Nat) :=
  [(.copy h0 { xb 0 0 0 with acc := 0 }, 3, 0x1C5), (.mma h0 (xb 0 1 0), 0, 0x1C7), (.mma h0 (xb 9 1 1), 0, 0x1C7), (.mmak h0 (xb 0 1 0), 0, 0x1C8),
    (.scacc h0 (xb 0 1 0), 1, 0x1C9), (.aclr h0 (xb 0 0 0), 2, 0x1CA), (.ainit h0 (xb 0 0 0), 2, 0x1CB), (.adrain h0 (xb 3 0 0), 2, 0x1CC),
    (.adrain h0 (xb 3 0 1), 2, 0x1CC)]
theorem witness_Completing : ∀ x ∈ engineOps, ∃ w, Completing (withOp (opOf x.1 x.2.1 .running)) x.2.2 (opOf x.1 x.2.1 .running) w := by
  have h : engineOps.all (fun x => completingB (withOp (opOf x.1 x.2.1 .running)) x.2.2 (opOf x.1 x.2.1 .running)) = true := by decide +kernel
  exact fun x hx => completing_of (List.all_eq_true.mp h x hx)

/-- A tensor record of four bytes at 0x10000, whose object k2 names; a COPY into the EMPTY tile 2; the record poisoned. -/
def recorded (o : EngineOp) : State :=
  (((((withOp o).poke 0x10000 1 9).putCap 0x10010 dataCap false).poke 0x10051 1 1).poke 0x1005C 4 1).poke 0x10060 4 1
def copyIn : EngineOp := { opOf (.copy h0 { xb 2 0 0 with acc := 0 }) 3 .waiting with record := none }
def acceptB (s : State) (o : EngineOp) (p : Workgroup → TensorRec → Bool → Bool) : Bool :=
  match s.wg? o.wg with
  | some w =>
    decide (s.op? s.ev.who = some o ∧ o.phase = .waiting) && o.readiness w == .ready && !w.spilled && !s.accessBefore o
      && (if o.needsRecord then
        match s.tensorAt o (leadTensor w o).objPa with
        | (v, .ok pl) =>
          let (_, rec, po) := v.readRecord (dieOfCore o.core) pl
          p w rec po
        | _ => false
      else p w .none false)
  | none => false
/-- ACLR and the COPY are accepted; MMA of an EMPTY accumulator is not, nor is the COPY of the poisoned record. -/
def aclrWaits : EngineOp := opOf (.aclr h0 (xb 0 0 0)) 2 .waiting
def mmaWaits : EngineOp := opOf (.mma h0 { xb 0 1 0 with acc := 9 }) 0 .waiting
theorem witness_Accept : acceptB (withOp aclrWaits) aclrWaits (fun w r po => !po && (acceptFault (withOp aclrWaits) w aclrWaits r).isNone) = true
    ∧ (withOp aclrWaits).queueRoom aclrWaits = true
    ∧ acceptB (recorded copyIn) copyIn (fun w r po => !po && (acceptFault (recorded copyIn) w copyIn r).isNone) = true
    ∧ (recorded copyIn).queueRoom copyIn = true
    ∧ acceptB (withOp mmaWaits) mmaWaits (fun w r po => !po && (acceptFault (withOp mmaWaits) w mmaWaits r).isSome) = true
    ∧ acceptB { recorded copyIn with poison := [0x1005] } copyIn (fun _ _ po => po) = true := by decide +kernel
/-- The TENSOR of the COPY has been revoked: its header's state is no longer 0 (R432). -/
theorem witness_DeadTensor : (match ((recorded copyIn).poke 0x10001 1 1).wg? copyIn.wg with
    | some w => (match ((recorded copyIn).poke 0x10001 1 1).tensorAt copyIn (leadTensor w copyIn).objPa with | (_, .error x) => x == (cTAG, 0) | _ => false)
      && copyIn.needsRecord && copyIn.readiness w == .ready && !((recorded copyIn).poke 0x10001 1 1).accessBefore copyIn
    | none => false) = true := by decide +kernel
/-- Nothing is before the operation; an MMAK's table is read from its record. -/
def mmak0 : EngineOp := opOf (.mmak h0 (xb 0 1 0)) 0 .queued
def unreceived : EngineOp := { opOf (.copym h0 { xb 2 0 0 with acc := 0 }) 3 .queued with todo := [] }
theorem witness_StartUnreceived : (withOp unreceived).op? 70 = some unreceived ∧ unreceived.code = 0x1C6 ∧ unreceived.todo = []
    ∧ (withOp unreceived).earlierOps unreceived = [] := by decide +kernel
theorem witness_Start : (withOp mmak0).earlierOps mmak0 = [] ∧ (opOf (.mma h0 (xb 0 1 0)) 0 .queued).code ≠ 0x1C8 ∧ mmak0.code = 0x1C8
    ∧ (match (withOp mmak0).loadCodebook mmak0 rec0.cbook with | (u, .ok _) => u.ops == (withOp mmak0).ops | _ => false) = true := by decide +kernel
/-- Nothing looks again. -/
def calmB (s : State) (wg : Nat) : Bool := s.hallEvents.isEmpty && noPollsB s && s.ops.all fun o => o.wg != wg || o.phase != .waiting
theorem calm_of {s : State} {wg : Nat} (h : calmB s wg = true) : Calm s wg := by
  simp only [calmB, Bool.and_eq_true, List.isEmpty_iff, List.all_eq_true, Bool.or_eq_true, bne_iff_ne] at h
  exact ⟨h.1.1, noPolls_of h.1.2, fun o ho e => (h.2 o ho).resolve_left (fun f => f e)⟩
def drain0 : EngineOp := { opOf (.adrain h0 (xb 3 0 0)) 2 .running with record := none }
theorem witness_Drain : completingB (withOp drain0) 0x1CC drain0 = true ∧ drain0.bit12 = false ∧ drain0.todo = []
    ∧ namings drain0 drain0.body.ta.toNat false = 0 ∧ canonicalB (withOp drain0) = true ∧ calmB (withOp drain0) wg0 = true
    ∧ (opOf (.adrain h0 (xb 3 0 1)) 2 .running).bit12 = true := by decide +kernel
theorem test_aclr : ran (exec .aclrComplete (withOp (opOf (.aclr h0 (xb 0 0 0)) 2 .running))) (fun t => t.ops.isEmpty
    && t.wgs.any fun w => (w.accTile 8).data == List.replicate 4096 0) = true := by decide +kernel

/-- Copies: a tile from memory and to memory, memory to memory, and a receiver of a multicast. -/
def toTile : EngineOp := opOf (.copy h0 { xb 3 0 0 with acc := 0 }) 3 .running
def toMem : EngineOp := opOf (.copy h0 { xb 0 0 1 with acc := 0 }) 3 .running
def memMem : EngineOp := { opOf (.copy h0 { xb 0 0 2 with acc := 0 }) 3 .running with slices := [[0, 0, 16, 0]] }
def multicast : EngineOp := { opOf (.copym h0 { xb 2 0 0 with acc := 0 }) 3 .running with todo := [wg0] }
def gatherB (o : EngineOp) : Bool :=
  match (withOp o).wg? wg0 with
  | some w => match State.gather o rec0 w (w.tile o.body.ta.toNat) (tileCells (w.tile o.body.ta.toNat)) (withOp o) [] (0, 0) with
    | (u, .ok (_, vr, vc)) => u.wgs == (withOp o).wgs && canonicalB u && calmB u wg0 && decide (vr ≤ 256 ∧ vc ≤ 256)
    | _ => false
  | none => false
def scatterOf (t : TensorRec) : Option (Option (BitVec 8 × DWord)) :=
  ((withOp toMem).wg? wg0).bind fun w =>
    match State.scatter toMem t w (w.tile 0) ((tileCells (w.tile 0)).filter fun x => x.1 < tVrows (w.tile 0) && x.2 < tVcols (w.tile 0))
      (withOp toMem) with
    | (u, x) => if calmB u wg0 && u.ops == (withOp toMem).ops && u.wgs == (withOp toMem).wgs then some x else none
theorem witness_CopyIn : toTile.copyKind = 0 ∧ completingB (withOp toTile) 0x1C5 toTile = true ∧ gatherB toTile = true := by decide +kernel
theorem witness_CopyOut : toMem.copyKind = 1 ∧ completingB (withOp toMem) 0x1C5 toMem = true ∧ scatterOf rec0 = some none := by decide +kernel
theorem witness_CopyFails : (scatterOf { rec0 with data := .null }).any Option.isSome = true := by decide +kernel
theorem witness_CopyMem : memMem.copyKind = 2 ∧ completingB (withOp memMem) 0x1C5 memMem = true
    ∧ (State.moveSlices memMem rec0 memMem.slices (withOp memMem)).2.isNone = true
    ∧ calmB (State.moveSlices memMem rec0 memMem.slices (withOp memMem)).1 wg0 = true := by decide +kernel
/-- A stamp at 0x10F00, and the access to it. -/
theorem witness_CopyStamp : (match (State.moveSlices memMem rec0 memMem.slices (withOp memMem)).1.engineAccess memMem (Cap.make 0x10F00 8 0xBFF 0) 0x10F00
      { perms := [pSTORE], n := 8, align := 8, need := { w := true } } with
    | (v, .ok p) => canonicalB v && v.copies.isEmpty && !v.peekPoison (p.pas.headD 0) 8
    | _ => false) = true ∧ memMem.stampScope rec0 < 3 := by decide +kernel
def filling : EngineOp := { multicast with begun := [wg0] }
/-- The receiver is another workgroup than the issuer's, with the same tiles, of which tile 2 is FILLING. -/
def receiving (o : EngineOp) : State :=
  onWgs (fun w => { w with tiles := w.tiles.set 2 (setState oneByOne tFILLING) }) (withOp o)
theorem witness_Multicast : multicast.code = 0x1C6 ∧ (withOp multicast).op? (withOp multicast).ev.who = some multicast
    ∧ ((withOp multicast).wg? (withOp multicast).ev.arg).any (fun x => multicast.todo.contains x.id && !multicast.begun.contains x.id
        && !x.spilled && decide (multicast.body.ta.toNat < x.tiles.length) && !multicast.unsuited rec0 (x.tile multicast.body.ta.toNat)
        && tState (x.tile multicast.body.ta.toNat) == tEMPTY) = true
    ∧ (receiving filling).op? (receiving filling).ev.who = some filling
    ∧ ((receiving filling).wg? (receiving filling).ev.arg).any (fun x => filling.todo == [x.id] && filling.begun.contains x.id
        && !filling.acked.contains x.id && !filling.unsuited rec0 (x.tile filling.body.ta.toNat) && x.anyLive && x.id == filling.wg
        && (match State.readSource filling rec0 ((tileCells (x.tile filling.body.ta.toNat)).filter fun c =>
            rec0.inside ((elementOf filling.slices c.1 c.2).getD [])) (receiving filling) [] with
          | (u, .ok src) => u.wgs == (receiving filling).wgs && u.ops == [filling] && calmB u wg0 && canonicalB u && src.length == 1
          | _ => false)) = true := by decide +kernel
/-- The first delivery makes the tile FILLING, the second READY, and the operation ends with its only receiver. -/
theorem test_multicast : ran (exec .copymDelivery (withOp multicast)) (fun t => t.wgs.all (fun w => tState (w.tile 2) == tFILLING)
      && t.ops == [filling]) = true
    ∧ ran (exec .copymDelivery (receiving filling)) (fun t => t.wgs.all (fun w => tState (w.tile 2) == tREADY) && t.ops.isEmpty) = true := by
  decide +kernel
def rowDrain : EngineOp := { opOf (.adrain h0 (xb 3 0 1)) 2 .running with todo := [0, 63] }
def addDrain : EngineOp := { opOf (.adrain h0 { xb 3 0 1 with flags := 2 }) 2 .running with todo := [0, 63] }
theorem witness_DrainRows : rowDrain.code = 0x1CC ∧ 0 ∈ rowDrain.todo ∧ rowDrain.adds = false ∧ addDrain.adds = true ∧ addDrain.code = 0x1CC
    ∧ (match (withOp rowDrain).wg? wg0 with
      | some w => (State.drainRow rowDrain rec0 w 0 (List.range 64) (withOp rowDrain)).1.ops == [rowDrain]
      | none => false) = true := by decide +kernel

/-- A failed operation, before and after its message, of a workgroup with live threads and of one without; a failed multicast. -/
def failed0 : EngineOp := { toTile with fault := some (2, 0x10000) }
def faulted0 : EngineOp := { failed0 with phase := .faulted }
def faultedCast : EngineOp := { multicast with fault := some (2, 0x10000), phase := .faulted, bad := [wg0] }
def unmanned : State := onThreads (fun t => { t with status := .ended }) (withOp failed0)
def answered (o : EngineOp) (x : Word) : State := { withOp o with reqs := [{ reply0 x with who := .engine 70 }] }
theorem witness_EngineFault : (withOp failed0).op? 70 = some failed0 ∧ failed0.phase = .running ∧ failed0.code ≠ 0x1CC
    ∧ (withOp failed0).launch? failed0.launch = some dealt0 ∧ rowDrain.todo ≠ [] ∧ failed0.begun = [] ∧ filling.begun ≠ []
    ∧ ((withOp failed0).wg? wg0).any Workgroup.anyLive = true ∧ (unmanned.wg? wg0).any (fun w => !w.anyLive) = true
    ∧ unmanned.op? 70 = some failed0 := by decide +kernel
/-- One stopped by a teardown, and one that had sent its message when its workgroup's last thread ended. -/
theorem witness_EngineTeardown : (withOp { failed0 with fault := some (cTEARDOWN, 0x10000) }).op? 70 = some { failed0 with fault := some (cTEARDOWN, 0x10000) }
    ∧ ({ unmanned with ops := [faulted0] } : State).op? 70 = some faulted0 ∧ faulted0.bad = []
    ∧ (({ unmanned with ops := [faulted0] } : State).wg? wg0).any (fun w => !w.anyLive && !w.spilled) = true := by decide +kernel
theorem witness_EngineFaultReply : faulted0.phase = .faulted ∧ faulted0.bad = [] ∧ faultedCast.code = 0x1C6
    ∧ [faulted0, faultedCast].all (fun o => ([0, 1, 7] : List Word).all fun x =>
      let s := answered o x
      decide (s.op? s.ev.who = some o) && (s.reqs.find? (fun r => r.who == .engine 70)) == some { reply0 x with who := .engine 70 }
        && (s.wg? o.wg).any Workgroup.anyLive && calmB s wg0 && s.wgs.all fun w => !w.spilled) = true := by decide +kernel

/-! Pre-emption. -/

def chosenB (s : State) (core : Nat) (x : Contender) : Bool :=
  match s.contenders core with
  | [(y, _)] => decide (y = x) && !(s.core core).swapRequested && (s.core core).filling.isEmpty && (s.core core).spilling.isNone
    && !(s.core core).fenced && (s.outgoing core).isEmpty && s.slotFor core x && s.fitsSpilled core x
  | _ => false
theorem chosen_of {s : State} {core : Nat} {x : Contender} (h : chosenB s core x = true) : Chosen s core x := by
  unfold chosenB at h
  split at h
  · rename_i y p hc
    simp only [Bool.and_eq_true, decide_eq_true_eq, Bool.not_eq_true', List.isEmpty_iff, Option.isNone_iff_eq_none] at h
    obtain ⟨⟨⟨⟨⟨⟨⟨rfl, h2⟩, h3⟩, h4⟩, h5⟩, h6⟩, h7⟩, h8⟩ := h
    refine ⟨⟨h2, h3, h4, h5⟩, p, by simp [hc], ⟨by simp [h6], h7, h8⟩, ?_⟩
    intro z hz _ hne
    rw [hc, List.mem_singleton] at hz
    exact absurd hz hne
  · cases h

/-- The workgroup saved in slot 0 of core 0, in a bank; its scratchpad spilled. -/
def savedIn (bank : Nat) : State :=
  { base0 with
    ev := .zero
    wgs := base0.wgs.map fun w => { w with bank := bank, life := .suspended, saved := some 0, scrLen := 16, spillScr := some (List.replicate 16 7, [], []) } }
/-- Pre-emption is enabled on die 0 (R415). -/
def slotted : State := asking.setHall 0 { asking.hall 0 with saveslots := 2 }
theorem witness_Preempt : Chosen slotted 0 (.launch 3) ∧ slotted.launch? 3 = some dealt0 ∧ slotted.fitsIn 0 1 (.launch 3) = true
    ∧ Chosen (savedIn 1) 0 (.context 0) ∧ (savedIn 1).bankFor 0 (.context 0) = some 1 ∧ (savedIn 1).fitsIn 0 1 (.context 0) = true
    ∧ (savedIn 1).sweep = none ∧ canonicalB (savedIn 1) = true ∧ ((savedIn 1).contextOf 0 0).length = 1
    ∧ Chosen (savedIn 0) 0 (.context 0) ∧ (savedIn 0).bankFor 0 (.context 0) = some ((savedIn 0).core 0).active
    ∧ ((savedIn 0).wgs.map Workgroup.id).Nodup :=
  ⟨chosen_of (by decide +kernel), by decide +kernel, by decide +kernel, chosen_of (by decide +kernel), by decide +kernel, by decide +kernel,
    by decide +kernel, by decide +kernel, by decide +kernel, chosen_of (by decide +kernel), by decide +kernel, by decide +kernel⟩
theorem test_fill : ran (exec .preemptDecision (savedIn 1)) (fun t => t.wgs.all (fun w => w.saved.isNone) && t.byteAt scratchBase == 7
    && (t.core 0).filling == [wg0]) = true := by decide +kernel

/-- Die 0 has no save slots, and core 0 has a running workgroup. -/
theorem witness_NoSlots : (base0.hall (dieOfCore 0)).saveslots = 0 ∧ base0.outgoing 0 ≠ [] := by decide +kernel

/-- The workgroup in the shadow bank, in a life, with a core's fill, swap or spill. -/
def inShadow (life : Life) (f : Core → Core) : State :=
  { base0 with
    ev := .zero
    cores := [f (Core.fresh 0)]
    wgs := base0.wgs.map fun w => { w with bank := 1, life := life } }
def filled : State := inShadow .loading fun c => { c with filling := [wg0] }
def swapping : State := inShadow .suspended fun c => { c with swapRequested := true }
def spilling0 : State := inShadow .suspended fun c => { c with spilling := some (0, [wg0]) }
/-- Slot 1 of core 0 begins 9 MiB above SAVEBASE (R420): there a capability is saved with its tag (R55). -/
def saving : State := (inShadow .suspended fun c => { c with spilling := some (1, [wg0]) }).setHall 0 { Hall.reset with saveslots := 2, savebase := 0x100000 }
theorem test_saveArea : saving.slotBase 0 1 = 0xA00000
    ∧ (saving.saveCaps 0 0xA00000 [⟨Cap.make 0x10000 0x1000 0xFFF 1, false⟩]).capAt 0xA00000 = Cap.make 0x10000 0x1000 0xFFF 1 := by
  decide +kernel
theorem witness_Fill : (filled.core 0).filling ≠ [] ∧ filled.wgs.all (fun w => (filled.core 0).filling.contains w.id && w.life == .loading) = true := by
  decide +kernel
theorem witness_Swap : SwapDue swapping 0 ∧ swapping.outgoing 0 = [] ∧ (swapping.residents 0 1).all (fun w => w.life == .suspended && w.anyLive
      && w.threads.all fun th => match th.status with | .held h => h.reply.isNone | _ => true) = true ∧ (swapping.residents 0 1).length = 1 := by
  refine ⟨⟨by decide +kernel, by decide +kernel, by decide +kernel, ?_⟩, by decide +kernel, by decide +kernel, by decide +kernel⟩
  have h : ∀ w ∈ swapping.wgs, w.bank = 1 := by decide +kernel
  intro w hw _ hb
  rw [h w hw] at hb
  cases hb
/-- A swap was requested, but nothing can follow. -/
def withdrawn : State := { swapping with wgs := [] }
theorem witness_SwapWithdrawn : withdrawn.contenders 0 = [] ∧ withdrawn.residents 0 1 = [] ∧ (withdrawn.core 0).swapRequested = true := by
  decide +kernel
theorem witness_SpillComplete : (spilling0.core 0).spilling = some (0, [wg0]) ∧ ([wg0] : List Nat).Nodup
    ∧ (spilling0.wg? wg0).any (fun w => w.life == .suspended && decide ((w.threads.map Thread.tid).Nodup)
      && (w.thread? 0).any fun th => th.live && (spilling0.liveBlock w th).isSome) = true := by decide +kernel
theorem test_swap : ran (exec .bankSwap swapping) (fun t => (t.core 0).active == 1 && t.wgs.all fun w => w.life == .running) = true := by
  decide +kernel

/-! Revocation. -/

/-- A sweep of 2 MiB from 0 marks the granule 0x1000 (address 0x10000), in a phase; the REVOKER stands at 0x20000. -/
def sweep0 (phase notify : Nat) (waiting : List Nat) : Sweep :=
  { phase := phase, scanned := true, rlo := 0, rlen := 0x200000, marked := [0x1000], pod := false, notify := notify, bit := 31, waiting := waiting }
def sweeping (w : Sweep) : State :=
  { (((withObj 3).poke 0x20000 8 (10 + 0x100 * 0x10000)).putCap 0x30000 dataCap false) with
    sweep := some w
    revoker := some 0x20000
    th := { State.reset.th with roots := [dataCap] }
    launches := [dealt0] }
theorem witness_Sweeps : (sweep0 1 0 []).marked.Pairwise (· < ·) ∧ canonicalB (sweeping (sweep0 1 0 [])) = true
    ∧ noPollsB (sweeping (sweep0 1 0 [])) = true ∧ (sweeping (sweep0 1 0 [])).hallEvents = []
    ∧ (sweeping (sweep0 4 0 [])).revoker = some 0x20000 ∧ (sweeping (sweep0 4 0 [])).passes = [] ∧ (sweeping (sweep0 4 0 [])).hallEvents = []
    ∧ (sweep0 5 0 [0]).waiting = [(sweeping (sweep0 5 0 [0])).ev.who]
    ∧ (sweep0 4 0 [1]).waiting ≠ []
    ∧ (∃ p ∈ (sweep0 5 0 [1]).waiting, p ≠ (sweeping (sweep0 5 0 [1])).ev.who) := by decide +kernel
/-- The completion bit of a sweep goes to the notification at 0x10000, of one without a notification to none. -/
theorem witness_SignalFree : SignalFree (sweeping (sweep0 4 0x10000 [])) (sweep0 4 0x10000 [])
    ∧ SignalFree (sweeping (sweep0 5 0x10000 [0])) (sweep0 5 0x10000 [0]) ∧ SignalFree (sweeping (sweep0 4 0 [])) (sweep0 4 0 [])
    ∧ (sweep0 4 0x10000 []).notify ≠ 0 := by
  refine ⟨.inr ⟨by decide +kernel, by decide +kernel, by decide +kernel, by decide +kernel, fun pa h => ?_⟩,
    .inr ⟨by decide +kernel, by decide +kernel, by decide +kernel, by decide +kernel, fun pa h => ?_⟩, .inl rfl, by decide⟩ <;>
  · obtain rfl : 0x20000 = pa := Option.some.inj h
    decide
theorem test_sweep_signals : ran (exec .sweepComplete (sweeping (sweep0 4 0x10000 []))) (fun t => t.peek 0x10010 4 == 2 ^ 31
    && t.peek 0x20010 8 == 1 && t.sweep.isNone) = true := by decide +kernel
/-- The register phase clears the tag of a capability of the marked granule in k1, and keeps its bits. -/
theorem test_sweep_registers : ran (exec .sweepRegisterPhase (sweeping (sweep0 2 0 []))) (fun t => (t.hart? 0).any fun h =>
    h.kr 1 == { dataCap with tag := false } && h.kd == Cap.rootData) = true := by decide +kernel
theorem test_sweep_memory : ran (exec .sweepMemoryPhase (sweeping (sweep0 2 0 []))) (fun t => !t.tagAt 0x30000
    && t.capAt 0x30000 == { dataCap with tag := false }) = true := by decide +kernel
theorem witness_RemotePass : State.reset.sweep = none ∧ ∀ d a, State.reset.copy? d a = none := ⟨rfl, fun _ _ => rfl⟩

/-! Boot. -/

def withTh (f : Threshold → Threshold) : State := { State.reset with th := f State.reset.th }
theorem witness_Boot : State.reset.th.powered = true ∧ State.reset.th.held = false ∧ State.reset.th.step < 10 ∧ State.reset.th.begun = false
    ∧ State.reset.ev.outcome = .ok ∧ ({ Operands.zero with outcome := BootOutcome.failed } : Operands).outcome = .failed
    ∧ (∀ n ∈ [0, 1, 5, 9], (withTh fun t => { t with begun := true, step := n }).th.step = n)
    ∧ (withTh fun t => { t with begun := true, prior := [(0, 2)] }).th.troubled 0 = true
    ∧ (withTh fun t => { t with begun := true }).th.troubled 0 = false
    ∧ (∀ n ∈ [1, 3, 4], (withTh fun t => { t with stage := n }).th.stage = n) := by decide +kernel
/-- Step 8 gives a root port whose link is up no more than 8 selective streams (R454). -/
theorem test_ide_streams : ran (exec .bootStep { withTh (fun t => { t with begun := true, step := 8 }) with
      ev := { Operands.zero with arg := 4, bytes := [1, 1, 0, 0] ++ List.replicate 9 0 ++ [1, 1, 1, 2] } }) (fun t =>
    t.th.step == 9 && (t.th.ideStreams.map IdeStream.port) == List.replicate 8 0 ++ [1, 1, 1])
    = true := by decide +kernel
theorem test_boot_begins : ran (exec .bootStep State.reset) (fun t => t.th.begun && t.th.log.length == 1 && t.th.step == 0) = true := by
  decide +kernel
theorem test_boot_releases : ran (exec .bootStep (withTh fun t => { t with begun := true, step := 9 })) (fun t =>
    t.harts.all (fun h => h.run == if h.id = 0 then .running else .reset) && t.th.step == 10 && t.th.roots.length == 2) = true := by decide +kernel
theorem test_watchdog : ran (exec .bootWatchdogExpiry (withTh fun t => { t with begun := true, step := 3 })) (fun t =>
    t.th.step == 0 && !t.th.begun && t.th.log.length == 1) = true := by decide +kernel
/-- A corrected and an uncorrectable error of the granule at 0x10000. -/
theorem witness_Ecc : spaceOf 0x10000 = .hbm ∧ spaceOf vaultBase = .vault ∧ spaceOf scratchBase = .scratch ∧ homeOf 0x10000 < 4
    ∧ hEccUncorrectable 3 < State.reset.th.health.length ∧ (withTh fun t => { t with replace := true }).th.replace = true := by decide +kernel
theorem test_ecc : ran (exec .uncorrectableError { withTh (fun t => { t with replace := true }) with ev := { Operands.zero with value := 0x10008 } })
    (fun t => t.poisonAt 0x10000 && t.poisonAt 0x1000F && !t.poisonAt 0x10010) = true := by decide +kernel

/-! The mailbox. -/

/-- A mailbox command in progress, at a stage. -/
def command (cmd stage : Nat) : State := withTh fun t => { t with cmd := BitVec.ofNat 64 cmd, status := 1, stage := stage, arg0 := 0x10000, arg1 := 0x20000 }
theorem witness_Mailbox2 : (∀ c ∈ [1, 2, 3, 0x10, 0x11, 0x12, 0x13, 0x14, 0x15, 0x16, 0x17], (command c 0).th.runs c = true)
    ∧ (command 1 100).th.stage = 100 ∧ (command 1 100).th.pldm = false
    ∧ (∀ n ∈ [1, 2, 3, 4], (command 1 n).th.runs 1 = true ∧ (command 1 n).th.stage = n)
    ∧ (∀ n ∈ [10, 11, 12], (command 2 n).th.runs 2 = true ∧ (command 2 n).th.stage = n ∧ (command 2 n).th.latched = [])
    ∧ (command 1 0).th.flipSeq ≠ 0xFFFFFFFF ∧ 0 < imageLength (command 1 0) ∧ imageLength (command 1 0) ≤ slotSize (command 1 0).th.target
    ∧ (command 1 0).th.arg0.toNat + imageLength (command 1 0) ≤ 2 ^ 39 ∧ (command 3 0).th.arg0.toNat + 2 ^ 20 ≤ 2 ^ 39
    ∧ (command 0x10 0).th.arg1.toNat + 64 ≤ 2 ^ 39 ∧ (command 0x14 0).th.dbgstat = 0 ∧ (command 0x11 0).th.nonce = []
    ∧ ({ (command 0x11 0).th with nonce := [1] } : Threshold).nonce ≠ [] := by decide +kernel
/-- FENCE of the last core, and of a pseudo-channel; REKEY of the pod's other package. -/
def fencing (target : Nat) : State := withTh fun t => { t with cmd := 0x16, status := 1, arg0 := BitVec.ofNat 64 target }
def podded (cmd target : Nat) : State := withTh fun t =>
  { t with cmd := BitVec.ofNat 64 cmd, status := 1, arg0 := BitVec.ofNat 64 target, pkgid := 0x28000 }
theorem witness_Fence : (fencing 1023).th.runs 0x16 = true ∧ (fencing 1023).th.arg0.toNat < 1024 ∧ (fencing 1023).wgs = []
    ∧ (fencing 0x1007F).th.arg0.toNat = 0x10000 + 127 ∧ 127 % 256 < 128
    ∧ (fencing 0x1007F).channelUnmapped 127 = true := by decide +kernel
theorem test_fence : ran (exec .mailboxFence (fencing 1023)) (fun t => (t.core 1023).fenced && t.th.stage == 100 && t.th.result == 0) = true := by
  decide +kernel
theorem test_health : ran (exec .health { command 0x15 0 with th := { (command 0x15 0).th with health := [7, 9] } }) (fun t =>
    t.peek 0x10000 4 == 7 && t.peek 0x10004 4 == 9 && t.th.stage == 100) = true := by decide +kernel

theorem witness_Rekey : (podded 0x17 1).th.runs 0x17 = true ∧ (podded 0x17 1).th.arg0.toNat ∈ (podded 0x17 1).podOthers
    ∧ ((podded 0x17 1).pair 1).down = false ∧ ((podded 0x17 1).pair 1).oldLeft = 0 := by decide +kernel
theorem test_rekey : ran (exec .rekey (podded 0x17 1)) (fun t => (t.pair 1).out.epoch == 1 && (t.pair 1).inn.phase && t.th.outbox == [.rotation 1]
    && (t.pair 1).out.seq == 1) = true := by
  decide +kernel

/-- A checkpoint command with the descriptor at 0x10000 and a fleet root. -/
def checkpointing (cmd stage : Nat) : State :=
  (((({ command cmd stage with th := { (command cmd stage).th with fleetRoot := some 5 } } : State).poke 0x10000 8 0x400000).poke 0x10008 8
    0x800000).poke 0x10010 8 134272).poke 0x10018 8 0xC00000
theorem witness_Checkpoint : (checkpointing 0x12 0).th.runs 0x12 = true ∧ (checkpointing 0x12 0).th.fleetRoot = some 5
    ∧ (checkpointing 0x12 0).descriptorOk = true ∧ (checkpointing 0x12 0).th.dbgstat = 0 ∧ (checkpointing 0x12 0).ops = []
    ∧ (checkpointing 0x12 0).wgs = [] ∧ canonicalB (checkpointing 0x12 0) = true
    ∧ (∀ i ∈ [0, 134271, 134272], (checkpointing 0x12 (1000 + i)).th.stage = 1000 + i)
    ∧ (checkpointing 0x12 135272).th.latched = [] ∧ (checkpointing 0x13 0).th.runs 0x13 = true
    ∧ (∀ i ∈ [0, 131071], (checkpointing 0x13 (1000 + i)).th.stage = 1000 + i)
    ∧ ((checkpointing 0x13 1000).peek 0x10018 8 + 2 ^ 20 ≤ 131071 * 2 ^ 22) := by decide +kernel
theorem witness_CheckpointCount : (checkpointing 0x12 0).checkpoint.count = 134272 := by
  unfold State.checkpoint
  decide +kernel

/-! What reaches the package. -/

/-- A remote capability of this package's page at 0x10000, and an access of package 1 with it. -/
def remoteCap : Cap := { dataCap with otype := BitVec.ofNat 18 0x20000 }
def remoteAsk (kind : Nat) (c : Cap) : State :=
  { mapped (withTh fun t => { t with pkgid := 0 }) with
    ev := { Operands.zero with who := 1, arg := kind, value := 0x10000, value2 := 0x0000000700000004, cap := c, bytes := [1, 2, 3, 4] } }
def remoteB (kind : Nat) (sp : AccessSpec) : Bool :=
  match checkAccess (remoteAsk kind remoteCap) (remoteSeat 0) { remoteCap with otype := 0 } 0 0x10000 sp with
  | (u, .ok p) => !isOutside p.pas && u.th == (remoteAsk kind remoteCap).th && u.copies.isEmpty && canonicalB u && u.hallEvents.isEmpty
    && u.reqs.isEmpty && p.pas.all (fun a => !u.poisonAt a)
  | _ => false
theorem witness_Remote : ((remoteAsk 0 remoteCap).pair 1).down = false ∧ remoteCap.remote = true ∧ remoteCap.source = (remoteAsk 0 remoteCap).ownPkg
    ∧ ({ remoteCap with otype := 0 } : Cap).valid = true ∧ (remoteAsk 0 remoteCap).sweep = none
    ∧ remoteB 0 { perms := [pLOAD], n := 4, align := 4 } = true ∧ remoteB 1 { perms := [pSTORE], n := 4, align := 4, need := { w := true } } = true
    ∧ (remoteAsk 0 dataCap).ev.cap.remote = false := by decide +kernel
theorem test_remote_store : ran (exec .remoteAccessRequest (remoteAsk 1 remoteCap)) (fun t => t.peek 0x10000 4 == 0x04030201
    && t.th.outbox == [.remoteReply 1 7 [] none none 0 0]) = true := by decide +kernel

/-- The same of 16 bytes (R105). -/
def remoteAsk16 (kind : Nat) : State :=
  { remoteAsk kind remoteCap with ev := { (remoteAsk kind remoteCap).ev with value2 := 0x0000000700000010, bytes := List.replicate 16 9 } }
theorem witness_RemoteHalf : (remoteAsk16 0).ev.value2.toNat % 256 = 16 ∧ (match checkAccess (remoteAsk16 0) (remoteSeat 0) { remoteCap with otype := 0 } 0 0x10000
      { perms := [pLOAD], n := 16, align := 16 } with
    | (u, .ok p) => !isOutside p.pas && u.th == (remoteAsk16 0).th && u.copies.isEmpty && canonicalB u && u.hallEvents.isEmpty
      && u.reqs.isEmpty && (p.pas.take 8).all (fun a => !u.poisonAt a)
    | _ => false) = true := by decide +kernel
theorem test_remote_half : ran (exec .remoteAccessRequest (remoteAsk16 1)) (fun t => t.byteAt 0x10007 == 9 && t.byteAt 0x10008 == 0
    && t.th.outbox.isEmpty) = true := by decide +kernel

def pairOf (f : Pair → Pair) : State :=
  { withTh (fun t => { t with pairs := [f (.fresh 1)] }) with ev := { Operands.zero with who := 1, ok := false } }
def failedOnce (p : Pair) : Pair := { p with failed := [0] }
def manyFlits (p : Pair) : Pair := { p with out := { p.out with seq := 2 ^ 47 } }
theorem witness_Fabric : ((pairOf id).pair 1).down = false ∧ (pairOf id).ev.value = 0 ∧ ((pairOf id).ev.arg % 2 == 1) = ((pairOf id).pair 1).inn.phase
    ∧ ((pairOf id).pair 1).failed = [] ∧ (pairOf id).ev.bytes = [] ∧ ((pairOf failedOnce).pair 1).failed = [0]
    ∧ 2 ^ 47 ≤ ((pairOf manyFlits).pair 1).out.seq ∧ ((pairOf manyFlits).pair 1).oldLeft = 0
    ∧ ({ pairOf id with ev := { (pairOf id).ev with ok := true } } : State).ev.ok = true ∧ ((pairOf id).pair 1).oldLeft = 0
    ∧ ((pairOf fun p => { p with oldLeft := 1 }).pair 1).oldLeft = 1 := by decide +kernel
theorem test_peer_rotates : ran (exec .keyRotationStart { pairOf id with ev := { (pairOf id).ev with ok := true } })
    (fun t => (t.pair 1).out.epoch == 1 && (t.pair 1).inn.phase && t.th.outbox.isEmpty) = true := by decide +kernel
theorem test_flit_fails_twice : ran (exec .flitReceive (pairOf failedOnce)) (fun t => (t.pair 1).down) = true
    ∧ ran (exec .flitReceive (pairOf id)) (fun t => !(t.pair 1).down && (t.pair 1).failed == [0]) = true := by decide +kernel

/-- A line's interrupt source at 0x20000 names bit 31 of the notification at 0x10000. -/
def lined (line : Nat) (o : Operands) : State :=
  { ((((withObj 3).poke 0x20000 8 (6 + 0x40 * 0x10000)).poke 0x20018 8 0x10000).poke 0x20020 4 31) with lines := [(line, 0x20000)], ev := o }
theorem line_of {s : State} {line : Nat} (h : (s.lines.find? fun l => l.1 == line) = some (line, 0x20000) ∧ s.objLive 0x20000 6 = true
    ∧ s.peek (0x20000 + 24) 8 = 0x10000 ∧ s.objLive 0x10000 3 = true ∧ s.noteWaiting 0x10000 = [] ∧ s.peek (0x10000 + 24) 4 < 2 ^ 31
    ∧ s.peek (0x20000 + 32) 4 < 32) : LineBound s line 0x20000 0x10000 :=
  ⟨h.1, h.2.1, h.2.2.1, h.2.2.2.1, ⟨h.2.2.2.2.1, h.2.2.2.2.2.1⟩, h.2.2.2.2.2.2⟩
theorem witness_Lines : LineBound (lined 23 { Operands.zero with who := 23 }) 23 0x20000 0x10000 ∧ LineBound (lined 0 .zero) 0 0x20000 0x10000
    ∧ LineBound (lined 3 { Operands.zero with arg := 3, ok := true }) 3 0x20000 0x10000 ∧ canonicalB (lined 3 .zero) = true
    ∧ 0 < (lined 3 .zero).th.rootPorts :=
  ⟨line_of (by decide +kernel), line_of (by decide +kernel), line_of (by decide +kernel), by decide +kernel, by decide +kernel⟩
theorem test_line : ran (exec .irqLineAssert (lined 23 { Operands.zero with who := 23 })) (fun t => t.peek 0x10010 4 == 2 ^ 31) = true := by
  decide +kernel

/-- Port 0's link is up and the IOMMU bare; a write of four bytes at 0x10000, and a read. -/
def inbound (o : Operands) : State := { withTh (fun t => { t with links := [true, false, false, false], iommu := ⟨1, 0, 0, 0, false⟩ }) with ev := o }
def dmaWrite : Operands := { Operands.zero with value := 0x10000, bytes := [1, 2, 3, 4], ok := true }
def dmaRead : Operands := { Operands.zero with value := 0x10000, arg2 := 4 }
/-- The IOMMU has a directory at 0x40000 and a fault queue of 4 records at 0x50000. -/
def translated (o : Operands) : State :=
  { inbound o with th := { (inbound o).th with iommu := ⟨0x40 * 1024 + 3, 0x50 * 1024 + 1, 0, 0, false⟩ } }
theorem witness_Inbound : (inbound dmaWrite).ev.who < (inbound dmaWrite).th.rootPorts ∧ (inbound dmaWrite).th.links.getD 0 false = true
    ∧ (inbound dmaWrite).iommu 0 none 0x10000 true = (inbound dmaWrite, .memory 0x10000)
    ∧ (inbound dmaRead).iommu 0 none 0x10000 false = (inbound dmaRead, .memory 0x10000)
    ∧ (inbound dmaWrite).inboundOk 0 [0x10000, 0x10001, 0x10002, 0x10003] = true ∧ isOutside [0x10000, 0x10001, 0x10002, 0x10003] = false
    ∧ (inbound { dmaWrite with value := 0x9000000000 }).inboundOk 0 [0x9000000000] = false
    ∧ (inbound dmaWrite).inboundOk 0 [0x10000000000] = false ∧ (translated dmaWrite).iommu 0 none 0x10000 true = (translated dmaWrite, .fault 258)
    ∧ canonicalB (translated dmaWrite) = true ∧ canonicalB (inbound dmaWrite) = true ∧ (∀ a ∈ [0x10000, 0x10001], (inbound dmaRead).poisonAt a = false)
    ∧ (inbound dmaWrite).hallEvents = [] ∧ (inbound dmaWrite).reqs = [] := by decide +kernel
theorem test_inbound_write : ran (exec .inboundDma (inbound dmaWrite)) (fun t => t.peek 0x10000 4 == 0x04030201) = true := by decide +kernel
theorem test_inbound_read : ran (exec .inboundDma (inbound dmaRead)) (fun t => t.th.outbox == [.readCompletion 0x10000 [0, 0, 0, 0]]) = true := by
  decide +kernel
/-- The context of requester 65 at 0x41040 has a flat MSI page table at 0x42000, whose entry 1 names hart 23's file. -/
def msiTables (o : Operands) : State :=
  ((((((translated o).poke 0x40008 8 (0x41 * 1024 + 1)).poke 0x41040 8 1).poke 0x41060 8 (2 ^ 60 + 0x42)).poke 0x41068 8 1).poke 0x41070 8
    0x12344).poke 0x42010 8 (0x9001017 * 1024 + 7)
def msi : Operands := { Operands.zero with value := 0x12345000, arg := 65, arg2 := 255 }
theorem witness_Msi : (msiTables msi).iommu 65 none 0x12345000 true = (msiTables msi, .msi (0x9001000000 + 4096 * 23))
    ∧ (msiTables msi).ev = msi ∧ msi.arg % 2 ^ 16 = 65 ∧ pasidOf msi.value2 = none ∧ (msiTables msi).hallEvents = []
    ∧ ((msiTables msi).hart? 23).isSome = true ∧ 1 ≤ msi.arg2 ∧ msi.arg2 ≤ 255 ∧ msi.who < (msiTables msi).th.rootPorts := by decide +kernel
theorem test_msi : ran (exec .inboundMsi (msiTables { msi with arg2 := 1 })) (fun t =>
    (t.hart? 23).any fun h => h.mfile.pending == 2) = true := by decide +kernel
/-- A request of a requester without a context is recorded: cause 258, a write, requester 0, its address. -/
theorem test_inbound_fault : ran (exec .inboundDma (translated dmaWrite)) (fun t => t.th.outbox == [.completerAbort 0x10000]
    && t.peek 0x50000 8 == 258 + 3 * 2 ^ 34 && t.peek 0x50010 8 == 0x10000 && t.th.iommu.fqt == 1) = true := by decide +kernel
theorem witness_Management : (∀ a ∈ [0, 2, 5, 6], (inbound { Operands.zero with arg := a }).ev.arg = a) ∧ (inbound .zero).th.powered = true
    ∧ (inbound .zero).th.status ≠ 1 ∧ (inbound .zero).th.pldm = false ∧ (command 1 0).th.status = 1
    ∧ ({ Operands.zero with arg := 2, value := 94 } : Operands).value.toNat = 93 + 1 ∧ (inbound .zero).th.health[93]? = some 0 := by decide +kernel

end Sys2Proof.Tests
end

namespace Sys2Proof.Machine
open Sys2Proof.Safety

/-! Engine operations: what their acceptance, start and completion leave in the tile table, the accumulators and the requests
of the parked fragments (spec/12 R287 to R305). -/

/-! Fields of a tile-table entry. -/

theorem tField_lt (e : DWord) (lo w : Nat) : tField e lo w < 2 ^ w := Nat.mod_lt _ (Nat.two_pow_pos w)

/-- An entry with a field replaced, as a number: what lies below the field, the field, and what lies above it. -/
theorem tSet_toNat (e : DWord) (lo w x : Nat) (h : lo + w ≤ 64) :
    (tSet e lo w x).toNat = e.toNat % 2 ^ lo + 2 ^ lo * (x % 2 ^ w + 2 ^ w * (e.toNat / 2 ^ (lo + w))) := by
  have hlow := Nat.mod_add_div e.toNat (2 ^ lo)
  have hmid := Nat.mod_add_div (e.toNat / 2 ^ lo) (2 ^ w)
  rw [Nat.div_div_eq_div_mul, ← Nat.pow_add] at hmid
  have hx := Nat.mod_lt x (Nat.two_pow_pos w)
  have hl := Nat.mod_lt e.toNat (Nat.two_pow_pos lo)
  have htop : e.toNat / 2 ^ (lo + w) < 2 ^ (64 - (lo + w)) := by
    rw [Nat.div_lt_iff_lt_mul (Nat.two_pow_pos _), ← Nat.pow_add, Nat.sub_add_cancel h]; exact e.isLt
  have hsum : e.toNat - tField e lo w * 2 ^ lo + x % 2 ^ w * 2 ^ lo
      = e.toNat % 2 ^ lo + 2 ^ lo * (x % 2 ^ w + 2 ^ w * (e.toNat / 2 ^ (lo + w))) := by
    have : e.toNat = e.toNat % 2 ^ lo + 2 ^ lo * (2 ^ w * (e.toNat / 2 ^ (lo + w))) + tField e lo w * 2 ^ lo := by
      calc e.toNat = e.toNat % 2 ^ lo + 2 ^ lo * (tField e lo w + 2 ^ w * (e.toNat / 2 ^ (lo + w))) := by
            unfold tField; rw [hmid, hlow]
        _ = _ := by rw [Nat.mul_add, Nat.mul_comm (tField e lo w)]; omega
    have hcut : e.toNat - tField e lo w * 2 ^ lo = e.toNat % 2 ^ lo + 2 ^ lo * (2 ^ w * (e.toNat / 2 ^ (lo + w))) := by omega
    rw [hcut, Nat.mul_add _ (x % 2 ^ w), Nat.mul_comm (x % 2 ^ w)]; omega
  have hbound : e.toNat % 2 ^ lo + 2 ^ lo * (x % 2 ^ w + 2 ^ w * (e.toNat / 2 ^ (lo + w))) < 2 ^ 64 := by
    have h1 : x % 2 ^ w + 2 ^ w * (e.toNat / 2 ^ (lo + w)) < 2 ^ w * 2 ^ (64 - (lo + w)) := by
      calc _ < 2 ^ w * (e.toNat / 2 ^ (lo + w) + 1) := by rw [Nat.mul_add]; omega
        _ ≤ _ := Nat.mul_le_mul_left _ htop
    calc _ < 2 ^ lo * (x % 2 ^ w + 2 ^ w * (e.toNat / 2 ^ (lo + w)) + 1) := by rw [Nat.mul_add _ _ 1]; omega
      _ ≤ 2 ^ lo * (2 ^ w * 2 ^ (64 - (lo + w))) := Nat.mul_le_mul_left _ h1
      _ = 2 ^ 64 := by rw [← Nat.pow_add, ← Nat.pow_add]; congr 1; omega
  unfold tSet
  rw [hsum, BitVec.toNat_ofNat, Nat.mod_eq_of_lt hbound]

theorem tField_tSet (e : DWord) (lo w x : Nat) (h : lo + w ≤ 64) : tField (tSet e lo w x) lo w = x % 2 ^ w := by
  unfold tField
  rw [tSet_toNat e lo w x h, Nat.add_mul_div_left _ _ (Nat.two_pow_pos lo),
    Nat.div_eq_of_lt (Nat.mod_lt _ (Nat.two_pow_pos lo)), Nat.zero_add, Nat.add_mul_mod_self_left, Nat.mod_mod]

theorem tField_tSet_below (e : DWord) {lo w lo' w' : Nat} (x : Nat) (h : lo + w ≤ 64) (hb : lo' + w' ≤ lo) :
    tField (tSet e lo w x) lo' w' = tField e lo' w' := by
  have key (n : Nat) : n / 2 ^ lo' % 2 ^ w' = n % 2 ^ lo % 2 ^ (lo' + w') / 2 ^ lo' := by
    rw [Nat.mod_mod_of_dvd _ (Nat.pow_dvd_pow 2 hb), Nat.pow_add, Nat.mod_mul_right_div_self]
  unfold tField
  rw [key, key e.toNat, tSet_toNat e lo w x h, Nat.add_mul_mod_self_left, Nat.mod_mod]

theorem tField_tSet_above (e : DWord) {lo w lo' w' : Nat} (x : Nat) (h : lo + w ≤ 64) (ha : lo + w ≤ lo') :
    tField (tSet e lo w x) lo' w' = tField e lo' w' := by
  have key (n : Nat) : n / 2 ^ lo' = n / 2 ^ lo / 2 ^ w / 2 ^ (lo' - (lo + w)) := by
    rw [Nat.div_div_eq_div_mul, Nat.div_div_eq_div_mul, ← Nat.pow_add, ← Nat.pow_add, ← Nat.add_assoc, Nat.add_sub_cancel' ha]
  unfold tField
  rw [key, tSet_toNat e lo w x h, Nat.add_mul_div_left _ _ (Nat.two_pow_pos lo),
    Nat.div_eq_of_lt (Nat.mod_lt _ (Nat.two_pow_pos lo)), Nat.zero_add, Nat.add_mul_div_left _ _ (Nat.two_pow_pos w),
    Nat.div_eq_of_lt (Nat.mod_lt _ (Nat.two_pow_pos w)), Nat.zero_add, Nat.div_div_eq_div_mul, ← Nat.pow_add,
    Nat.add_sub_cancel' ha]

@[simp] theorem tState_setState (e : DWord) (x : Nat) : tState (setState e x) = x % 8 := tField_tSet e 61 3 x (by decide)
@[simp] theorem tReaders_setState (e : DWord) (x : Nat) : tReaders (setState e x) = tReaders e :=
  tField_tSet_below e x (by decide) (by decide)
@[simp] theorem tVrows_setState (e : DWord) (x : Nat) : tVrows (setState e x) = tVrows e :=
  tField_tSet_below e x (by decide) (by decide)
@[simp] theorem tVcols_setState (e : DWord) (x : Nat) : tVcols (setState e x) = tVcols e :=
  tField_tSet_below e x (by decide) (by decide)
@[simp] theorem tReaders_setReaders (e : DWord) (x : Nat) : tReaders (setReaders e x) = x % 32 := tField_tSet e 56 5 x (by decide)
@[simp] theorem tState_setReaders (e : DWord) (x : Nat) : tState (setReaders e x) = tState e :=
  tField_tSet_above e x (by decide) (by decide)
@[simp] theorem tVcols_setValid (e : DWord) (r c : Nat) : tVcols (setValid e r c) = c % 512 := tField_tSet _ 47 9 c (by decide)
@[simp] theorem tVrows_setValid (e : DWord) (r c : Nat) : tVrows (setValid e r c) = r % 512 :=
  (tField_tSet_below _ c (by decide) (by decide)).trans (tField_tSet e 38 9 r (by decide))

theorem releaseReader_eq (e : DWord) :
    releaseReader e = if tState e = tDRAINING ∧ tReaders e ≤ 1 then setState (setReaders e (tReaders e - 1)) tEMPTY
      else setReaders e (tReaders e - 1) := by
  simp only [releaseReader, tState_setReaders, Nat.sub_eq_zero_iff_le]

theorem readerDone_releaseReader (e : DWord) : readerDone e (releaseReader e) := by
  have hr : tReaders e < 32 := tField_lt e 56 5
  have hmod : (tReaders e - 1) % 32 = tReaders e - 1 := Nat.mod_eq_of_lt (by omega)
  unfold readerDone
  rw [releaseReader_eq]
  split
  · exact ⟨by rw [tReaders_setState, tReaders_setReaders, hmod], by rw [tState_setState]; rfl⟩
  · exact ⟨by rw [tReaders_setReaders, hmod], by rw [tState_setReaders]⟩

/-! Tiles and accumulators of a workgroup. -/

theorem setTile_tile (w : Workgroup) (m n : Nat) (e : DWord) :
    (w.setTile m e).tile n = if m = n ∧ n < w.tiles.length then e else w.tile n := by
  simp only [Workgroup.setTile, Workgroup.tile, List.getD_eq_getElem?_getD, List.getElem?_set]
  by_cases h : m = n
  · subst h; by_cases hl : m < w.tiles.length <;> simp [hl]
  · simp [h]

theorem setAcc_accTile (w : Workgroup) (m n : Nat) (a : AccTile) :
    (w.setAcc m a).accTile n = if m = n ∧ n < w.accs.length then a else w.accTile n := by
  simp only [Workgroup.setAcc, Workgroup.accTile, List.getD_eq_getElem?_getD, List.getElem?_set]
  by_cases h : m = n
  · subst h; by_cases hl : m < w.accs.length <;> simp [hl]
  · simp [h]

theorem tile_outside {w : Workgroup} {n : Nat} (h : w.tiles.length ≤ n) : w.tile n = 0 := by
  simp [Workgroup.tile, List.getD_eq_getElem?_getD, h]

/-- Every named tile's entry changed by `f`, in the order of the names. -/
def updateTiles (f : Nat × Bool → DWord → DWord) (ts : List (Nat × Bool)) (w : Workgroup) : Workgroup :=
  ts.foldl (fun w x => w.setTile x.1 (f x (w.tile x.1))) w

theorem updateTiles_fields (f : Nat × Bool → DWord → DWord) (ts : List (Nat × Bool)) (w : Workgroup) :
    updateTiles f ts w = { w with tiles := (updateTiles f ts w).tiles } := by
  induction ts generalizing w with
  | nil => rfl
  | cons x ts ih =>
    show updateTiles f ts (w.setTile x.1 (f x (w.tile x.1))) = _
    rw [ih]; rfl

theorem updateTiles_length (f : Nat × Bool → DWord → DWord) (ts : List (Nat × Bool)) (w : Workgroup) :
    (updateTiles f ts w).tiles.length = w.tiles.length := by
  induction ts generalizing w with
  | nil => rfl
  | cons x ts ih =>
    show (updateTiles f ts (w.setTile x.1 (f x (w.tile x.1)))).tiles.length = _
    rw [ih]; simp [Workgroup.setTile]

/-- A tile's entry has changed as often as it is named. -/
theorem updateTiles_tile (f : Nat × Bool → DWord → DWord) (ts : List (Nat × Bool)) (w : Workgroup) {n : Nat}
    (hn : n < w.tiles.length) :
    (updateTiles f ts w).tile n = (ts.filter fun x => x.1 == n).foldl (fun e x => f x e) (w.tile n) := by
  induction ts generalizing w with
  | nil => rfl
  | cons x ts ih =>
    show (updateTiles f ts (w.setTile x.1 (f x (w.tile x.1)))).tile n = _
    rw [ih _ (by simpa [Workgroup.setTile] using hn), setTile_tile]
    by_cases h : x.1 = n
    · subst h; simp [hn]
    · simp [h]

/-- A tile named once, in one way. -/
theorem tiles_named_once {o : EngineOp} {n : Nat} {b : Bool} (h1 : namings o n b = 1) (h0 : namings o n (!b) = 0) :
    o.tiles.filter (fun x => x.1 == n) = [(n, b)] := by
  have split (l : List (Nat × Bool)) : (l.filter fun x => x.1 == n).length
      = (l.filter fun x => x == (n, b)).length + (l.filter fun x => x == (n, !b)).length := by
    induction l with
    | nil => rfl
    | cons x l ih =>
      obtain ⟨m, c⟩ := x
      by_cases hm : m = n
      · subst hm; cases b <;> cases c <;> simp [ih] <;> omega
      · simp [hm, ih]
  obtain ⟨x, hx⟩ := List.length_eq_one_iff.mp ((split o.tiles).trans (by unfold namings at h1 h0; rw [h1, h0]))
  have hmem : x ∈ o.tiles.filter fun x => x.1 == n := by rw [hx]; exact List.mem_singleton.mpr rfl
  obtain ⟨m, c⟩ := x
  obtain ⟨hin, hm⟩ := List.mem_filter.mp hmem
  have hm : m = n := by simpa using hm
  subst hm
  have hc : c = b := by
    refine Decidable.byContradiction fun hne => ?_
    obtain rfl : c = !b := Bool.eq_not.mpr hne
    exact absurd (List.length_eq_zero_iff.mp h0) (List.ne_nil_of_mem (List.mem_filter.mpr ⟨hin, beq_self_eq_true _⟩))
  rw [hx, hc]

/-! What waits and requests leave alone: the tile table, the accumulators, and that a thread lives. -/

/-- Of two states of a workgroup: the tile table and the accumulators are the same, and live threads have not all ended. -/
structure SameUnits (w w' : Workgroup) : Prop where
  id : w'.id = w.id
  tiles : w'.tiles = w.tiles
  accs : w'.accs = w.accs
  live : w.anyLive = true → w'.anyLive = true

theorem SameUnits.refl (w : Workgroup) : SameUnits w w := ⟨rfl, rfl, rfl, fun h => h⟩
theorem SameUnits.trans {a b c : Workgroup} (h1 : SameUnits a b) (h2 : SameUnits b c) : SameUnits a c :=
  ⟨h2.id.trans h1.id, h2.tiles.trans h1.tiles, h2.accs.trans h1.accs, h2.live ∘ h1.live⟩

theorem foldl_sameUnits {α : Type} {f : Workgroup → α → Workgroup} (hf : ∀ w a, SameUnits w (f w a)) (l : List α)
    (w : Workgroup) : SameUnits w (l.foldl f w) :=
  foldl_keeps (SameUnits w) f (fun x a hx => hx.trans (hf x a)) l (SameUnits.refl w)

/-- A change of one thread under which it lives on. -/
theorem modThread_sameUnits (w : Workgroup) (tid : Nat) {f : Thread → Thread} (hf : ∀ t, t.live = true → (f t).live = true) :
    SameUnits w (w.modThread tid f) := by
  have hw := modThread_fields w tid f
  refine ⟨by rw [hw], by rw [hw], by rw [hw], fun h => ?_⟩
  obtain ⟨t, ht, hl⟩ := List.any_eq_true.mp h
  obtain ⟨i, hi, rfl⟩ := List.mem_iff_getElem.mp ht
  unfold Workgroup.anyLive
  rw [modThread_threads, List.any_eq_true]
  refine ⟨(w.threads.modify tid f)[i]'(by simpa using hi), List.getElem_mem _, ?_⟩
  rw [List.getElem_modify]
  split
  · exact hf _ hl
  · exact hl

theorem leave_sameUnits (w : Workgroup) (grp : Nat) (tids : List Nat) : SameUnits w (w.leave grp tids) := by
  unfold Workgroup.leave
  cases w.group? grp with
  | none => exact SameUnits.refl w
  | some g =>
    have hb := foldl_sameUnits (fun w t => modThread_sameUnits w t (f := fun th => { th with blk := g.blk }) fun _ h => h) tids w
    dsimp only
    split
    · exact hb.trans ⟨rfl, rfl, rfl, fun h => h⟩
    · exact hb.trans ⟨rfl, rfl, rfl, fun h => h⟩

theorem setStatus_sameUnits (w : Workgroup) (tids : List Nat) {st : ThreadStatus} (h : st ≠ .ended) :
    SameUnits w (w.setStatus tids st) :=
  foldl_sameUnits (fun w t => modThread_sameUnits w t fun _ _ => by simpa [Thread.live] using h) tids w

theorem land_sameUnits (w : Workgroup) (x : Wr) : SameUnits w (w.land x) := by
  cases x with
  | v tid n x po => exact modThread_sameUnits w tid fun _ h => h
  | s n x po =>
    simp only [Workgroup.land]
    split
    · exact SameUnits.refl w
    · exact ⟨rfl, rfl, rfl, fun h => h⟩
  | k tid n c po =>
    simp only [Workgroup.land]
    split
    · exact SameUnits.refl w
    · exact modThread_sameUnits w tid fun _ h => h
  | p tid n b =>
    simp only [Workgroup.land]
    split
    · exact SameUnits.refl w
    · exact modThread_sameUnits w tid fun _ h => h
  | flags f => exact ⟨rfl, rfl, rfl, fun h => h⟩

/-- Of two states of the device: the engine operations are the same, and so are the units of every workgroup. -/
structure SameEngines (s t : State) : Prop where
  ops : t.ops = s.ops
  wg : ∀ id w, s.wg? id = some w → ∃ w', t.wg? id = some w' ∧ SameUnits w w'

theorem SameEngines.of_eq {s t : State} (ho : t.ops = s.ops) (hw : t.wgs = s.wgs) : SameEngines s t :=
  ⟨ho, fun _ w h => ⟨w, by unfold State.wg? at h ⊢; rw [hw, h], SameUnits.refl w⟩⟩
theorem SameEngines.refl (s : State) : SameEngines s s := .of_eq rfl rfl
theorem SameEngines.trans {a b c : State} (h1 : SameEngines a b) (h2 : SameEngines b c) : SameEngines a c :=
  ⟨h2.ops.trans h1.ops, fun id w h => by
    obtain ⟨x, hx, hu⟩ := h1.wg id w h
    obtain ⟨y, hy, hv⟩ := h2.wg id x hx
    exact ⟨y, hy, hu.trans hv⟩⟩

/-- After a change that touches neither operations nor workgroups. -/
theorem SameEngines.after {s t u : State} (h : SameEngines t u) (ho : t.ops = s.ops) (hw : t.wgs = s.wgs) : SameEngines s u :=
  (SameEngines.of_eq ho hw).trans h

theorem foldl_sameEngines {α : Type} {f : State → α → State} (hf : ∀ s a, SameEngines s (f s a)) (l : List α) (s : State) :
    SameEngines s (l.foldl f s) :=
  foldl_keeps (SameEngines s) f (fun x a hx => hx.trans (hf x a)) l (SameEngines.refl s)

theorem State.op?_id {s : State} {id : Nat} {o : EngineOp} (h : s.op? id = some o) : o.id = id := by
  simpa using List.find?_some h

theorem setWg_sameEngines {s : State} {id : Nat} {x w : Workgroup} (h : s.wg? id = some x) (hu : SameUnits x w) :
    SameEngines s (s.setWg w) :=
  ⟨rfl, fun i y hy => by
    by_cases hi : i = w.id
    · have hx : x = y := by
        rw [hi, hu.id, State.wg?_id h, h] at hy; exact Option.some.inj hy
      exact ⟨w, by rw [State.wg?_setWg, if_pos hi, hy]; rfl, hx ▸ hu⟩
    · exact ⟨y, by rw [State.wg?_setWg, if_neg hi, hy], SameUnits.refl y⟩⟩

/-- The workgroup after a change of it. -/
theorem modWg_wg? {s : State} {id : Nat} {w : Workgroup} {f : Workgroup → Workgroup} (h : s.wg? id = some w)
    (hf : (f w).id = w.id) : (s.modWg id f).wg? id = some (f w) := by
  unfold State.modWg
  rw [h]
  dsimp only
  rw [State.wg?_setWg, hf, State.wg?_id h, if_pos rfl, h]
  rfl

theorem modWg_sameEngines (s : State) (id : Nat) {f : Workgroup → Workgroup} (hf : ∀ w, SameUnits w (f w)) :
    SameEngines s (s.modWg id f) := by
  unfold State.modWg
  cases h : s.wg? id with
  | none => exact SameEngines.refl s
  | some w => exact setWg_sameEngines h (hf w)

/-! The end of a request's wait. -/

/-- When a lane is settled nothing changes, or one workgroup, in its groups and its threads. -/
theorem settleBatch_cases (s : State) (r : Request) : s.settleBatch r = s ∨
    ∃ id w w' n, s.wg? id = some w ∧ SameUnits w w' ∧ s.settleBatch r = { s.setWg w' with nextId := n } := by
  unfold State.settleBatch
  split
  · extract_lets rs goes whole frag
    split
    · exact .inl rfl
    split
    · exact .inl rfl
    rename_i w hw
    split
    · exact .inl rfl
    rename_i g hg
    extract_lets waits alone mine rest
    clear_value waits alone mine rest goes whole
    split
    · exact .inl rfl
    split
    · split
      · refine .inr ⟨_, w, _, _, hw, ?_, rfl⟩
        exact ⟨rfl, rfl, rfl, fun h => h⟩
      · refine .inr ⟨_, w, _, _, hw, ?_, rfl⟩
        exact ⟨rfl, rfl, rfl, fun h => h⟩
    split
    · exact .inr ⟨_, w, _, _, hw, (leave_sameUnits w _ _).trans (setStatus_sameUnits _ _ (by decide)), rfl⟩
    · refine .inr ⟨_, w, _, _, hw, ?_, rfl⟩
      exact ⟨rfl, rfl, rfl, fun h => h⟩
  · exact .inl rfl

theorem settleBatch_frame (s : State) (r : Request) :
    s.settleBatch r = { s with wgs := (s.settleBatch r).wgs, nextId := (s.settleBatch r).nextId } := by
  obtain h | ⟨id, w, w', n, -, -, h⟩ := settleBatch_cases s r
  · rw [h]
  · rw [h]; rfl

theorem settleBatch_sameEngines (s : State) (r : Request) : SameEngines s (s.settleBatch r) := by
  obtain h | ⟨id, w, w', n, hw, hu, h⟩ := settleBatch_cases s r
  · rw [h]; exact SameEngines.refl s
  · rw [h]; exact (setWg_sameEngines hw hu).trans (.of_eq rfl rfl)

theorem settleAfter_frame (s : State) (r : Request) :
    s.settleAfter r = { s with wgs := (s.settleAfter r).wgs, nextId := (s.settleAfter r).nextId } := by
  unfold State.settleAfter
  split
  · exact settleBatch_frame s r
  · rfl

theorem settleAfter_sameEngines (s : State) (r : Request) : SameEngines s (s.settleAfter r) := by
  unfold State.settleAfter
  split
  · exact settleBatch_sameEngines s r
  · exact SameEngines.refl s

theorem invalidateLine_frame (s : State) (d l : Nat) : sameButXlate s (s.invalidateLine d l) :=
  (writeBackLine_frame s d l).trans rfl

theorem acquireFor_frame (s : State) (r : Request) : sameButXlate s (s.acquireFor r) := by
  unfold State.acquireFor
  split
  · split
    · exact foldl_frame _ (fun s l => invalidateLine_frame s _ l) _ s
    · rfl
  · rfl

theorem acquireFor_weak (s : State) {r : Request} (h : r.order ≠ 2) : s.acquireFor r = s := by
  unfold State.acquireFor
  split
  · rw [if_neg fun hc => h hc.1]
  · rfl

theorem sameButXlate.sameEngines {s t : State} (h : sameButXlate s t) : SameEngines s t :=
  .of_eq (by rw [h]) (by rw [h])

theorem finish_sameEngines (s : State) (r : Request) (ws : List Wr) (m : Option Msg) : SameEngines s (s.finish r ws m) :=
  ((acquireFor_frame _ r).sameEngines.trans (settleAfter_sameEngines _ r)).after rfl rfl

theorem fail_sameEngines (s : State) (r : Request) (f : FaultInfo) : SameEngines s (s.fail r f) :=
  (settleAfter_sameEngines _ r).after rfl rfl

theorem finish_reqs (s : State) (r : Request) (ws : List Wr) (m : Option Msg) :
    (s.finish r ws m).reqs = putBy Request.id { r with phase := .done ws m, unresolved := false } s.reqs := by
  unfold State.finish
  rw [settleAfter_frame]
  show ((State.setReq _ _).acquireFor r).reqs = _
  rw [acquireFor_frame _ r]
  rfl

theorem fail_reqs (s : State) (r : Request) (f : FaultInfo) :
    (s.fail r f).reqs = putBy Request.id { r with phase := .failed f.code f.addr f.aux0 f.aux1 f.aux2 } s.reqs := by
  unfold State.fail
  rw [settleAfter_frame]
  rfl

theorem finish_hallEvents (s : State) (r : Request) (ws : List Wr) (m : Option Msg) :
    (s.finish r ws m).hallEvents = s.hallEvents := by
  unfold State.finish
  rw [settleAfter_frame]
  show ((State.setReq _ _).acquireFor r).hallEvents = _
  rw [acquireFor_frame _ r]
  rfl

theorem finish_mem (s : State) {r : Request} (ws : List Wr) (m : Option Msg) (h : r.order ≠ 2) :
    (s.finish r ws m).mem = s.mem := by
  unfold State.finish
  rw [settleAfter_frame, acquireFor_weak _ h]
  rfl

theorem fail_hallEvents (s : State) (r : Request) (f : FaultInfo) : (s.fail r f).hallEvents = s.hallEvents := by
  unfold State.fail
  rw [settleAfter_frame]
  rfl

theorem fail_mem (s : State) (r : Request) (f : FaultInfo) : (s.fail r f).mem = s.mem := by
  unfold State.fail
  rw [settleAfter_frame]
  rfl

/-! The waits for tiles look again. -/

/-- What one request comes to when the waits for tiles look again: nothing, or it fails, or it is finished. -/
theorem twaitsLook_induct (s : State) (wg : Nat) (P : State → Prop) (h0 : P s)
    (hfail : ∀ u r f, P u → r ∈ s.reqs → (∃ n e, r.op = .twait n e) → P (u.fail r f))
    (hdone : ∀ u r ws, P u → r ∈ s.reqs → (∃ n e, r.op = .twait n e) → P (u.finish r ws none)) : P (s.twaitsLook wg) := by
  unfold State.twaitsLook
  refine List.foldlRecOn s.reqs _ h0 fun u hu r hr => ?_
  split
  · rename_i n e w hwho hop _ _
    split
    · exact hu
    · extract_lets st
      generalize (if e then tEMPTY else tREADY) = want
      clear_value st
      split
      · exact hfail u r _ hu hr ⟨_, _, hop⟩
      · split
        · exact hdone u r _ hu hr ⟨_, _, hop⟩
        · exact hu
  · exact hu

theorem twaitsLook_sameEngines (s : State) (wg : Nat) : SameEngines s (s.twaitsLook wg) :=
  twaitsLook_induct s wg (SameEngines s) (SameEngines.refl s) (fun u r f hu _ _ => hu.trans (fail_sameEngines u r f))
    fun u r ws hu _ _ => hu.trans (finish_sameEngines u r ws none)

theorem map_putBy {α : Type} (key : α → Nat) (a : α) (l : List α) : (putBy key a l).map key = l.map key := by
  simp only [putBy, List.map_map]
  refine List.map_congr_left fun x _ => ?_
  simp only [Function.comp]
  split
  · exact Eq.symm ‹_›
  · rfl

theorem mem_putBy {α : Type} {key : α → Nat} {a x : α} {l : List α} (h : x ∈ putBy key a l) : x = a ∨ x ∈ l := by
  obtain ⟨y, hy, rfl⟩ := List.mem_map.mp h
  split
  · exact .inl rfl
  · exact .inr hy

/-- The same requests are there, by their names. -/
theorem twaitsLook_ids (s : State) (wg : Nat) : (s.twaitsLook wg).reqs.map Request.id = s.reqs.map Request.id := by
  refine twaitsLook_induct s wg (fun u => u.reqs.map Request.id = s.reqs.map Request.id) rfl ?_ ?_
  · intro u r f hu _ _
    rw [fail_reqs, map_putBy, hu]
  · intro u r ws hu _ _
    rw [finish_reqs, map_putBy, hu]

/-! The operations that await their tiles look again. -/

theorem register_frame (s : State) (die kind obj qual batch : Nat) (p : Party) (h : Holders) (fw : Bool) :
    (s.register die kind obj qual batch p h fw).1 = { s with
      waits := (s.register die kind obj qual batch p h fw).1.waits
      nextId := (s.register die kind obj qual batch p h fw).1.nextId
      halls := (s.register die kind obj qual batch p h fw).1.halls } := by
  unfold State.register
  split
  · rfl
  · split
    · rfl
    · rfl

theorem registerWait_frame (s : State) (die kind obj qual batch : Nat) (p : Party) (h : Holders) (fw : Bool) :
    ∃ ws n hs es, (s.registerWait die kind obj qual batch p h fw).1
      = { s with waits := ws, nextId := n, halls := hs, hallEvents := es } := by
  have hf := register_frame s die kind obj qual batch p h fw
  unfold State.registerWait
  split
  · rename_i u id hr
    rw [hr] at hf
    exact ⟨u.waits, u.nextId, u.halls, s.hallEvents, hf⟩
  · rename_i u first hr
    rw [hr] at hf
    dsimp only at hf
    cases first with
    | true => exact ⟨u.waits, u.nextId, u.halls, (u.hallEvent die 1 _).hallEvents, by rw [hf]; rfl⟩
    | false => exact ⟨u.waits, u.nextId, u.halls, s.hallEvents, hf⟩

theorem landNow_sameEngines (s : State) (r : Request) (ws : List Wr) : SameEngines s (s.landNow r ws) := by
  unfold State.landNow
  split
  · exact modWg_sameEngines s _ fun w => foldl_sameUnits land_sameUnits ws w
  · exact SameEngines.refl s

theorem landNow_reqs (s : State) (r : Request) (ws : List Wr) : (s.landNow r ws).reqs = s.reqs := by
  unfold State.landNow
  split
  · rw [modWg_frame]
  · rfl

theorem hartFlag_frame (s : State) (p : Party) (b : Bool) : s.hartFlag p b = { s with harts := (s.hartFlag p b).harts } := by
  unfold State.hartFlag
  dsimp only
  split
  · split <;> rfl
  · split <;> rfl
  · rfl

/-- A request that begins to wait: other states than its own do not change but for what its report and its group's parking
change. -/
theorem beginWait_sameEngines (s : State) (r : Request) (b : Bool) : SameEngines s (s.beginWait r b) := by
  unfold State.beginWait
  extract_lets u v isHart r'
  have hu : SameEngines s u := by
    unfold u; split
    · exact SameEngines.refl s
    · exact landNow_sameEngines s r _
  have hv : SameEngines u v := .of_eq (by unfold v; rw [hartFlag_frame]) (by unfold v; rw [hartFlag_frame])
  exact hu.trans (hv.trans ((settleBatch_sameEngines (v.setReq r') r').after rfl rfl))

theorem beginWait_ids (s : State) (r : Request) (b : Bool) : (s.beginWait r b).reqs.map Request.id = s.reqs.map Request.id := by
  unfold State.beginWait
  extract_lets u v isHart r'
  have hu : u.reqs = s.reqs := by
    unfold u; split
    · rfl
    · exact landNow_reqs s r _
  have hv : v.reqs = u.reqs := by unfold v; rw [hartFlag_frame]
  rw [settleBatch_frame]
  show (putBy Request.id r' v.reqs).map Request.id = _
  rw [map_putBy, hv, hu]

theorem parkLast_ids {s : State} {r : Request} {i : Nat} (h : i ∈ s.reqs.map Request.id) :
    i ∈ (s.parkLast r).reqs.map Request.id := by
  obtain ⟨q, hq, rfl⟩ := List.mem_map.mp h
  by_cases hi : q.id = r.id
  · exact List.mem_map.mpr ⟨r, List.mem_append_right _ (List.mem_singleton.mpr rfl), hi.symm⟩
  · exact List.mem_map.mpr ⟨q, List.mem_append_left _ (List.mem_filter.mpr ⟨hq, by simpa using hi⟩), rfl⟩

/-- What a request that must wait comes to: it is gone with its party, or it is registering, or it has begun to wait. -/
theorem mustWait_cases (s : State) (r : Request) (kind obj qual : Nat) (h : Holders) :
    s.mustWait r kind obj qual h = (s.parkLast r).dropReq r.id
    ∨ ∃ ws n hs es, let u : State := { s.parkLast r with waits := ws, nextId := n, halls := hs, hallEvents := es }
      s.mustWait r kind obj qual h = u.setReq { r with phase := .registering, unresolved := true }
        ∨ ∃ b, s.mustWait r kind obj qual h = u.beginWait r b := by
  unfold State.mustWait
  extract_lets u
  split
  · exact .inl rfl
  obtain ⟨ws, n, hs, es, hu⟩ := registerWait_frame u (u.tableDie r.who r.obj) kind obj qual r.batch r.who h false
  refine .inr ⟨ws, n, hs, es, ?_⟩
  split
  · rename_i v id hv
    rw [hv] at hu
    dsimp only at hu
    subst hu
    split
    · split
      · exact .inl rfl
      · exact .inr ⟨true, rfl⟩
    · exact .inr ⟨true, rfl⟩
  · rename_i v hv
    rw [hv] at hu
    dsimp only at hu
    subst hu
    exact .inr ⟨false, rfl⟩

theorem mustWait_sameEngines (s : State) (r : Request) (kind obj qual : Nat) (h : Holders) :
    SameEngines s (s.mustWait r kind obj qual h) := by
  obtain e | ⟨ws, n, hs, es, e | ⟨b, e⟩⟩ := mustWait_cases s r kind obj qual h
  · rw [e]; exact .of_eq rfl rfl
  · rw [e]; exact .of_eq rfl rfl
  · rw [e]; exact (beginWait_sameEngines _ r b).after rfl rfl

theorem mustWait_ids {s : State} {r : Request} {i : Nat} (kind obj qual : Nat) (h : Holders) (hi : i ≠ r.id)
    (hm : i ∈ s.reqs.map Request.id) : i ∈ (s.mustWait r kind obj qual h).reqs.map Request.id := by
  have hp := parkLast_ids (r := r) hm
  obtain e | ⟨ws, n, hs, es, e | ⟨b, e⟩⟩ := mustWait_cases s r kind obj qual h
  · obtain ⟨q, hq, rfl⟩ := List.mem_map.mp hp
    rw [e]
    exact List.mem_map.mpr ⟨q, List.mem_filter.mpr ⟨hq, by simpa using hi⟩, rfl⟩
  · rw [e]
    show i ∈ (putBy Request.id _ (s.parkLast r).reqs).map Request.id
    rw [map_putBy]; exact hp
  · rw [e, beginWait_ids]; exact hp

/-- What one operation's looking again comes to: nothing, or each of its fragments waits, or no longer waits. -/
theorem awaitReady_induct (s : State) (o : EngineOp) (P : State → Prop) (h0 : P s)
    (hwait : ∀ u r obj qual, P u → r ∈ s.opRequests o →
      P ((u.leaveWaits r.who r.batch).mustWait { r with x := qual + 1, obj := obj } 9 obj qual .unknown))
    (hset : ∀ u r, P u → r ∈ s.opRequests o →
      P ((u.leaveWaits r.who r.batch).setReq { r with phase := .waiting, unresolved := false, x := 0 })) : P (s.awaitReady o) := by
  unfold State.awaitReady
  split
  · exact h0
  · extract_lets rs
    split
    · split
      · exact h0
      · exact List.foldlRecOn rs _ h0 fun u hu r hr => hwait u r _ _ hu hr
    · exact List.foldlRecOn rs _ h0 fun u hu r hr => hset u r hu hr

theorem awaitReady_sameEngines (s : State) (o : EngineOp) : SameEngines s (s.awaitReady o) :=
  awaitReady_induct s o (SameEngines s) (SameEngines.refl s)
    (fun u r obj qual hu _ => hu.trans
      ((mustWait_sameEngines (u.leaveWaits r.who r.batch) { r with x := qual + 1, obj := obj } 9 obj qual .unknown).after rfl rfl))
    fun _ _ hu _ => hu.trans (.of_eq rfl rfl)

theorem awaitReady_ids {s : State} {o : EngineOp} {i : Nat} (hi : i ∉ o.arrivals) (hm : i ∈ s.reqs.map Request.id) :
    i ∈ (s.awaitReady o).reqs.map Request.id := by
  refine awaitReady_induct s o (fun u => i ∈ u.reqs.map Request.id) hm ?_ ?_
  · intro u r obj qual hu hr
    have hne : i ≠ r.id := by
      rintro rfl; exact hi (by simpa using (List.mem_filter.mp hr).2)
    exact mustWait_ids 9 obj qual .unknown (r := { r with x := qual + 1, obj := obj }) hne hu
  · intro u r hu _
    show i ∈ (putBy Request.id _ u.reqs).map Request.id
    rw [map_putBy]; exact hu

theorem pollTwait_sameEngines (s : State) (wg : Nat) : SameEngines s (s.pollTwait wg) :=
  (twaitsLook_sameEngines s wg).trans (foldl_sameEngines awaitReady_sameEngines _ _)

/-- Looking again removes no request that no waiting operation holds. -/
theorem pollTwait_ids {s : State} {wg i : Nat} (hi : ∀ x ∈ s.ops, x.phase = .waiting → i ∉ x.arrivals)
    (hm : i ∈ s.reqs.map Request.id) : i ∈ (s.pollTwait wg).reqs.map Request.id := by
  unfold State.pollTwait
  have h0 : i ∈ (s.twaitsLook wg).reqs.map Request.id := by rw [twaitsLook_ids]; exact hm
  refine List.foldlRecOn (motive := fun (u : State) => i ∈ u.reqs.map Request.id) _ _ h0 fun u hu x hx => awaitReady_ids ?_ hu
  rw [(twaitsLook_sameEngines s wg).ops] at hx
  obtain ⟨hin, hw⟩ := List.mem_filter.mp hx
  exact hi x hin (eq_of_beq (Bool.and_eq_true_iff.mp hw).2)

/-! Acceptance and start (spec/12 R287 to R289). -/

theorem SameUnits.tile {w w' : Workgroup} (h : SameUnits w w') (n : Nat) : w'.tile n = w.tile n := by
  unfold Workgroup.tile; rw [h.tiles]
theorem SameUnits.accTile {w w' : Workgroup} (h : SameUnits w w') (n : Nat) : w'.accTile n = w.accTile n := by
  unfold Workgroup.accTile; rw [h.accs]

/-- What stage 3 of R287 has found: a defined tile, EMPTY where it is written, READY and with room for a reader where it is
read. -/
theorem readiness_tile {o : EngineOp} {w : Workgroup} (h : o.readiness w = .ready) {n : Nat} {wr : Bool} (hx : (n, wr) ∈ o.tiles) :
    n < w.tiles.length ∧ (wr = false → tState (w.tile n) = tREADY ∧ tReaders (w.tile n) < 31) := by
  unfold EngineOp.readiness at h
  extract_lets broken late at h
  cases hb : broken with
  | some f => simp [hb] at h
  | none =>
    have hrows := List.findSome?_eq_none_iff.mp (Option.or_eq_none_iff.mp hb).1 _ hx
    cases hl : late with
    | some y =>
      simp only [hb, hl] at h
      obtain rfl : y = Readiness.ready := h
      obtain hy | ⟨-, hy⟩ := Option.or_eq_some_iff.mp hl
      · obtain ⟨z, -, hz⟩ := List.exists_of_findSome?_eq_some hy
        simp at hz
      · obtain ⟨z, -, hz⟩ := List.exists_of_findSome?_eq_some hy
        simp at hz
    | none =>
      have hok := List.findSome?_eq_none_iff.mp (Option.or_eq_none_iff.mp hl).1 _ hx
      refine ⟨?_, fun hwr => ?_⟩
      · refine Decidable.byContradiction fun hn => ?_
        simp only [tile_outside (Nat.le_of_not_lt hn)] at hrows
        split at hrows
        · cases hrows
        · exact absurd hrows (by simp [tRows, tField])
      · subst hwr
        simpa using hok

/-- What acceptance does to a named tile's entry (Table 12.4). -/
def acceptTile (x : Nat × Bool) (e : DWord) : DWord := if x.2 then setState e tFILLING else setReaders e (tReaders e + 1)

/-- What acceptance does to a named accumulator (Table 12.10). -/
def acceptAcc (w : Workgroup) (x : Nat × AccUse) : Workgroup :=
  match x.2 with
  | .init => w.setAcc x.1 { w.accTile x.1 with state := aREADY }
  | .drain => w.setAcc x.1 { w.accTile x.1 with state := aDRAINING }
  | _ => w

theorem acceptStates_eq (o : EngineOp) (w : Workgroup) :
    acceptStates o w = o.accs.foldl acceptAcc (updateTiles acceptTile o.tiles w) := rfl

theorem acceptAcc_frame (w : Workgroup) (x : Nat × AccUse) : acceptAcc w x = { w with accs := (acceptAcc w x).accs } := by
  obtain ⟨n, u⟩ := x
  cases u <;> rfl

theorem acceptStates_frame (o : EngineOp) (w : Workgroup) : acceptStates o w
    = { w with tiles := (updateTiles acceptTile o.tiles w).tiles, accs := (acceptStates o w).accs } := by
  have hfold (l : List (Nat × AccUse)) (x : Workgroup) : l.foldl acceptAcc x = { x with accs := (l.foldl acceptAcc x).accs } := by
    induction l generalizing x with
    | nil => rfl
    | cons a l ih => rw [List.foldl_cons, ih, acceptAcc_frame]
  rw [acceptStates_eq, hfold, updateTiles_fields]

theorem acceptStates_tile (o : EngineOp) (w : Workgroup) (n : Nat) :
    (acceptStates o w).tile n = (updateTiles acceptTile o.tiles w).tile n := by
  rw [acceptStates_frame]; rfl

/-- A ready operation that names a tile once finds it in the table. -/
theorem named_tile {o : EngineOp} {w : Workgroup} (h : o.readiness w = .ready) {n : Nat} {b : Bool}
    (hs : o.tiles.filter (fun x => x.1 == n) = [(n, b)]) :
    n < w.tiles.length ∧ (b = false → tState (w.tile n) = tREADY ∧ tReaders (w.tile n) < 31) :=
  readiness_tile h (List.mem_filter.mp (by rw [hs]; exact List.mem_singleton.mpr rfl : (n, b) ∈ o.tiles.filter fun x => x.1 == n)).1

/-- A tile that an accepted operation writes is FILLING (Table 12.4). -/
theorem acceptStates_written {o : EngineOp} {w : Workgroup} (h : o.readiness w = .ready) {n : Nat} (h1 : namings o n true = 1)
    (h0 : namings o n false = 0) : tState ((acceptStates o w).tile n) = tFILLING := by
  have hs := tiles_named_once (b := true) h1 h0
  rw [acceptStates_tile, updateTiles_tile _ _ _ (named_tile h hs).1, hs]
  exact tState_setState _ _

/-- A tile that an accepted operation reads is READY and has one reader more (Table 12.4). -/
theorem acceptStates_read {o : EngineOp} {w : Workgroup} (h : o.readiness w = .ready) {n : Nat} (h1 : namings o n false = 1)
    (h0 : namings o n true = 0) : tState ((acceptStates o w).tile n) = tREADY
      ∧ tReaders ((acceptStates o w).tile n) = tReaders (w.tile n) + 1 := by
  have hs := tiles_named_once (b := false) h1 h0
  obtain ⟨hlen, hr⟩ := named_tile h hs
  obtain ⟨hready, hroom⟩ := hr rfl
  rw [acceptStates_tile, updateTiles_tile _ _ _ hlen, hs]
  show tState (setReaders (w.tile n) (tReaders (w.tile n) + 1)) = tREADY
    ∧ tReaders (setReaders (w.tile n) (tReaders (w.tile n) + 1)) = tReaders (w.tile n) + 1
  rw [tState_setReaders, tReaders_setReaders]
  exact ⟨hready, Nat.mod_eq_of_lt (by omega)⟩

/-- The state of an accumulator that an accepted operation alone names (Table 12.10). -/
theorem acceptStates_acc {o : EngineOp} {w : Workgroup} {a : Nat × AccUse} (h : o.accs = [a]) (hl : a.1 < w.accs.length) :
    ((acceptStates o w).accTile a.1).state = match a.2 with
      | .init => aREADY
      | .drain => aDRAINING
      | _ => (w.accTile a.1).state := by
  have hw : (updateTiles acceptTile o.tiles w).accs = w.accs := by rw [updateTiles_fields]
  have hold : (updateTiles acceptTile o.tiles w).accTile a.1 = w.accTile a.1 := by unfold Workgroup.accTile; rw [hw]
  rw [acceptStates_eq, h, List.foldl_cons, List.foldl_nil]
  obtain ⟨n, u⟩ := a
  cases u with
  | init => simp [acceptAcc, setAcc_accTile, hw, hl]
  | drain => simp [acceptAcc, setAcc_accTile, hw, hl]
  | update => exact congrArg AccTile.state hold
  | read => exact congrArg AccTile.state hold

/-! Requests that an operation finishes. -/

theorem foldl_finish_sameEngines (rs : List Request) (ws : List Wr) (m : Option Msg) (s : State) :
    SameEngines s (rs.foldl (fun s r => s.finish r ws m) s) := foldl_sameEngines (fun s r => finish_sameEngines s r ws m) rs s

theorem foldl_finish_ids (rs : List Request) (ws : List Wr) (m : Option Msg) (s : State) :
    (rs.foldl (fun s r => s.finish r ws m) s).reqs.map Request.id = s.reqs.map Request.id :=
  foldl_keeps (fun u : State => u.reqs.map Request.id = s.reqs.map Request.id) _
    (fun u r hu => by rw [finish_reqs, map_putBy, hu]) rs rfl

/-- Once one of its name has been finished, every request of that name is done. -/
theorem foldl_finish_done (rs : List Request) (ws : List Wr) (m : Option Msg) (s : State) {i : Nat}
    (h : (∀ q ∈ s.reqs, q.id = i → q.phase = .done ws m) ∨ ∃ r ∈ rs, r.id = i) :
    ∀ q ∈ (rs.foldl (fun s r => s.finish r ws m) s).reqs, q.id = i → q.phase = .done ws m := by
  induction rs generalizing s with
  | nil => exact h.resolve_right (by simp)
  | cons r rs ih =>
    refine ih (s.finish r ws m) ?_
    by_cases hr : r.id = i
    · refine .inl fun q hq hi => ?_
      rw [finish_reqs] at hq
      obtain ⟨x, -, rfl⟩ := List.mem_map.mp hq
      by_cases hx : x.id = r.id
      · simp [hx]
      · simp only [hx, if_false] at hi
        exact absurd (hi.trans hr.symm) hx
    · obtain h | ⟨x, hx, hi⟩ := h
      · refine .inl fun q hq hi => ?_
        rw [finish_reqs] at hq
        obtain rfl | hq := mem_putBy hq
        · rfl
        · exact h q hq hi
      · obtain rfl | hx := List.mem_cons.mp hx
        · exact absurd hi hr
        · exact .inr ⟨x, hx, hi⟩

/-! The operation in its unit's queue. -/

theorem op?_queued (l : List EngineOp) (o : EngineOp) :
    ((l.filter fun x => x.id != o.id) ++ [o]).find? (fun x => x.id == o.id) = some o := by
  rw [List.find?_append, List.find?_eq_none.mpr fun x hx => by simpa using (List.mem_filter.mp hx).2]
  simp

/-- An accepted operation is queued, its tiles and accumulators have changed, and its fragments' requests are done. -/
theorem accept_leaves {s : State} {o : EngineOp} {w : Workgroup} (hw : s.wg? o.wg = some w)
    (hd : ∀ x ∈ s.ops, x.id ≠ o.id → ∀ a ∈ x.arrivals, a ∉ o.arrivals) :
    ∃ left w', (s.accept o).op? o.id = some { o with phase := .queued, todo := left } ∧ (s.accept o).wg? o.wg = some w'
      ∧ SameUnits (acceptStates o (w.emptyLatch o.id)) w'
      ∧ ∀ r ∈ s.opRequests o, ∃ q, (s.accept o).req? r.id = some q ∧ q.phase = .done [] none := by
  unfold State.accept
  extract_lets rows left queued key bar counted changed
  have hcount : counted.ops = queued.ops ∧ counted.wgs = s.wgs ∧ counted.reqs = s.reqs := by
    unfold counted; split <;> exact ⟨rfl, rfl, rfl⟩
  obtain ⟨hops, hwgs, hreqs⟩ := hcount
  let f : Workgroup → Workgroup := fun w => acceptStates o (w.emptyLatch o.id)
  have hmod := modWg_frame counted o.wg f
  have hchanged : (counted.modWg o.wg f).wg? o.wg = some (f w) :=
    modWg_wg? (by unfold State.wg? at hw ⊢; rw [hwgs, hw]) (by show (acceptStates o _).id = _; rw [acceptStates_frame]; rfl)
  have hpoll : SameEngines (counted.modWg o.wg f) changed := pollTwait_sameEngines _ _
  have hfin := foldl_finish_sameEngines (changed.opRequests o) [] none changed
  obtain ⟨w', hw', hu⟩ := (hpoll.trans hfin).wg _ _ hchanged
  refine ⟨left, w', ?_, hw', hu, fun r hr => ?_⟩
  · unfold State.op?
    rw [(hpoll.trans hfin).ops, hmod]
    show counted.ops.find? _ = _
    rw [hops]
    exact op?_queued s.ops { o with phase := .queued, todo := left }
  · obtain ⟨hin, harr⟩ := List.mem_filter.mp hr
    have hids : r.id ∈ changed.reqs.map Request.id := by
      refine pollTwait_ids (fun x hx hph harrx => ?_) (by rw [hmod]; show r.id ∈ counted.reqs.map _; rw [hreqs]; exact List.mem_map_of_mem hin)
      rw [hmod] at hx
      change x ∈ counted.ops at hx
      rw [hops] at hx
      obtain hx | hx := List.mem_append.mp hx
      · obtain ⟨hx, hne⟩ := List.mem_filter.mp hx
        exact hd x hx (by simpa using hne) _ harrx (by simpa using harr)
      · rw [List.mem_singleton.mp hx] at hph
        cases hph
    obtain ⟨x, hx, hxi⟩ := List.mem_map.mp hids
    have hdone := foldl_finish_done (changed.opRequests o) [] none changed (i := r.id)
      (.inr ⟨x, List.mem_filter.mpr ⟨hx, by rw [hxi]; exact harr⟩, hxi⟩)
    have hstill := hids
    rw [← foldl_finish_ids (changed.opRequests o) [] none changed] at hstill
    obtain ⟨q, hq, hqi⟩ := List.mem_map.mp hstill
    obtain ⟨y, hy⟩ := Option.isSome_iff_exists.mp
      (List.find?_isSome.mpr ⟨q, hq, by simpa using hqi⟩ : (List.find? (fun z : Request => z.id == r.id) _).isSome)
    exact ⟨y, hy, hdone y (List.mem_of_find?_eq_some hy) (by simpa using List.find?_some hy)⟩

/-! What reading the record leaves alone. -/

theorem weakRead_frame (s : State) (d : Nat) (nc : Bool) (pas : List Nat) : sameButXlate s (s.weakRead d nc pas).1 := by
  refine foldl_frame _ (fun s l => ?_) _ s
  split
  · split
    · rfl
    · rfl
  · rfl

theorem devRead_frame (s : State) (a : Nat) : (s.devRead a).2 = { s with freeCtr := (s.devRead a).2.freeCtr } := by
  unfold State.devRead
  split
  · split <;> rfl
  all_goals rfl

theorem devReads_frame (l : List Nat) (s : State) : (devReads l s).1 = { s with freeCtr := (devReads l s).1.freeCtr } := by
  induction l generalizing s with
  | nil => rfl
  | cons a l ih =>
    show (devReads l (s.devRead a).2).1 = { s with freeCtr := (devReads l (s.devRead a).2).1.freeCtr }
    rw [ih, devRead_frame]

theorem freshBytes_frame (n : Nat) (s : State) : (freshBytes n s).2 = { s with freeCtr := (freshBytes n s).2.freeCtr } := by
  induction n generalizing s with
  | zero => rfl
  | succ n ih =>
    show (freshBytes n s.fresh.2).2 = { s with freeCtr := (freshBytes n s.fresh.2).2.freeCtr }
    rw [ih]; rfl

theorem outsideRead_frame (s : State) (pas : List Nat) :
    (s.outsideRead pas).1 = { s with freeCtr := (s.outsideRead pas).1.freeCtr } := by
  unfold State.outsideRead
  split
  · rfl
  · split
    · exact devReads_frame _ s
    · exact freshBytes_frame _ s

theorem sameButXlate.parts {s t : State} (h : sameButXlate s t) : t.reqs = s.reqs ∧ t.ops = s.ops ∧ t.wgs = s.wgs := by
  rw [h]; exact ⟨rfl, rfl, rfl⟩

/-- A read of an engine or of the Hall changes no request, no operation and no workgroup. -/
theorem engineRead_frame (s : State) (d : Nat) (p : Placed) :
    (s.engineRead d p).1.reqs = s.reqs ∧ (s.engineRead d p).1.ops = s.ops ∧ (s.engineRead d p).1.wgs = s.wgs := by
  unfold State.engineRead State.pointRead
  split
  · split
    · rw [outsideRead_frame]; exact ⟨rfl, rfl, rfl⟩
    · exact (beforeStrong_frame s d p.pas).parts
  · exact (weakRead_frame s d p.nc p.pas).parts

theorem tensorAt_frame (s : State) (o : EngineOp) (pa : Nat) : sameButXlate s (s.tensorAt o pa).1 := by
  unfold State.tensorAt
  split
  · rfl
  · exact translateAll_frame _ _ _ _ _ _

theorem recordRead_frame {s u : State} {o : EngineOp} {w : Workgroup} {rec : TensorRec} {po : Bool} (h : RecordRead s o w u rec po) :
    u.reqs = s.reqs ∧ u.ops = s.ops ∧ u.wgs = s.wgs := by
  unfold RecordRead at h
  split at h
  · obtain ⟨v, p, hv, hr⟩ := h
    have ht : sameButXlate s v := by
      have := tensorAt_frame s o (leadTensor w o).objPa
      rwa [hv] at this
    have hu : u = (v.engineRead (dieOfCore o.core) p).1 := (congrArg Prod.fst hr).symm
    obtain ⟨h1, h2, h3⟩ := engineRead_frame v (dieOfCore o.core) p
    obtain ⟨k1, k2, k3⟩ := ht.parts
    exact ⟨by rw [hu, h1, k1], by rw [hu, h2, k2], by rw [hu, h3, k3]⟩
  · rw [h.1]; exact ⟨rfl, rfl, rfl⟩

/-! ENGINE_ACCEPT. -/

/-- The operation that ENGINE_ACCEPT names waits, is ready, and nothing holds its acceptance back. -/
structure AcceptDue (s : State) (o : EngineOp) (w : Workgroup) : Prop where
  op : s.op? s.ev.who = some o
  wg : s.wg? o.wg = some w
  waiting : o.phase = .waiting
  ready : o.readiness w = .ready
  filled : w.spilled = false
  first : s.accessBefore o = false

/-- A record that cannot be read faults the operation (R432, R410). -/
theorem engineAccept_unread {s v : State} {o : EngineOp} {w : Workgroup} (H : AcceptDue s o w) {code : BitVec 8} {d : Nat}
    (hn : o.needsRecord = true) (ht : s.tensorAt o (leadTensor w o).objPa = (v, .error (code, d))) :
    exec .engineAccept s = .next (failedOp s o (.of code o.body.tk.toNat d (BitVec.ofNat 64 (leadTensor w o).objPa))) := by
  have hph : (o.phase == .waiting) = true := by rw [H.waiting]; rfl
  show execEngineAccept s = _
  simp only [execEngineAccept, H.op, H.wg, hph, H.ready, H.filled, H.first, hn, ht, Bool.or_self, if_true,
    if_false, Bool.false_eq_true]
  rfl

/-- With its record read, the operation faults POISON, or by its first failing check, or is accepted where there is room. -/
theorem engineAccept_read {s u : State} {o : EngineOp} {w : Workgroup} {rec : TensorRec} {po : Bool} (H : AcceptDue s o w)
    (hr : RecordRead s o w u rec po) :
    exec .engineAccept s = .next (
      if po then failedOp s o (.of cPOISON o.body.tk.toNat 0 (BitVec.ofNat 64 (leadTensor w o).objPa))
      else (acceptFault s w o rec).elim
        (if s.queueRoom o then u.accept { o with record := if o.needsRecord then some rec else o.record } else s) (failedOp s o)) := by
  have hph : (o.phase == .waiting) = true := by rw [H.waiting]; rfl
  show execEngineAccept s = _
  unfold RecordRead at hr
  simp only [execEngineAccept, H.op, H.wg, hph, H.ready, H.filled, H.first, Bool.or_self, if_false,
    Bool.false_eq_true]
  cases hn : o.needsRecord with
  | true =>
    rw [hn, if_pos rfl] at hr
    obtain ⟨v, p, hv, hp⟩ := hr
    simp only [hv, hp, if_true]
    cases po with
    | true => rfl
    | false =>
      dsimp only
      cases acceptFault s w o rec <;> rfl
  | false =>
    rw [hn, if_neg (by decide)] at hr
    obtain ⟨rfl, rfl, rfl⟩ := hr
    simp only [Bool.false_eq_true, if_false]
    cases acceptFault u w o .none <;> rfl

theorem engineAccept_accepts {s u : State} {o : EngineOp} {w : Workgroup} {rec : TensorRec} (H : AcceptDue s o w)
    (hr : RecordRead s o w u rec false) (hd : ∀ x ∈ s.ops, x.id ≠ o.id → ∀ a ∈ x.arrivals, a ∉ o.arrivals)
    (hf : acceptFault s w o rec = none) (hroom : s.queueRoom o = true) :
    ∃ t o' w', exec .engineAccept s = .next t ∧ t.op? o.id = some o' ∧ o'.phase = .queued ∧ o'.word = o.word
      ∧ o'.record = (if o.needsRecord then some rec else o.record) ∧ t.wg? o.wg = some w'
      ∧ SameUnits (acceptStates o (w.emptyLatch o.id)) w'
      ∧ ∀ r ∈ s.opRequests o, ∃ q, t.req? r.id = some q ∧ q.phase = .done [] none := by
  obtain ⟨hreqs, hops, hwgs⟩ := recordRead_frame hr
  have he := engineAccept_read H hr
  rw [hf, hroom] at he
  obtain ⟨left, w', h1, h2, h3, h4⟩ := accept_leaves (s := u) (w := w)
    (o := { o with record := if o.needsRecord then some rec else o.record })
    (by have := H.wg; unfold State.wg? at this ⊢; rw [hwgs, this]) (by rw [hops]; exact hd)
  refine ⟨_, _, w', he, h1, rfl, rfl, rfl, h2, h3, fun r hr => h4 r ?_⟩
  unfold State.opRequests at hr ⊢
  rw [hreqs]; exact hr

/-! ENGINE_OPERATION_START. -/

theorem State.op?_setOp (s : State) (o : EngineOp) (id : Nat) :
    (s.setOp o).op? id = if id = o.id then (s.op? id).map fun _ => o else s.op? id :=
  find_putBy EngineOp.id o s.ops id

theorem op?_setOp_self {s : State} {o x : EngineOp} (h : s.op? o.id = some x) : (s.setOp o).op? o.id = some o := by
  rw [State.op?_setOp, if_pos rfl, h]; rfl

/-- The operation that ENGINE_OPERATION_START names is queued, and no earlier one holds it back. -/
structure StartDue (s : State) (o : EngineOp) : Prop where
  op : s.op? s.ev.who = some o
  queued : (o.phase != .queued) = false
  first : (s.earlierOps o).any o.after = false

theorem startDue_of {s : State} {o : EngineOp} (hop : s.op? s.ev.who = some o) (hq : o.phase = .queued)
    (ha : ∀ x ∈ s.earlierOps o, o.after x = false) : StartDue s o :=
  ⟨hop, by rw [hq]; rfl, List.any_eq_false.mpr fun x hx => by rw [ha x hx]; decide⟩

theorem StartDue.self {s : State} {o : EngineOp} (H : StartDue s o) : s.op? o.id = some o := by
  rw [State.op?_id H.op, H.op]

/-- A multicast without receivers is complete (R300). -/
theorem start_unreceived {s : State} {o : EngineOp} (H : StartDue s o) (hc : o.code = 0x1C6) (ht : o.todo = []) :
    exec .engineOperationStart s = .next (s.endOp o) := by
  show execEngineOperationStart s = _
  simp [execEngineOperationStart, H.op, H.queued, H.first, hc, ht]

theorem start_runs {s : State} {o : EngineOp} (H : StartDue s o) (hk : o.code ≠ 0x1C8) (hm : o.code ≠ 0x1C6 ∨ o.todo ≠ []) :
    exec .engineOperationStart s = .next (s.setOp { o with phase := .running }) := by
  have hgo : ¬(o.code = 0x1C6 ∧ o.todo = []) := fun h => hm.elim (fun k => k h.1) fun k => k h.2
  show execEngineOperationStart s = _
  simp [execEngineOperationStart, H.op, H.queued, H.first, hk, hgo]

/-- An MMAK starts with its codebook's table (R293). -/
theorem start_table {s u : State} {o : EngineOp} {rec : TensorRec} {ws : List Word} (H : StartDue s o) (hk : o.code = 0x1C8)
    (hr : o.record = some rec) (hl : s.loadCodebook o rec.cbook = (u, .ok ws)) :
    exec .engineOperationStart s = .next (u.setOp { o with phase := .running, table := ws }) := by
  show execEngineOperationStart s = _
  simp only [execEngineOperationStart, H.op, H.queued, H.first, hk, hr, hl, Bool.or_self, Bool.false_eq_true, if_false, if_true]

/-! The step that completes an operation. -/

theorem completing_shares {s : State} {code : Nat} {o x : EngineOp} {w : Workgroup} (H : Completing s code o w)
    (hx : x ∈ s.earlierOps o) : o.shares x = false := by
  refine Bool.eq_false_iff.mpr fun hs => ?_
  simp only [EngineOp.shares, Bool.and_eq_true, beq_iff_eq, Bool.not_eq_true', List.any_eq_true] at hs
  obtain ⟨⟨hwg, hst⟩, a, ha, b, hb, hab⟩ := hs
  refine H.inOrder x hx hwg (fun c y sent hp => ?_) a ha b hb hab
  rw [EngineOp.stamping, hp] at hst
  cases hst

theorem completing_eq {s : State} {code : Nat} {o : EngineOp} {w : Workgroup} (H : Completing s code o w) :
    s.completing code = some (o, w) := by
  have hfree : (s.earlierOps o).any o.shares = false := List.any_eq_false.mpr fun x hx => by rw [completing_shares H hx]; decide
  simp [State.completing, H.op, H.code, H.running, H.sound, hfree, H.wg]

/-- What the end of an operation does to the tiles that it reads (Table 12.4). -/
def releaseTiles (o : EngineOp) (w : Workgroup) : Workgroup :=
  updateTiles (fun _ => releaseReader) (o.tiles.filter fun x => !x.2) w

theorem releaseTiles_frame (o : EngineOp) (w : Workgroup) : releaseTiles o w = { w with tiles := (releaseTiles o w).tiles } :=
  updateTiles_fields _ _ w

theorem releaseTiles_accTile (o : EngineOp) (w : Workgroup) (n : Nat) : (releaseTiles o w).accTile n = w.accTile n := by
  rw [releaseTiles_frame]; rfl

theorem releaseTiles_outside {o : EngineOp} {w : Workgroup} {n : Nat} (h : w.tiles.length ≤ n) :
    (releaseTiles o w).tile n = 0 := tile_outside (by unfold releaseTiles; rw [updateTiles_length]; exact h)

theorem releaseTiles_read (o : EngineOp) (w : Workgroup) {n : Nat} (h1 : namings o n false = 1) (h0 : namings o n true = 0) :
    readerDone (w.tile n) ((releaseTiles o w).tile n) := by
  by_cases hn : n < w.tiles.length
  · have hs : (o.tiles.filter fun x => !x.2).filter (fun x => x.1 == n) = [(n, false)] := by
      rw [List.filter_filter, List.filter_congr fun x _ => Bool.and_comm (x.1 == n) (!x.2), ← List.filter_filter,
        tiles_named_once (b := false) h1 h0]
      rfl
    unfold releaseTiles
    rw [updateTiles_tile _ _ _ hn, hs, List.foldl_cons, List.foldl_nil]
    exact readerDone_releaseReader _
  · rw [releaseTiles_outside (Nat.le_of_not_lt hn), tile_outside (Nat.le_of_not_lt hn)]
    exact ⟨by decide, by decide⟩

theorem releaseTiles_unread (o : EngineOp) (w : Workgroup) {n : Nat} (h0 : namings o n false = 0) :
    (releaseTiles o w).tile n = w.tile n := by
  by_cases hn : n < w.tiles.length
  · have hs : (o.tiles.filter fun x => !x.2).filter (fun x => x.1 == n) = [] := by
      rw [List.filter_filter]
      refine Eq.trans (List.filter_congr fun x _ => ?_) (List.length_eq_zero_iff.mp h0)
      obtain ⟨m, b⟩ := x
      rw [Bool.eq_iff_iff, beq_iff_eq, Prod.mk.injEq, Bool.and_eq_true, beq_iff_eq, Bool.not_eq_true']
    unfold releaseTiles
    rw [updateTiles_tile _ _ _ hn, hs]
    rfl
  · rw [releaseTiles_outside (Nat.le_of_not_lt hn), tile_outside (Nat.le_of_not_lt hn)]

theorem releaseReaders_wg {s : State} {o : EngineOp} {w : Workgroup} (h : s.wg? o.wg = some w) :
    ∃ w', (s.releaseReaders o).wg? o.wg = some w' ∧ SameUnits (releaseTiles o w) w' :=
  (pollTwait_sameEngines (s.modWg o.wg (releaseTiles o)) o.wg).wg _ _
    (modWg_wg? h (by rw [releaseTiles_frame]))

/-- The workgroup of an operation that ends does not retire while one of its threads lives (R44). -/
theorem endOp_live {s : State} {o : EngineOp} {w : Workgroup} (h : s.wg? o.wg = some w) (hl : w.anyLive = true) :
    s.endOp o = s.dropOp o.id := by
  have h' : (s.dropOp o.id).wg? o.wg = some w := h
  unfold State.endOp State.retireCheck
  rw [h']
  dsimp only
  split
  · rfl
  · unfold State.retire
    rw [h']
    simp [hl]

theorem op?_dropOp (s : State) (id : Nat) : (s.dropOp id).op? id = none :=
  List.find?_eq_none.mpr fun x hx => by simpa using (List.mem_filter.mp hx).2

/-- A completed operation leaves its result in its destination; nothing else of the accumulators changes. -/
theorem putAcc_computed {s : State} {code : Nat} {o : EngineOp} {w : Workgroup} (H : Completing s code o w) (hc : code ≠ 0x1C5)
    {d : List Word} {f : Nat → Nat → Word} (hd : ∀ i < 64, ∀ j < 64, accAt d i j = f i j) (po : Bool) :
    Computed s (s.putAcc o o.accIndex d po) o w f po := by
  have hlen := H.acc (by rw [H.code]; exact hc)
  let w1 := w.setAcc o.accIndex { w.accTile o.accIndex with data := d, poison := po }
  have h1 : (s.modWg o.wg fun w => w.setAcc o.accIndex { w.accTile o.accIndex with data := d, poison := po }).wg? o.wg = some w1 :=
    modWg_wg? H.wg rfl
  obtain ⟨w2, h2, hu⟩ := releaseReaders_wg h1
  have hlive : w2.anyLive = true := hu.live (by rw [releaseTiles_frame]; exact H.live)
  have hacc (n : Nat) : w2.accTile n = w1.accTile n := by rw [hu.accTile, releaseTiles_accTile]
  have hdst : w1.accTile o.accIndex = { w.accTile o.accIndex with data := d, poison := po } := by
    rw [setAcc_accTile, if_pos ⟨rfl, hlen⟩]
  unfold State.putAcc
  rw [endOp_live h2 hlive]
  refine ⟨op?_dropOp _ _, w2, by rw [State.wg?_id H.wg]; exact h2, fun n hr hw => ?_, ?_, ?_, ?_, fun n hn => ?_⟩
  · rw [hu.tile]; exact releaseTiles_read o w1 hr hw
  · rw [hacc, hdst]
  · rw [hacc, hdst]
  · rw [hacc, hdst]; exact hd
  · rw [hacc, setAcc_accTile, if_neg fun h => hn h.1.symm]

/-! What an accumulator holds. -/

theorem accRows_getElem? (f : Nat → Nat → Word) (n : Nat) {i j : Nat} (hi : i < n) (hj : j < 64) :
    (((List.range n).map fun i => (List.range 64).map fun j => f i j).flatten)[64 * i + j]? = some (f i j) := by
  have hlen (m : Nat) : (((List.range m).map fun i => (List.range 64).map fun j => f i j).flatten).length = 64 * m := by
    induction m with
    | zero => rfl
    | succ m ih => rw [List.range_succ (n := m), List.map_append, List.flatten_append, List.length_append, ih]; simp; omega
  induction n with
  | zero => omega
  | succ n ih =>
    rw [List.range_succ (n := n), List.map_append, List.flatten_append]
    by_cases h : i < n
    · rw [List.getElem?_append_left (by rw [hlen]; omega), ih h]
    · obtain rfl : i = n := by omega
      rw [List.getElem?_append_right (by rw [hlen]; omega), hlen]
      simp [hj]

theorem accAt_accOf (f : Nat → Nat → Word) {i j : Nat} (hi : i < 64) (hj : j < 64) : accAt (accOf f) i j = f i j := by
  unfold accAt accOf
  rw [List.getD_eq_getElem?_getD, accRows_getElem? f 64 hi hj]; rfl

theorem accAt_zeros {i j : Nat} (hi : i < 64) (hj : j < 64) : accAt (List.replicate 4096 0) i j = 0 := by
  unfold accAt
  rw [List.getD_eq_getElem?_getD, List.getElem?_replicate, if_pos (by omega)]
  rfl

theorem accAt_mmaTile (k : Nat) (a b : Nat → Nat → FVal) (d : List Word) {i j : Nat} (hi : i < 64) (hj : j < 64) :
    accAt (mmaTile k a b d) i j
      = dot ((List.range k).map fun x => a i x) ((List.range k).map fun x => b x j) (accAt d i j) := accAt_accOf _ hi hj

/-- The successive products of MMA `.a` add up in each element (R301). -/
theorem accAt_mmaSteps (k : Nat) (a b : Nat → Nat → FVal) (d : List Word) (n : Nat) {i j : Nat} (hi : i < 64) (hj : j < 64) :
    accAt (mmaSteps k a b d n) i j = (List.range n).foldl (fun c m => dot ((List.range k).map fun x => a i (m * k + x))
      ((List.range k).map fun x => b (m * k + x) j) c) (accAt d i j) := by
  induction n with
  | zero => rfl
  | succ n ih =>
    rw [List.range_succ, List.foldl_append, ← ih]
    exact accAt_mmaTile k _ _ _ hi hj

/-! The completions into an accumulator. -/

theorem mmaComplete_computed {s : State} {o : EngineOp} {w : Workgroup} (H : Completing s 0x1C7 o w) :
    ∃ t po, exec .mmaComplete s = .next t
      ∧ Computed s t o w (fun i j =>
          if o.bit12 then
            (List.range (64 / mmaDepth o.body.fmt.toNat)).foldl (fun c n => dot
              ((List.range (mmaDepth o.body.fmt.toNat)).map fun x => downConvert o.body.fmt.toNat
                (match o.record with | some r => r.clamp | none => 0)
                (accAt (w.accTile o.srcAcc).data i (n * mmaDepth o.body.fmt.toNat + x)))
              (colOf s w (w.tile o.body.tb.toNat) (mmaDepth o.body.fmt.toNat) (n * mmaDepth o.body.fmt.toNat) j) c)
              (accAt (w.accTile o.accIndex).data i j)
          else dot (rowOf s w (w.tile o.body.ta.toNat) (mmaDepth o.body.fmt.toNat) i)
            (colOf s w (w.tile o.body.tb.toNat) (mmaDepth o.body.fmt.toNat) 0 j) (accAt (w.accTile o.accIndex).data i j)) po
      ∧ ((w.accTile o.accIndex).poison = true → po = true) := by
  show ∃ t po, execMmaComplete s = .next t ∧ _
  rw [execMmaComplete, completing_eq H]
  dsimp only
  cases hb : o.bit12 with
  | true =>
    refine ⟨_, _, rfl, putAcc_computed H (by decide) (fun i hi j hj => ?_) _, fun hp => by simp [hp]⟩
    exact accAt_mmaSteps _ _ _ _ _ hi hj
  | false =>
    refine ⟨_, _, rfl, putAcc_computed H (by decide) (fun i hi j hj => ?_) _, fun hp => by simp [hp]⟩
    simp only [Bool.false_eq_true, if_false, accAt_mmaTile _ _ _ _ hi hj, rowOf, colOf, Nat.zero_add]

theorem mmakComplete_computed {s : State} {o : EngineOp} {w : Workgroup} (H : Completing s 0x1C8 o w) :
    ∃ t, exec .mmakComplete s = .next t
      ∧ Computed s t o w (fun i j => dot ((List.range 32).map fun x => cbWeight s w (w.tile o.body.ta.toNat) o.table i x)
          (colOf s w (w.tile o.body.tb.toNat) 32 0 j) 0)
          (s.anyPoison w (w.tile o.body.ta.toNat) || s.anyPoison w (w.tile o.body.tb.toNat)) := by
  show ∃ t, execMmakComplete s = .next t ∧ _
  rw [execMmakComplete, completing_eq H]
  refine ⟨_, rfl, putAcc_computed H (by decide) (fun i hi j hj => ?_) _⟩
  rw [accAt_mmaTile _ _ _ _ hi hj, accAt_zeros hi hj]
  simp only [colOf, Nat.zero_add]

theorem scaccComplete_computed {s : State} {o : EngineOp} {w : Workgroup} (H : Completing s 0x1C9 o w) :
    ∃ t po, exec .scaccComplete s = .next t
      ∧ Computed s t o w (fun i j => scaccElement (accAt (w.accTile o.accIndex).data i j) (accAt (w.accTile o.srcAcc).data i j)
          (s.tileValue w (w.tile o.body.ta.toNat) i 0) (s.tileValue w (w.tile o.body.tb.toNat) 0 j)) po := by
  show ∃ t po, execScaccComplete s = .next t ∧ _
  rw [execScaccComplete, completing_eq H]
  exact ⟨_, _, rfl, putAcc_computed H (by decide) (fun i hi j hj => accAt_accOf _ hi hj) _⟩

theorem aclrComplete_computed {s : State} {o : EngineOp} {w : Workgroup} (H : Completing s 0x1CA o w) :
    ∃ t, exec .aclrComplete s = .next t ∧ Computed s t o w (fun _ _ => 0) false := by
  show ∃ t, execAclrComplete s = .next t ∧ _
  rw [execAclrComplete, completing_eq H]
  exact ⟨_, rfl, putAcc_computed H (by decide) (fun i hi j hj => accAt_zeros hi hj) _⟩

theorem ainitComplete_computed {s : State} {o : EngineOp} {w : Workgroup} (H : Completing s 0x1CB o w) :
    ∃ t, exec .ainitComplete s = .next t
      ∧ Computed s t o w (fun i j => ainitElement (tFmt (w.tile o.body.ta.toNat)) (s.tileBits w (w.tile o.body.ta.toNat) i j))
          (s.anyPoison w (w.tile o.body.ta.toNat)) := by
  show ∃ t, execAinitComplete s = .next t ∧ _
  rw [execAinitComplete, completing_eq H]
  exact ⟨_, rfl, putAcc_computed H (by decide) (fun i hi j hj => accAt_accOf _ hi hj) _⟩

/-! Bytes after a write of several. -/

theorem lastByte_cons (w : Nat × Byte) (ws : List (Nat × Byte)) (a : Nat) (x : Byte) :
    (lastByte (w :: ws) a).getD x = (lastByte ws a).getD (if a = w.1 then w.2 else x) := by
  unfold lastByte
  by_cases h : a = w.1
  · subst h
    rw [List.filter_cons_of_pos (by simp), List.getLast?_cons]
    cases (ws.filter fun y => y.1 == w.1).getLast? <;> simp
  · rw [List.filter_cons_of_neg (by simpa using Ne.symm h), if_neg h]

/-- After a write, a byte is the last that the list has for its address, or as before. -/
theorem putBytes_byteAt {s : State} (ws : List (Nat × PByte)) (h : s.memWf) (a : Nat) :
    (s.putBytes ws).byteAt a = (lastByte (ws.map fun w => (w.1, w.2.1)) a).getD (s.byteAt a) := by
  show readByte (ws.foldl (fun m w => writeByte m w.1 w.2.1) s.mem) a = (lastByte _ a).getD (readByte s.mem a)
  have hm : Memory.wf s.mem = true := h
  generalize s.mem = m at hm
  induction ws generalizing m with
  | nil => rfl
  | cons w ws ih =>
    rw [List.foldl_cons, ih _ (writeByte_wf _ _ hm), List.map_cons, lastByte_cons, readByte_writeByte hm]

/-! Where nothing looks again. -/

/-- Among these requests no LOCK and no MWAIT waits, and no wait for a tile acquires. -/
structure Hushed (rs : List Request) : Prop where
  polls : ∀ q ∈ rs, q.phase = .waiting ∨ q.phase = .registering → q.op ≠ .lock ∧ ∀ eq x, q.op ≠ .monitor eq x
  weak : ∀ q ∈ rs, ∀ n e, q.op = .twait n e → q.order = 0

/-- Nothing that looks again when a tile changes finds an operation or a word, and no wait for a tile acquires. -/
structure Unheard (s : State) (wg : Nat) : Prop where
  calm : Calm s wg
  reqs : Hushed s.reqs

theorem Unheard.of_eq {s t : State} {wg : Nat} (h : Unheard s wg) (he : t.hallEvents = s.hallEvents) (hr : t.reqs = s.reqs)
    (ho : ∀ x ∈ t.ops, x ∈ s.ops) : Unheard t wg :=
  ⟨⟨by rw [he]; exact h.calm.events, fun q hq => h.calm.polls q (by rwa [← hr]), fun x hx => h.calm.ops x (ho x hx)⟩,
    by rw [hr]; exact h.reqs⟩

theorem pollTwait_calm {s : State} {wg : Nat} (h : Calm s wg) : s.pollTwait wg = s.twaitsLook wg := by
  have hnone : ((s.twaitsLook wg).ops.filter fun o => o.wg == wg && o.phase == .waiting) = [] := by
    refine List.filter_eq_nil_iff.mpr fun x hx hb => ?_
    rw [(twaitsLook_sameEngines s wg).ops] at hx
    obtain ⟨hwg, hph⟩ := Bool.and_eq_true_iff.mp hb
    exact h.ops x hx (by simpa using hwg) (eq_of_beq hph)
  unfold State.pollTwait
  rw [hnone]; rfl

/-- A wait for a tile that has ended polls no word, and acquires as little as before. -/
theorem Hushed.putBy {rs : List Request} {r : Request} (h : Hushed rs) (hop : ∃ n e, r.op = .twait n e) (hw : r.order = 0) :
    Hushed (putBy Request.id r rs) := by
  obtain ⟨n, e, hop⟩ := hop
  refine ⟨fun q hq hph => ?_, fun q hq n' e' hq' => ?_⟩
  · obtain rfl | hq := mem_putBy hq
    · rw [hop]; exact ⟨nofun, nofun⟩
    · exact h.polls q hq hph
  · obtain rfl | hq := mem_putBy hq
    · exact hw
    · exact h.weak q hq n' e' hq'

theorem pollTwait_unheard {s : State} {wg : Nat} (h : Unheard s wg) :
    Unheard (s.pollTwait wg) wg ∧ (s.pollTwait wg).mem = s.mem := by
  have hweak (r : Request) (hr : r ∈ s.reqs) : (∃ n e, r.op = .twait n e) → r.order = 0 := fun ⟨n, e, hop⟩ => h.reqs.weak r hr n e hop
  rw [pollTwait_calm h.calm]
  have key : (s.twaitsLook wg).mem = s.mem ∧ (s.twaitsLook wg).hallEvents = s.hallEvents ∧ Hushed (s.twaitsLook wg).reqs := by
    refine twaitsLook_induct s wg (fun u => u.mem = s.mem ∧ u.hallEvents = s.hallEvents ∧ Hushed u.reqs) ⟨rfl, rfl, h.reqs⟩ ?_ ?_
    · intro u r f ⟨hm, he, hq⟩ hr hop
      rw [fail_mem, fail_hallEvents, fail_reqs]
      exact ⟨hm, he, hq.putBy hop (hweak r hr hop)⟩
    · intro u r ws ⟨hm, he, hq⟩ hr hop
      rw [finish_mem _ _ _ (by rw [hweak r hr hop]; decide), finish_hallEvents, finish_reqs]
      exact ⟨hm, he, hq.putBy hop (hweak r hr hop)⟩
  obtain ⟨hm, he, hq⟩ := key
  refine ⟨⟨⟨he.trans h.calm.events, hq.polls, fun x hx => ?_⟩, hq⟩, hm⟩
  rw [(twaitsLook_sameEngines s wg).ops] at hx
  exact h.calm.ops x hx

theorem modWg_unheard {s : State} {wg id : Nat} (h : Unheard s wg) (f : Workgroup → Workgroup) :
    Unheard (s.modWg id f) wg ∧ (s.modWg id f).mem = s.mem := by
  rw [modWg_frame]
  exact ⟨h.of_eq rfl rfl fun x hx => hx, rfl⟩

theorem pollWaits_noPolls {s : State} (h : NoPolls s) : s.pollWaits = s := by
  unfold State.pollWaits
  refine List.foldlRecOn (motive := fun u => u = s) s.reqs _ rfl fun u hu q _ => ?_
  subst hu
  split
  · rfl
  · rename_i r hr
    split
    · rfl
    · rename_i hph
      have hph : r.phase = .waiting ∨ r.phase = .registering := by simpa [Decidable.or_iff_not_imp_left] using hph
      obtain ⟨hlock, hmon⟩ := h r (List.mem_of_find?_eq_some hr) hph
      split
      · exact absurd ‹_› (hmon _ _)
      · exact absurd ‹_› hlock
      · rfl

theorem flushEvents_none {s : State} (h : s.hallEvents = []) : s.flushEvents = s := by
  unfold State.flushEvents
  rw [h, List.foldl_nil, ← h]

theorem written_unheard {s : State} {wg : Nat} (h : Unheard s wg) : s.written = s := by
  unfold State.written
  rw [pollWaits_noPolls h.calm.polls, flushEvents_none h.calm.events]

/-! A tile's entry put back, and a drain's end. -/

theorem putTile_leaves {s : State} {id : Nat} {w : Workgroup} (n : Nat) (e : DWord) (hw : s.wg? id = some w) (hu : Unheard s id) :
    Unheard (s.putTile id n e) id ∧ (s.putTile id n e).mem = s.mem
      ∧ ∃ w', (s.putTile id n e).wg? id = some w' ∧ SameUnits (w.setTile n e) w' := by
  obtain ⟨h1, hm1⟩ := modWg_unheard (id := id) hu fun w => w.setTile n e
  obtain ⟨h2, hm2⟩ := pollTwait_unheard h1
  exact ⟨h2, hm2.trans hm1, (pollTwait_sameEngines _ id).wg _ _ (modWg_wg? hw rfl)⟩

theorem releaseReaders_unheard {s : State} {o : EngineOp} (hu : Unheard s o.wg) :
    Unheard (s.releaseReaders o) o.wg ∧ (s.releaseReaders o).mem = s.mem := by
  obtain ⟨h1, hm1⟩ := modWg_unheard (id := o.wg) hu (releaseTiles o)
  obtain ⟨h2, hm2⟩ := pollTwait_unheard h1
  exact ⟨h2, hm2.trans hm1⟩

/-- Every write of a drain done, its accumulator is EMPTY and the operation is over (R305). -/
def drainEnd (s : State) (o : EngineOp) : State :=
  (((s.modWg o.wg fun w => w.setAcc o.accIndex .empty).releaseReaders o).stampThenEnd o).written

theorem drainEnd_leaves {s : State} {o : EngineOp} {w : Workgroup} (hw : s.wg? o.wg = some w) (hu : Unheard s o.wg)
    (hl : w.anyLive = true) (ha : o.accIndex < w.accs.length) (hr : o.record = none) :
    (drainEnd s o).op? o.id = none ∧ (drainEnd s o).mem = s.mem ∧ ∃ w', (drainEnd s o).wg? o.wg = some w'
      ∧ w'.accTile o.accIndex = .empty ∧ ∀ n, namings o n false = 0 → w'.tile n = w.tile n := by
  obtain ⟨h1, hm1⟩ := modWg_unheard (id := o.wg) hu fun w => w.setAcc o.accIndex .empty
  obtain ⟨h2, hm2⟩ := releaseReaders_unheard h1
  obtain ⟨w', hw', hu'⟩ := releaseReaders_wg (o := o) (modWg_wg? (f := fun w => w.setAcc o.accIndex .empty) hw rfl)
  have hlive : w'.anyLive = true := hu'.live (by rw [releaseTiles_frame]; exact hl)
  have hend : drainEnd s o = ((s.modWg o.wg fun w => w.setAcc o.accIndex .empty).releaseReaders o).dropOp o.id := by
    unfold drainEnd State.stampThenEnd
    rw [hr]
    dsimp only
    rw [endOp_live hw' hlive]
    exact written_unheard (h2.of_eq rfl rfl fun x hx => (List.mem_filter.mp hx).1)
  rw [hend]
  refine ⟨op?_dropOp _ _, hm2.trans hm1, w', hw', ?_, fun n hn => ?_⟩
  · rw [hu'.accTile, releaseTiles_accTile, setAcc_accTile, if_pos ⟨rfl, ha⟩]
  · rw [hu'.tile, releaseTiles_unread _ _ hn]; rfl

/-- The bytes of a drain to a tile, with their poison. -/
def drainBytes (s : State) (o : EngineOp) (w : Workgroup) : List (Nat × PByte) :=
  ((tileCells (w.tile o.body.ta.toNat)).map fun (r, c) =>
    elemBytes w (w.tile o.body.ta.toNat) r c (drainOut o.body.fmt.toNat 0 (s.drainY w o r c)) (s.drainPoison w o r c)).flatten

theorem drainBytes_plain (s : State) (o : EngineOp) (w : Workgroup) : (drainBytes s o w).map (fun x => (x.1, x.2.1))
    = ((tileCells (w.tile o.body.ta.toNat)).map fun (r, c) =>
        (bytesOfNat (elemSize (tFmt (w.tile o.body.ta.toNat))) (drainOut o.body.fmt.toNat 0 (s.drainY w o r c))).zipIdx.map
          fun (x, k) => (tilePa w (w.tile o.body.ta.toNat) r c + k, x)).flatten := by
  simp only [drainBytes, elemBytes, List.map_flatten, List.map_map, Function.comp_def]

theorem adrainComplete_toTile {s : State} {o : EngineOp} {w : Workgroup} (H : Completing s 0x1CC o w) (hb : o.bit12 = false)
    (ht : o.todo = []) :
    exec .adrainComplete s = .next (drainEnd ((s.putBytes (drainBytes s o w)).putTile o.wg o.body.ta.toNat
      (setState (setValid (w.tile o.body.ta.toNat) 64 64) tREADY)) o) := by
  rw [← State.wg?_id H.wg]
  show execAdrainComplete s = _
  unfold execAdrainComplete
  rw [completing_eq H]
  simp only [ht, hb, List.isEmpty_nil, Bool.not_true, Bool.false_eq_true, if_false]
  rfl

/-- A drain to a tile fills the tile with the converted values and empties its accumulator (R305). -/
theorem adrainComplete_leaves {s : State} {o : EngineOp} {w : Workgroup} (H : Completing s 0x1CC o w) (hb : o.bit12 = false)
    (hr : o.record = none) (ht : o.todo = []) (hn : namings o o.body.ta.toNat false = 0)
    (hweak : ∀ q ∈ s.reqs, ∀ n e, q.op = .twait n e → q.order = 0) (hc : Canonical s) (hcalm : Calm s w.id) :
    ∃ t w', exec .adrainComplete s = .next t ∧ t.op? o.id = none ∧ t.wg? w.id = some w'
      ∧ w'.accTile o.accIndex = ⟨aEMPTY, [], false⟩
      ∧ (o.body.ta.toNat < w.tiles.length → tState (w'.tile o.body.ta.toNat) = tREADY
        ∧ tVrows (w'.tile o.body.ta.toNat) = 64 ∧ tVcols (w'.tile o.body.ta.toNat) = 64)
      ∧ ∀ a, t.byteAt a = (lastByte ((drainBytes s o w).map fun x => (x.1, x.2.1)) a).getD (s.byteAt a) := by
  rw [State.wg?_id H.wg] at hcalm ⊢
  have hu : Unheard (s.putBytes (drainBytes s o w)) o.wg := (Unheard.mk hcalm ⟨hcalm.polls, hweak⟩).of_eq rfl rfl fun x hx => hx
  obtain ⟨hu2, hm2, w2, hw2, hs2⟩ := putTile_leaves o.body.ta.toNat (setState (setValid (w.tile o.body.ta.toNat) 64 64) tREADY)
    (show (s.putBytes (drainBytes s o w)).wg? o.wg = some w from H.wg) hu
  have hlen : o.accIndex < w2.accs.length := by rw [hs2.accs]; exact H.acc (by rw [H.code]; decide)
  obtain ⟨hop, hm, w', hw', hacc, htile⟩ := drainEnd_leaves hw2 hu2 (hs2.live H.live) hlen hr
  refine ⟨_, w', adrainComplete_toTile H hb ht, hop, hw', hacc, fun hta => ?_, fun a => ?_⟩
  · rw [htile _ hn, hs2.tile, setTile_tile, if_pos ⟨rfl, hta⟩, tState_setState, tVrows_setState, tVcols_setState,
      tVcols_setValid, tVrows_setValid]
    exact ⟨rfl, rfl, rfl⟩
  · rw [← putBytes_byteAt _ hc.mem]
    unfold State.byteAt
    rw [hm, hm2]

/-- Settles O54, step by step. An acceptance that fails is the model's own fault path; one that succeeds, and every
completion, leaves tiles and accumulators that no wait and no other operation touches afterwards (`SameEngines`). -/
theorem enginesComplete : Obligations.EnginesComplete := by
  unfold Obligations.EnginesComplete
  intro s o w rec
  refine ⟨fun hop hwg hph hready hfilled hfirst hd => ?_, fun hop hq ha => ?_, mmaComplete_computed, mmakComplete_computed,
    scaccComplete_computed, aclrComplete_computed, ainitComplete_computed, fun H hb hr ht hn hweak hc hcalm => ?_⟩
  · have H : AcceptDue s o w := ⟨hop, hwg, hph, hready, hfilled, hfirst⟩
    refine ⟨fun v code d hn ht => engineAccept_unread H hn ht, fun u po hr => ⟨?_, ?_, ?_⟩⟩
    · rintro rfl
      exact engineAccept_read H hr
    · rintro f rfl hf
      rw [engineAccept_read H hr, hf]; rfl
    · rintro rfl hf hroom
      obtain ⟨t, o', w', he, ho, hq, hword, hrec, hw', hu, hreqs⟩ := engineAccept_accepts H hr hd hf hroom
      refine ⟨t, o', w', he, ho, hq, hword, hrec, hw', fun n h1 h0 => ?_, fun n h1 h0 => ?_, fun a haccs hlen => ?_, hreqs⟩
      · rw [hu.tile]; exact acceptStates_written (w := w.emptyLatch o.id) hready h1 h0
      · rw [hu.tile]; exact acceptStates_read (w := w.emptyLatch o.id) hready h1 h0
      · rw [hu.accTile]; exact acceptStates_acc (w := w.emptyLatch o.id) haccs hlen
  · have H := startDue_of hop hq ha
    refine ⟨start_unreceived H, fun hk hm => ⟨_, start_runs H hk hm, op?_setOp_self H.self⟩, fun u ws hk hr hl hops => ?_⟩
    refine ⟨_, start_table H hk hr hl, op?_setOp_self (o := { o with phase := .running, table := ws }) (x := o) ?_⟩
    unfold State.op?
    rw [hops]; exact H.self
  · rw [← drainBytes_plain]
    exact adrainComplete_leaves H hb hr ht hn hweak hc hcalm

end Sys2Proof.Machine
